-- ==== Sys2Proof/Word.lean ====
section
/-! DEFINITION.  The word types of the K960 and their plainest readings (R6, R7, R14). -/

namespace Sys2Proof

/-- One byte of memory or scratchpad. -/
abbrev Byte := BitVec 8
/-- One register of one thread, an instruction word or a literal (R341). -/
abbrev Word := BitVec 32
/-- A register pair, an address, or a memory-mapped register. -/
abbrev Dword := BitVec 64
/-- A register field of an instruction word: v0 to v127 (R342). -/
abbrev RegIx := BitVec 7
/-- A set of lanes of a group, bit t for lane t. -/
abbrev Lanes := BitVec 32

end Sys2Proof
end

