-- ==== Sys2Proof/Machine/Num.lean ====
section
/-! DEFINITION.  Number formats and exact arithmetic (R309 to R318, R329): a finite value is sign, magnitude m and exponent e, standing for
m × 2^e; every result is computed exactly and rounded once. -/

namespace Sys2Proof.Machine

/-- A decoded value: NaN, an infinity, or (-1)^neg × m × 2^e. -/
inductive Val where
  | nan
  | inf (neg : Bool)
  | fin (neg : Bool) (m : Nat) (e : Int)
  deriving DecidableEq, Repr

/-- Rounding modes of R312. -/
inductive RMode where
  | rne
  | rz
  | ru
  | rd
  deriving DecidableEq, Repr

/-- The mode of a rounding code (R312). -/
def rmode (c : Nat) : RMode :=
  if c == 1 then .rz else if c == 2 then .ru else if c == 3 then .rd else .rne

/-- What a format does with values beyond its largest: infinity, NaN (E4M3), or its largest (R329). -/
inductive Over where
  | infinity
  | nan
  | clamp
  deriving DecidableEq, Repr

/-- A floating format: exponent and fraction widths, bias, largest finite encoding (sign aside), overflow kind, canonical NaN, whether it has
a sign bit, and whether the all-ones exponent is special (R309, R318). -/
structure Fmt where
  ebits : Nat
  mbits : Nat
  bias : Nat
  maxEnc : Nat
  atTop : Over
  nan : Nat
  signed : Bool
  deriving DecidableEq, Repr

/-- FP32 (R309). -/
def fp32 : Fmt := ⟨8, 23, 127, 0x7F7FFFFF, .infinity, 0x7FC00000, true⟩
/-- FP16 (R309). -/
def fp16 : Fmt := ⟨5, 10, 15, 0x7BFF, .infinity, 0x7E00, true⟩
/-- BF16 (R309). -/
def bf16 : Fmt := ⟨8, 7, 127, 0x7F7F, .infinity, 0x7FC0, true⟩
/-- TF32 as its 19 significant bits; the container is these bits shifted left by 13 (R309, R310). -/
def tf32 : Fmt := ⟨8, 10, 127, 0x3FBFF, .infinity, 0x3FE00, true⟩
/-- E4M3 (R318). -/
def e4m3 : Fmt := ⟨4, 3, 7, 0x7E, .nan, 0x7F, true⟩
/-- E5M2 (R318). -/
def e5m2 : Fmt := ⟨5, 2, 15, 0x7B, .infinity, 0x7E, true⟩
/-- E2M3 (R318). -/
def e2m3 : Fmt := ⟨2, 3, 1, 0x1F, .clamp, 0, true⟩
/-- E3M2 (R318). -/
def e3m2 : Fmt := ⟨3, 2, 3, 0x1F, .clamp, 0, true⟩
/-- E2M1 (R318). -/
def e2m1 : Fmt := ⟨2, 1, 1, 0x7, .clamp, 0, true⟩
/-- E3M5 (R318). -/
def e3m5 : Fmt := ⟨3, 5, 3, 0xFF, .clamp, 0, false⟩

/-- Bits of an encoding without the sign. -/
def Fmt.magBits (f : Fmt) : Nat := f.ebits + f.mbits

/-- The value of an encoding (R309, R318). -/
def valueOf (f : Fmt) (n : Nat) : Val :=
  let neg := f.signed && n / 2 ^ f.magBits % 2 == 1
  let mag := n % 2 ^ f.magBits
  let e := mag / 2 ^ f.mbits
  let fr := mag % 2 ^ f.mbits
  match f.atTop with
  | .infinity =>
    if e == 2 ^ f.ebits - 1 then (if fr == 0 then .inf neg else .nan)
    else if e == 0 then .fin neg fr (1 - (f.bias : Int) - f.mbits)
    else .fin neg (2 ^ f.mbits + fr) ((e : Int) - f.bias - f.mbits)
  | .nan =>
    if f.maxEnc < mag then .nan
    else if e == 0 then .fin neg fr (1 - (f.bias : Int) - f.mbits)
    else .fin neg (2 ^ f.mbits + fr) ((e : Int) - f.bias - f.mbits)
  | .clamp =>
    if e == 0 then .fin neg fr (1 - (f.bias : Int) - f.mbits)
    else .fin neg (2 ^ f.mbits + fr) ((e : Int) - f.bias - f.mbits)

/-- Whether a truncated magnitude goes up, from its last bit, the comparison of the remainder with one half, and exactness. -/
def roundUp (mode : RMode) (neg odd inexact : Bool) (half : Ordering) : Bool :=
  match mode with
  | .rne => half == .gt || (half == .eq && odd)
  | .rz => false
  | .ru => inexact && !neg
  | .rd => inexact && neg

/-- The integer nearest to (m + ε) × 2^(-shift) in a mode; ε stands for a positive remainder below one when `sticky` (shift ≥ 1 then). -/
def roundShift (mode : RMode) (neg : Bool) (m shift : Nat) (sticky : Bool) : Nat :=
  let q := m / 2 ^ shift
  let r := m % 2 ^ shift
  let half :=
    if shift == 0 then (if sticky then Ordering.lt else Ordering.lt)
    else if r < 2 ^ (shift - 1) then .lt
    else if r == 2 ^ (shift - 1) && !sticky then .eq
    else .gt
  if roundUp mode neg (q % 2 == 1) (sticky || !(r == 0)) half then q + 1 else q

/-- The sign bit of a format. -/
def signBit (f : Fmt) (neg : Bool) : Nat := if neg && f.signed then 2 ^ f.magBits else 0

/-- What overflow gives (R329); `sat` is the .sat qualifier. -/
def overflowEnc (f : Fmt) (mode : RMode) (neg sat : Bool) : Nat :=
  let largest := signBit f neg + f.maxEnc
  let inward := mode == .rz || (mode == .rd && !neg) || (mode == .ru && neg)
  if sat then largest else
    match f.atTop with
    | .clamp => largest
    | .infinity => if inward then largest else signBit f neg + (2 ^ f.ebits - 1) * 2 ^ f.mbits
    | .nan => if inward then largest else f.nan

/-- Round a nonzero finite magnitude (m + ε) × 2^e to a format (R313, R329). -/
def roundMag (f : Fmt) (mode : RMode) (sat neg : Bool) (m : Nat) (e : Int) (sticky : Bool) : Nat :=
  let top : Int := (Nat.log2 m : Int) + e
  let q : Int := max (top - f.mbits) (1 - (f.bias : Int) - f.mbits)
  let sh : Int := q - e
  let (m2, sh2) := if sh < 1 then (m * 2 ^ (1 - sh).toNat, 1) else (m, sh.toNat)
  let n := roundShift mode neg m2 sh2 sticky
  let enc :=
    if n < 2 ^ f.mbits then n
    else ((q + f.mbits + f.bias).toNat) * 2 ^ f.mbits + (n - 2 ^ f.mbits)
  if f.maxEnc < enc then overflowEnc f mode neg sat else signBit f neg + enc

/-- Round a value to a format (R314, R329): NaN to the canonical NaN, infinities as R329 states, zero with its sign. -/
def roundVal (f : Fmt) (mode : RMode) (sat : Bool) : Val → Nat
  | .nan => f.nan
  | .inf neg =>
    if sat then signBit f neg + f.maxEnc
    else match f.atTop with
      | .clamp => signBit f neg + f.maxEnc
      | .infinity => signBit f neg + (2 ^ f.ebits - 1) * 2 ^ f.mbits
      | .nan => f.nan
  | .fin neg m e => if m == 0 then signBit f neg else roundMag f mode sat neg m e false

/-- The integer m × 2^(e - base) of a finite value, signed; `base` is at most e. -/
def scaled (base : Int) (neg : Bool) (m : Nat) (e : Int) : Int :=
  let n : Int := (m * 2 ^ (e - base).toNat : Nat)
  if neg then -n else n

/-- The exact product (R396); zero times infinity is NaN. -/
def mulVal : Val → Val → Val
  | .nan, _ => .nan
  | _, .nan => .nan
  | .inf a, .inf b => .inf (xor a b)
  | .inf a, .fin b m _ => if m == 0 then .nan else .inf (xor a b)
  | .fin a m _, .inf b => if m == 0 then .nan else .inf (xor a b)
  | .fin a m e, .fin b n k => .fin (xor a b) (m * n) (e + k)

/-- The exact sum; an exact zero from operands of different sign, or from cancellation, is signed by the mode (R313). -/
def addVal (mode : RMode) : Val → Val → Val
  | .nan, _ => .nan
  | _, .nan => .nan
  | .inf a, .inf b => if a == b then .inf a else .nan
  | .inf a, .fin _ _ _ => .inf a
  | .fin _ _ _, .inf b => .inf b
  | .fin a m e, .fin b n k =>
    let base := min e k
    let s := scaled base a m e + scaled base b n k
    if s == 0 then .fin (if m == 0 && n == 0 && a == b then a else mode == .rd) 0 0
    else .fin (s < 0) s.natAbs base

/-- The value with its sign inverted. -/
def negVal : Val → Val
  | .nan => .nan
  | .inf a => .inf (!a)
  | .fin a m e => .fin (!a) m e

/-- Exact comparison of two values that are not NaN; -0 equals +0. -/
def cmpVal : Val → Val → Ordering
  | .inf a, .inf b => if a == b then .eq else if a then .lt else .gt
  | .inf a, _ => if a then .lt else .gt
  | _, .inf b => if b then .gt else .lt
  | .fin a m e, .fin b n k =>
    let base := min e k
    compare (scaled base a m e) (scaled base b n k)
  | _, _ => .eq

/-- The value is NaN. -/
def Val.isNan : Val → Bool
  | .nan => true
  | _ => false

/-- FP32 value of a register. -/
def f32 (w : Word) : Val := valueOf fp32 w.toNat

/-- Round a value to an FP32 register (R314). -/
def toF32 (mode : RMode) (v : Val) : Word := BitVec.ofNat 32 (roundVal fp32 mode false v)

/-- FADD, FSUB, FMUL and FFMA on any format (R396, R399). -/
def faddEnc (f : Fmt) (mode : RMode) (a b : Nat) : Nat := roundVal f mode false (addVal mode (valueOf f a) (valueOf f b))
/-- Subtraction (R396). -/
def fsubEnc (f : Fmt) (mode : RMode) (a b : Nat) : Nat := roundVal f mode false (addVal mode (valueOf f a) (negVal (valueOf f b)))
/-- Multiplication (R396). -/
def fmulEnc (f : Fmt) (mode : RMode) (a b : Nat) : Nat := roundVal f mode false (mulVal (valueOf f a) (valueOf f b))
/-- Fused multiply-add a × b + d (R396). -/
def ffmaEnc (f : Fmt) (mode : RMode) (a b d : Nat) : Nat :=
  roundVal f mode false (addVal mode (mulVal (valueOf f a) (valueOf f b)) (valueOf f d))

/-- FMIN and FMAX (R397): NaN if either is NaN; -0 is less than +0. -/
def fminmaxEnc (f : Fmt) (maxi : Bool) (a b : Nat) : Nat :=
  let x := valueOf f a
  let y := valueOf f b
  if x.isNan || y.isNan then f.nan
  else
    let neg := fun (n : Nat) => n / 2 ^ f.magBits % 2 == 1
    let less := match cmpVal x y with
      | .lt => true
      | .gt => false
      | .eq => neg a && !neg b
    if less == maxi then b else a

/-- FCMP with condition code c (R397): every condition but ne is false on a NaN. -/
def fcmpVal (c : Nat) (x y : Val) : Bool :=
  if x.isNan || y.isNan then c == 1
  else
    let o := cmpVal x y
    if c == 0 then o == .eq else if c == 1 then !(o == .eq) else if c == 2 then o == .lt
    else if c == 3 then !(o == .gt) else if c == 4 then o == .gt else !(o == .lt)

/-- FCLASS (R397). -/
def fclassOf (w : Word) : Word :=
  let neg := w.getLsbD 31
  let e := (w.extractLsb' 23 8).toNat
  let fr := (w.extractLsb' 0 23).toNat
  let k :=
    if e == 255 then (if fr == 0 then (if neg then 0 else 7) else if w.getLsbD 22 then 9 else 8)
    else if e == 0 then (if fr == 0 then (if neg then 3 else 4) else if neg then 2 else 5)
    else if neg then 1 else 6
  1#32 <<< k

/-- The integer nearest to a finite value in a mode. -/
def roundInt (mode : RMode) (neg : Bool) (m : Nat) (e : Int) : Int :=
  let n : Nat := if 0 ≤ e then m * 2 ^ e.toNat else roundShift mode neg m (-e).toNat false
  if neg then -(n : Int) else n

/-- FRINT (R396). -/
def frintOf (mode : RMode) (w : Word) : Word :=
  match f32 w with
  | .nan => BitVec.ofNat 32 fp32.nan
  | .inf _ => w
  | .fin neg m e =>
    let n := (roundInt mode neg m e).natAbs
    BitVec.ofNat 32 (if n == 0 then signBit fp32 neg else roundMag fp32 .rne false neg n 0 false)

/-- The exact sum of a list of values by the rules of FGRED.ADD and R325: NaN, mixed infinities, an infinity, else the exact sum, whose zero is
negative only when every value is -0. -/
def sumVals (vs : List Val) : Val :=
  if vs.any (·.isNan) then .nan
  else
    let pos := vs.any fun v => v == .inf false
    let neg := vs.any fun v => v == .inf true
    if pos && neg then .nan
    else if pos then .inf false
    else if neg then .inf true
    else
      let base := vs.foldl (fun (b : Int) v => match v with | .fin _ _ e => min b e | _ => b) 0
      let s := vs.foldl (fun (t : Int) v => match v with | .fin a m e => t + scaled base a m e | _ => t) 0
      if s == 0 then .fin (vs.all fun v => match v with | .fin a m _ => a && m == 0 | _ => false) 0 0
      else .fin (s < 0) s.natAbs base

/-! ## Correctly rounded functions (R315) -/

/-- Floor of the square root, one bit at a time from bit k down. -/
def isqrtGo (n : Nat) : Nat → Nat → Nat
  | 0, r => if (r + 1) * (r + 1) ≤ n then r + 1 else r
  | k + 1, r =>
    let t := r + 2 ^ (k + 1)
    isqrtGo n k (if t * t ≤ n then t else r)

/-- Floor of the square root. -/
def isqrt (n : Nat) : Nat := isqrtGo n (Nat.log2 n / 2 + 1) 0

/-- Working precision in bits of the transcendental functions. -/
def prec : Nat := 512

/-- Sum of x^(2k+1)/(2k+1) with alternating signs when `alt`, for x = 1/d in fixed point: an arctangent or its hyperbolic twin. -/
def atanInv (alt : Bool) (d : Nat) : Nat → Nat → Nat → Int
  | 0, _, _ => 0
  | fuel + 1, k, p =>
    let t : Int := (p / (2 * k + 1) : Nat)
    (if alt && k % 2 == 1 then -t else t) + atanInv alt d fuel (k + 1) (p / (d * d))

/-- π × 2^prec by Machin's formula. -/
def piFixed : Nat :=
  let one := 2 ^ (prec + 32)
  ((16 * atanInv true 5 260 0 (one / 5) - 4 * atanInv true 239 80 0 (one / 239)) / 2 ^ 32).toNat

/-- ln 2 × 2^prec, as 2 artanh(1/3). -/
def ln2Fixed : Nat :=
  let one := 2 ^ (prec + 32)
  (2 * atanInv false 3 360 0 (one / 3) / 2 ^ 32).toNat

/-- Σ y^k / k! in fixed point. -/
def expSeries (y : Nat) : Nat → Nat → Nat → Nat
  | 0, _, _ => 0
  | fuel + 1, k, t => t + expSeries y fuel (k + 1) (t * y / 2 ^ prec / (k + 1))

/-- Σ z^(2k+1)/(2k+1) in fixed point. -/
def atanhSeries (z2 : Nat) : Nat → Nat → Nat → Nat
  | 0, _, _ => 0
  | fuel + 1, k, t => t / (2 * k + 1) + atanhSeries z2 fuel (k + 1) (t * z2 / 2 ^ prec)

/-- Σ ± y^n / n! over n = n0, n0 + 2, …: sine from n0 = 1, cosine from n0 = 0. -/
def trigSeries (y2 : Nat) : Nat → Nat → Nat → Int
  | 0, _, _ => 0
  | fuel + 1, n, t => (t : Int) - trigSeries y2 fuel (n + 2) (t * y2 / 2 ^ prec / ((n + 1) * (n + 2)))

/-- The six functions after their special cases, and the special cases of R315.  `fn`: 0 RCP, 1 SQRT, 2 RSQ, 3 EXP2, 4 LOG2, 5 SIN, 6 COS. -/
def functionOf (fn : Nat) (mode : RMode) (w : Word) : Word :=
  let out := fun (n : Nat) => BitVec.ofNat 32 n
  let nan := out fp32.nan
  let inf := fun (neg : Bool) => out (signBit fp32 neg + 0x7F800000)
  let zero := fun (neg : Bool) => out (signBit fp32 neg)
  let one := out 0x3F800000
  let rnd := fun (neg : Bool) (m : Nat) (e : Int) (st : Bool) => out (roundMag fp32 mode false neg m e st)
  match f32 w with
  | .nan => nan
  | .inf neg =>
    if fn == 0 then zero neg
    else if fn == 1 then (if neg then nan else inf false)
    else if fn == 2 then (if neg then nan else zero false)
    else if fn == 3 then (if neg then zero false else inf false)
    else if fn == 4 then (if neg then nan else inf false)
    else nan
  | .fin neg m e =>
    if m == 0 then
      (if fn == 0 || fn == 2 then inf neg
       else if fn == 1 || fn == 5 then zero neg
       else if fn == 4 then inf true
       else one)
    else if fn == 0 then rnd neg (2 ^ 80 / m) (-80 - e) (!(2 ^ 80 % m == 0))
    else if fn == 1 then
      if neg then nan else
        let (m1, e1) := if e % 2 == 0 then (m, e) else (2 * m, e - 1)
        let n := m1 * 2 ^ 80
        let r := isqrt n
        rnd false r (e1 / 2 - 40) (!(r * r == n))
    else if fn == 2 then
      if neg then nan else
        let (m1, e1) := if e % 2 == 0 then (m, e) else (2 * m, e - 1)
        let n := 2 ^ 160 / m1
        let r := isqrt n
        rnd false r (-80 - e1 / 2) (!(r * r * m1 == 2 ^ 160))
    else if fn == 3 then
      let top : Int := (Nat.log2 m : Int) + e
      if top < -40 then (if neg then rnd false (2 ^ 60 - 1) (-60) true else rnd false (2 ^ 60) (-60) true)
      else if 9 ≤ top then
        (if neg then rnd false 1 (-300) true else rnd false (2 ^ 30) 300 true)
      else
        -- x × 2^64 is an integer here
        let n : Int := scaled (-64) neg m (if e < -64 then -64 else e)
        let n := if e < -64 then (if neg then -((m / 2 ^ (-64 - e).toNat : Nat) : Int) else (m / 2 ^ (-64 - e).toNat : Nat)) else n
        let k : Int := n / 2 ^ 64
        let f : Nat := (n - k * 2 ^ 64).toNat
        if f == 0 && -64 ≤ e then rnd false (2 ^ 30) (k - 30) false
        else
          let y := f * ln2Fixed / 2 ^ 64
          rnd false (expSeries y 120 0 (2 ^ prec)) (k - prec) true
    else if fn == 4 then
      if neg then nan else
        let l := Nat.log2 m
        let k : Int := (l : Int) + e
        if m == 2 ^ l then
          (if k == 0 then zero false else rnd (k < 0) k.natAbs 0 false)
        else
          let num := (m - 2 ^ l) * 2 ^ prec
          let z := num / (m + 2 ^ l)
          let at_ := atanhSeries (z * z / 2 ^ prec) 340 0 z
          let fr : Int := (2 * at_ * 2 ^ prec / ln2Fixed : Nat)
          let v : Int := k * 2 ^ prec + fr
          rnd (v < 0) v.natAbs (-(prec : Int)) true
    else
      let top : Int := (Nat.log2 m : Int) + e
      if top < -30 then
        (if fn == 5 then rnd neg (m * 2 ^ 80 - 1) (e - 80) true else rnd false (2 ^ 80 - 1) (-80) true)
      else
        let half := piFixed / 2
        let x : Nat := if 0 ≤ e then m * 2 ^ e.toNat * 2 ^ prec else m * 2 ^ prec / 2 ^ (-e).toNat
        let k := x / half
        let r := x - k * half
        let r2 := r * r / 2 ^ prec
        let quad := (if fn == 5 then k else k + 1) % 4
        let val : Int := if quad % 2 == 0 then trigSeries r2 140 1 r else trigSeries r2 140 0 (2 ^ prec)
        let val : Int := if 2 ≤ quad then -val else val
        let val : Int := if fn == 5 && neg then -val else val
        rnd (val < 0) val.natAbs (-(prec : Int)) true

end Sys2Proof.Machine
end

