-- ==== Sys2Proof/Config.lean ====
section
/-! DEFINITION.  What an implementation fixes, and the free values: constants without a body, so that no proof can lean on what they are.
Each is named in the assumption log. -/

namespace Sys2Proof.Config

/-- The free values of the model: each use applies it to a fresh number of State.free (log entry 3). -/
opaque freeNat : Nat → Nat

/-- The peer port that reaches a peer device, as Soliracor configures the routing (R165); a port is this value modulo the port count. -/
opaque peerPort : Nat → Nat

/-- The silicon stepping (R32). -/
opaque stepping : Byte

/-- The order in which the top nodes of a build, by place, receive their fence numbers: the spec fixes how many fences a build uses and not
which node has which (log entry 22). -/
opaque fenceOrder : Nat → Nat

/-- The order in which a step that is due is taken from those due (log entry 5). -/
opaque pick : Nat → Nat

/-- The ticks of the global time counter a step takes (log entry 4). -/
opaque ticks : Nat → Nat

/-- The digest of the boot ROM and of a fuse configuration, given as bytes, that FW_MEASURE0 takes (R53). -/
opaque romDigest : List Byte → List Byte

/-- The unique device secret, 32 bytes in fuses (R54). -/
opaque deviceSecret : List Byte

/-- The key of an IDE stream that an SPDM session sets up (R20). -/
opaque ideKey : Nat → List Byte

/-- The digest of a function configuration that FW_MEASURE5 takes, of a debug-unlock event for FW_MEASURE6, and of a hand-over for FW_MEASURE4:
R53 gives what is measured and not its encoding (log entry 18). -/
opaque eventDigest : List Byte → List Byte

/-- A signature over a message by the alias key that derives from a compound device identifier (R54, R55). -/
opaque aliasSign : List Byte → List Byte → List Byte

/-- The certificate chain maker root, device identity, alias (R55), whose alias part follows the compound device identifier. -/
opaque certificates : List Byte → List Byte

/-- A fresh 32-byte nonce (R57). -/
opaque nonce : Nat → List Byte

/-- The payload of an SPDM response whose content R55 leaves to SPDM. -/
opaque spdmPayload : Nat → List Byte

/-- The bytes of the sections of a context image whose layout is specific to the stepping or not given: kinds 5 to 8 and 10 (R148). -/
opaque imageWork : Nat → List Byte

/-- The log contents of bytes 24 to 31 of a LOG record, specific to the stepping (R306). -/
opaque logPayload : Nat → Nat

end Sys2Proof.Config
end

