-- ==== Sys2Proof/Syntax.lean ====
section
/-! DEFINITION.  The instruction set and the steps of the K960: one constructor for each row of spec/opcode_table.json.
The 211 encoded instructions carry the stop bit `x` (R342), the fields the table names and the literal word, if any (R341, R343).
The 138 steps of the part (events) have no operand of their own: what a step is about, and what the outside world sends with it,
stands in State.args (State.lean), which the machine sets when it takes a step from its agenda. -/

namespace Sys2Proof

/-- One instruction or one step of the part. -/
inductive Instr where
  /-- `mov.b32`, opcode 0x000 (R367). -/
  | movB32 (x : Bool) (d a : RegIx)
  /-- `mov.b32`, opcode 0x001 (R367). -/
  | movB32Lit (x : Bool) (d : RegIx) (lit : Word)
  /-- `mov.b64`, opcode 0x002 (R367). -/
  | movB64 (x : Bool) (d a : RegIx)
  /-- `mov.s64`, opcode 0x003 (R367). -/
  | movS64Lit (x : Bool) (d : RegIx) (lit : Word)
  /-- `iadd.s32`, opcode 0x004 (R367). -/
  | iaddS32 (x : Bool) (d a b : RegIx)
  /-- `iadd.s32`, opcode 0x005 (R367). -/
  | iaddS32Imm (x : Bool) (d a : RegIx) (i : BitVec 7)
  /-- `iadd.s32`, opcode 0x006 (R367). -/
  | iaddS32Lit (x : Bool) (d a : RegIx) (lit : Word)
  /-- `isub.s32`, opcode 0x007 (R367). -/
  | isubS32 (x : Bool) (d a b : RegIx)
  /-- `imul.s32`, opcode 0x008 (R367). -/
  | imulS32 (x : Bool) (d a b : RegIx)
  /-- `imul.s32`, opcode 0x009 (R367). -/
  | imulS32Lit (x : Bool) (d a : RegIx) (lit : Word)
  /-- `imulhi.s32`, opcode 0x00a (R367). -/
  | imulhiS32 (x : Bool) (d a b : RegIx)
  /-- `imulhi.n32`, opcode 0x00b (R367). -/
  | imulhiN32 (x : Bool) (d a b : RegIx)
  /-- `imad.s32`, opcode 0x00c (R367). -/
  | imadS32 (x : Bool) (d a b : RegIx)
  /-- `iadd.s32.sat`, opcode 0x00d (R367). -/
  | iaddS32Sat (x : Bool) (d a b : RegIx)
  /-- `isub.s32.sat`, opcode 0x00e (R367). -/
  | isubS32Sat (x : Bool) (d a b : RegIx)
  /-- `ineg.s32`, opcode 0x00f (R367). -/
  | inegS32 (x : Bool) (d a : RegIx)
  /-- `imin.s32`, opcode 0x010 (R367). -/
  | iminS32 (x : Bool) (d a b : RegIx)
  /-- `imin.n32`, opcode 0x011 (R367). -/
  | iminN32 (x : Bool) (d a b : RegIx)
  /-- `imax.s32`, opcode 0x012 (R367). -/
  | imaxS32 (x : Bool) (d a b : RegIx)
  /-- `imax.n32`, opcode 0x013 (R367). -/
  | imaxN32 (x : Bool) (d a b : RegIx)
  /-- `iabs.s32`, opcode 0x014 (R367). -/
  | iabsS32 (x : Bool) (d a : RegIx)
  /-- `and.b32`, opcode 0x015 (R367). -/
  | andB32 (x : Bool) (d a b : RegIx)
  /-- `and.b32`, opcode 0x016 (R367). -/
  | andB32Lit (x : Bool) (d a : RegIx) (lit : Word)
  /-- `or.b32`, opcode 0x017 (R367). -/
  | orB32 (x : Bool) (d a b : RegIx)
  /-- `or.b32`, opcode 0x018 (R367). -/
  | orB32Lit (x : Bool) (d a : RegIx) (lit : Word)
  /-- `xor.b32`, opcode 0x019 (R367). -/
  | xorB32 (x : Bool) (d a b : RegIx)
  /-- `xor.b32`, opcode 0x01a (R367). -/
  | xorB32Lit (x : Bool) (d a : RegIx) (lit : Word)
  /-- `andn.b32`, opcode 0x01b (R367). -/
  | andnB32 (x : Bool) (d a b : RegIx)
  /-- `not.b32`, opcode 0x01c (R367). -/
  | notB32 (x : Bool) (d a : RegIx)
  /-- `shl.b32`, opcode 0x01d (R368). -/
  | shlB32 (x : Bool) (d a b : RegIx)
  /-- `shl.b32`, opcode 0x01e (R368). -/
  | shlB32Imm (x : Bool) (d a : RegIx) (i : BitVec 7)
  /-- `shr.n32`, opcode 0x01f (R368). -/
  | shrN32 (x : Bool) (d a b : RegIx)
  /-- `shr.n32`, opcode 0x020 (R368). -/
  | shrN32Imm (x : Bool) (d a : RegIx) (i : BitVec 7)
  /-- `shr.s32`, opcode 0x021 (R368). -/
  | shrS32 (x : Bool) (d a b : RegIx)
  /-- `shr.s32`, opcode 0x022 (R368). -/
  | shrS32Imm (x : Bool) (d a : RegIx) (i : BitVec 7)
  /-- `bfx.n32`, opcode 0x023 (R369). -/
  | bfxN32 (x : Bool) (d a : RegIx) (lit : Word)
  /-- `bfx.s32`, opcode 0x024 (R369). -/
  | bfxS32 (x : Bool) (d a : RegIx) (lit : Word)
  /-- `bfi.b32`, opcode 0x025 (R369). -/
  | bfiB32 (x : Bool) (d a : RegIx) (lit : Word)
  /-- `popc.b32`, opcode 0x026 (R367). -/
  | popcB32 (x : Bool) (d a : RegIx)
  /-- `clz.b32`, opcode 0x027 (R367). -/
  | clzB32 (x : Bool) (d a : RegIx)
  /-- `brev.b32`, opcode 0x028 (R367). -/
  | brevB32 (x : Bool) (d a : RegIx)
  /-- `iadd.s64`, opcode 0x029 (R367). -/
  | iaddS64 (x : Bool) (d a b : RegIx)
  /-- `iadd.s64`, opcode 0x02a (R367). -/
  | iaddS64Lit (x : Bool) (d a : RegIx) (lit : Word)
  /-- `isub.s64`, opcode 0x02b (R367). -/
  | isubS64 (x : Bool) (d a b : RegIx)
  /-- `lea.s32`, opcode 0x02c (R370). -/
  | leaS32 (x : Bool) (d a b : RegIx) (lit : Word)
  /-- `lea.n32`, opcode 0x02d (R370). -/
  | leaN32 (x : Bool) (d a b : RegIx) (lit : Word)
  /-- `shl.b64`, opcode 0x02e (R368). -/
  | shlB64 (x : Bool) (d a : RegIx) (i : BitVec 7)
  /-- `shr.n64`, opcode 0x02f (R368). -/
  | shrN64 (x : Bool) (d a : RegIx) (i : BitVec 7)
  /-- `shr.s64`, opcode 0x030 (R368). -/
  | shrS64 (x : Bool) (d a : RegIx) (i : BitVec 7)
  /-- `imulw.s32`, opcode 0x031 (R367). -/
  | imulwS32 (x : Bool) (d a b : RegIx)
  /-- `imulw.n32`, opcode 0x032 (R367). -/
  | imulwN32 (x : Bool) (d a b : RegIx)
  /-- `icmp.COND.s32`, opcode 0x040 + c (R372). -/
  | icmpS32 (x : Bool) (c : BitVec 3) (d a b : RegIx)
  /-- `icmp.COND.n32`, opcode 0x048 + c (R372). -/
  | icmpN32 (x : Bool) (c : BitVec 3) (d a b : RegIx)
  /-- `icmp.COND.s32`, opcode 0x050 + c (R372). -/
  | icmpS32Lit (x : Bool) (c : BitVec 3) (d a : RegIx) (lit : Word)
  /-- `sel.b32`, opcode 0x058 (R373). -/
  | selB32 (x : Bool) (d a b : RegIx)
  /-- `sel.b64`, opcode 0x059 (R372). -/
  | selB64 (x : Bool) (d a b : RegIx)
  /-- `icmp.eq.b64`, opcode 0x05a (R372). -/
  | icmpEqB64 (x : Bool) (d a b : RegIx)
  /-- `icmp.lt.s64`, opcode 0x05b (R372). -/
  | icmpLtS64 (x : Bool) (d a b : RegIx)
  /-- `icmp.lt.n64`, opcode 0x05c (R372). -/
  | icmpLtN64 (x : Bool) (d a b : RegIx)
  /-- `vote.ballot`, opcode 0x060 (R374). -/
  | voteBallot (x : Bool) (d a : RegIx)
  /-- `vote.any`, opcode 0x061 (R374). -/
  | voteAny (x : Bool) (d a : RegIx)
  /-- `vote.all`, opcode 0x062 (R374). -/
  | voteAll (x : Bool) (d a : RegIx)
  /-- `shfl.idx`, opcode 0x063 (R375). -/
  | shflIdx (x : Bool) (d a b : RegIx)
  /-- `shfl.up`, opcode 0x064 (R375). -/
  | shflUp (x : Bool) (d a b : RegIx)
  /-- `shfl.down`, opcode 0x065 (R375). -/
  | shflDown (x : Bool) (d a b : RegIx)
  /-- `shfl.xor`, opcode 0x066 (R375). -/
  | shflXor (x : Bool) (d a b : RegIx)
  /-- `shfl.down`, opcode 0x067 (R375). -/
  | shflDownImm (x : Bool) (d a : RegIx) (i : BitVec 5)
  /-- `shfl.xor`, opcode 0x068 (R375). -/
  | shflXorImm (x : Bool) (d a : RegIx) (i : BitVec 5)
  /-- `match.b32`, opcode 0x069 (R374). -/
  | matchB32 (x : Bool) (d a : RegIx)
  /-- `gred.OP`, opcode 0x06a (R377). -/
  | gred (x : Bool) (d a : RegIx) (o : BitVec 3)
  /-- `reorder`, opcode 0x06b (R378). -/
  | reorder (x : Bool) (d a : RegIx)
  /-- `reggrow`, opcode 0x070 (R380). -/
  | reggrow (x : Bool) (d : RegIx) (n : BitVec 5)
  /-- `regshrink`, opcode 0x071 (R381). -/
  | regshrink (x : Bool) (d : RegIx) (n : BitVec 5)
  /-- `movx.rd`, opcode 0x072 (R382). -/
  | movxRd (x : Bool) (d a : RegIx)
  /-- `movx.wr`, opcode 0x073 (R382). -/
  | movxWr (x : Bool) (d a : RegIx)
  /-- `movx.rd.b64`, opcode 0x074 (R382). -/
  | movxRdB64 (x : Bool) (d a : RegIx)
  /-- `movx.wr.b64`, opcode 0x075 (R382). -/
  | movxWrB64 (x : Bool) (d a : RegIx)
  /-- `fadd.f32`, opcode 0x080 + r (R396). -/
  | faddF32 (x : Bool) (r : BitVec 2) (d a b : RegIx)
  /-- `fsub.f32`, opcode 0x084 + r (R396). -/
  | fsubF32 (x : Bool) (r : BitVec 2) (d a b : RegIx)
  /-- `fmul.f32`, opcode 0x088 + r (R396). -/
  | fmulF32 (x : Bool) (r : BitVec 2) (d a b : RegIx)
  /-- `ffma.f32`, opcode 0x08c + r (R396). -/
  | ffmaF32 (x : Bool) (r : BitVec 2) (d a b : RegIx)
  /-- `fmin.f32`, opcode 0x090 (R397). -/
  | fminF32 (x : Bool) (d a b : RegIx)
  /-- `fmax.f32`, opcode 0x091 (R397). -/
  | fmaxF32 (x : Bool) (d a b : RegIx)
  /-- `fneg.f32`, opcode 0x092 (R396). -/
  | fnegF32 (x : Bool) (d a : RegIx)
  /-- `fabs.f32`, opcode 0x093 (R396). -/
  | fabsF32 (x : Bool) (d a : RegIx)
  /-- `fcmp.COND.f32`, opcode 0x090 + c (R397). -/
  | fcmpF32 (x : Bool) (c : BitVec 4) (d a b : RegIx)
  /-- `fcmp.unord.f32`, opcode 0x09a (R397). -/
  | fcmpUnordF32 (x : Bool) (d a b : RegIx)
  /-- `fclass.f32`, opcode 0x09b (R397). -/
  | fclassF32 (x : Bool) (d a : RegIx)
  /-- `fadd.f32`, opcode 0x09c (R396). -/
  | faddF32Lit (x : Bool) (d a : RegIx) (lit : Word)
  /-- `fmul.f32`, opcode 0x09d (R396). -/
  | fmulF32Lit (x : Bool) (d a : RegIx) (lit : Word)
  /-- `fgred.add.f32`, opcode 0x0a0 (R398). -/
  | fgredAddF32 (x : Bool) (d a : RegIx)
  /-- `fgred.min.f32`, opcode 0x0a1 (R398). -/
  | fgredMinF32 (x : Bool) (d a : RegIx)
  /-- `fgred.max.f32`, opcode 0x0a2 (R398). -/
  | fgredMaxF32 (x : Bool) (d a : RegIx)
  /-- `frint.f32`, opcode 0x0a4 + r (R396). -/
  | frintF32 (x : Bool) (r : BitVec 2) (d a : RegIx)
  /-- `hadd`, opcode 0x0c0 + f (R399). -/
  | hadd (x : Bool) (f : BitVec 1) (d a b : RegIx)
  /-- `hsub`, opcode 0x0c1 + f (R399). -/
  | hsub (x : Bool) (f : BitVec 1) (d a b : RegIx)
  /-- `hmul`, opcode 0x0c2 + f (R399). -/
  | hmul (x : Bool) (f : BitVec 1) (d a b : RegIx)
  /-- `hfma`, opcode 0x0c3 + f (R399). -/
  | hfma (x : Bool) (f : BitVec 1) (d a b : RegIx)
  /-- `hmin`, opcode 0x0c4 + f (R399). -/
  | hmin (x : Bool) (f : BitVec 1) (d a b : RegIx)
  /-- `hmax`, opcode 0x0c5 + f (R399). -/
  | hmax (x : Bool) (f : BitVec 1) (d a b : RegIx)
  /-- `hneg`, opcode 0x0c6 + f (R399). -/
  | hneg (x : Bool) (f : BitVec 1) (d a : RegIx)
  /-- `habs`, opcode 0x0c7 + f (R399). -/
  | habs (x : Bool) (f : BitVec 1) (d a : RegIx)
  /-- `rcp.f32`, opcode 0x0e0 (R400). -/
  | rcpF32 (x : Bool) (d a : RegIx) (r : BitVec 2)
  /-- `sqrt.f32`, opcode 0x0e1 (R400). -/
  | sqrtF32 (x : Bool) (d a : RegIx) (r : BitVec 2)
  /-- `rsq.f32`, opcode 0x0e2 (R400). -/
  | rsqF32 (x : Bool) (d a : RegIx) (r : BitVec 2)
  /-- `exp2.f32`, opcode 0x0e3 (R400). -/
  | exp2F32 (x : Bool) (d a : RegIx) (r : BitVec 2)
  /-- `log2.f32`, opcode 0x0e4 (R400). -/
  | log2F32 (x : Bool) (d a : RegIx) (r : BitVec 2)
  /-- `sin.f32`, opcode 0x0e5 (R400). -/
  | sinF32 (x : Bool) (d a : RegIx) (r : BitVec 2)
  /-- `cos.f32`, opcode 0x0e6 (R400). -/
  | cosF32 (x : Bool) (d a : RegIx) (r : BitVec 2)
  /-- `cvt.TO.FROM`, opcode 0x100 (R404). -/
  | cvt (x : Bool) (d a : RegIx) (lit : Word)
  /-- `pack.mx.F`, opcode 0x140 + f (R406). -/
  | packMx (x : Bool) (f : BitVec 3) (d a : RegIx) (lit : Word)
  /-- `unpack.mx.F`, opcode 0x150 + f (R406). -/
  | unpackMx (x : Bool) (f : BitVec 3) (d a : RegIx) (lit : Word)
  /-- `pack.aq4`, opcode 0x148 (R407). -/
  | packAq4 (x : Bool) (d a b : RegIx) (lit : Word)
  /-- `unpack.aq4`, opcode 0x158 (R407). -/
  | unpackAq4 (x : Bool) (d a b : RegIx) (lit : Word)
  /-- `tag`, opcode 0x160 (R409). -/
  | tag (x : Bool) (d a : RegIx) (k : BitVec 4)
  /-- `rdtag`, opcode 0x161 (R409). -/
  | rdtag (x : Bool) (d a : RegIx)
  /-- `ld.SIZE`, opcode 0x180 (R416). -/
  | ld (x : Bool) (d a : RegIx) (z : BitVec 3)
  /-- `ld.SIZE`, opcode 0x181 (R416). -/
  | ldLit (x : Bool) (d a : RegIx) (p : BitVec 1) (m z : BitVec 3) (lit : Word)
  /-- `ld.spec.SIZE`, opcode 0x182 (R420). -/
  | ldSpec (x : Bool) (d a : RegIx) (z : BitVec 3)
  /-- `ld.spec.SIZE`, opcode 0x183 (R420). -/
  | ldSpecLit (x : Bool) (d a : RegIx) (p : BitVec 1) (m z : BitVec 3) (lit : Word)
  /-- `st.SIZE`, opcode 0x184 (R417). -/
  | st (x : Bool) (d a : RegIx) (z : BitVec 3)
  /-- `st.SIZE`, opcode 0x185 (R417). -/
  | stLit (x : Bool) (d a : RegIx) (p : BitVec 1) (m z : BitVec 3) (lit : Word)
  /-- `ld.fmt.KIND.SIZE`, opcode 0x186 (R418). -/
  | ldFmt (x : Bool) (d a : RegIx) (k : BitVec 4) (z : BitVec 3)
  /-- `ld.acq.SCOPE.SIZE`, opcode 0x187 (R419). -/
  | ldAcq (x : Bool) (d a : RegIx) (c : BitVec 4) (z : BitVec 3)
  /-- `st.rel.SCOPE.SIZE`, opcode 0x188 (R419). -/
  | stRel (x : Bool) (d a : RegIx) (c : BitVec 4) (z : BitVec 3)
  /-- `lds.SIZE`, opcode 0x190 (R416). -/
  | lds (x : Bool) (d a : RegIx) (z : BitVec 3)
  /-- `lds.SIZE`, opcode 0x191 (R416). -/
  | ldsLit (x : Bool) (d a : RegIx) (p : BitVec 1) (m z : BitVec 3) (lit : Word)
  /-- `lds.wait.SIZE`, opcode 0x192 (R421). -/
  | ldsWait (x : Bool) (d a : RegIx) (z : BitVec 3)
  /-- `lds.wait.SIZE`, opcode 0x193 (R421). -/
  | ldsWaitLit (x : Bool) (d a : RegIx) (p : BitVec 1) (m z : BitVec 3) (lit : Word)
  /-- `lds.wait.clr.SIZE`, opcode 0x194 (R421). -/
  | ldsWaitClr (x : Bool) (d a : RegIx) (z : BitVec 3)
  /-- `lds.wait.clr.SIZE`, opcode 0x195 (R421). -/
  | ldsWaitClrLit (x : Bool) (d a : RegIx) (p : BitVec 1) (m z : BitVec 3) (lit : Word)
  /-- `sts.SIZE`, opcode 0x196 (R417). -/
  | sts (x : Bool) (d a : RegIx) (z : BitVec 3)
  /-- `sts.SIZE`, opcode 0x197 (R417). -/
  | stsLit (x : Bool) (d a : RegIx) (p : BitVec 1) (m z : BitVec 3) (lit : Word)
  /-- `sts.set.SIZE`, opcode 0x198 (R421). -/
  | stsSet (x : Bool) (d a : RegIx) (z : BitVec 3)
  /-- `sts.set.SIZE`, opcode 0x199 (R421). -/
  | stsSetLit (x : Bool) (d a : RegIx) (p : BitVec 1) (m z : BitVec 3) (lit : Word)
  /-- `lds.fmt.KIND.SIZE`, opcode 0x19a (R418). -/
  | ldsFmt (x : Bool) (d a : RegIx) (k : BitVec 4) (z : BitVec 3)
  /-- `lds.wait.fmt.KIND.SIZE`, opcode 0x19b (R418). -/
  | ldsWaitFmt (x : Bool) (d a : RegIx) (k : BitVec 4) (z : BitVec 3)
  /-- `prefetch`, opcode 0x1a0 (R427). -/
  | prefetch (x : Bool) (a : RegIx)
  /-- `prefetch`, opcode 0x1a1 (R427). -/
  | prefetchLit (x : Bool) (a : RegIx) (p : BitVec 1) (m : BitVec 3) (lit : Word)
  /-- `prefetch.w`, opcode 0x1a2 (R427). -/
  | prefetchW (x : Bool) (a : RegIx)
  /-- `prefetch.w`, opcode 0x1a3 (R427). -/
  | prefetchWLit (x : Bool) (a : RegIx) (p : BitVec 1) (m : BitVec 3) (lit : Word)
  /-- `evict`, opcode 0x1a4 (R427). -/
  | evict (x : Bool) (a : RegIx)
  /-- `tlbinv.va`, opcode 0x1a6 (R427). -/
  | tlbinvVa (x : Bool) (a : RegIx)
  /-- `tlbinv.all`, opcode 0x1a7 (R427). -/
  | tlbinvAll (x : Bool)
  /-- `copy.g2s`, opcode 0x1b0 (R432). -/
  | copyG2s (x : Bool) (d a b : RegIx)
  /-- `copy.s2g`, opcode 0x1b1 (R432). -/
  | copyS2g (x : Bool) (d a b : RegIx)
  /-- `copy.g2g`, opcode 0x1b2 (R432). -/
  | copyG2g (x : Bool) (d a b : RegIx)
  /-- `gather.eS`, opcode 0x1b3 (R434). -/
  | gather (x : Bool) (d a b : RegIx) (lit : Word)
  /-- `scatter.eS`, opcode 0x1b4 (R434). -/
  | scatter (x : Bool) (d a b : RegIx) (lit : Word)
  /-- `modset`, opcode 0x1c0 (R429). -/
  | modset (x : Bool) (n : BitVec 3) (a b : RegIx)
  /-- `modrd`, opcode 0x1c1 (R430). -/
  | modrd (x : Bool) (d : RegIx) (n : BitVec 3)
  /-- `atom.OP`, opcode 0x200 + o (R423). -/
  | atom32 (x : Bool) (o : BitVec 4) (d a b : RegIx)
  /-- `atom.cas.b32`, opcode 0x209 (R424). -/
  | atomCasB32 (x : Bool) (d a b : RegIx)
  /-- `atom.OP`, opcode 0x210 + o (R423). -/
  | atom64 (x : Bool) (o : BitVec 4) (d a b : RegIx)
  /-- `atom.cas.b64`, opcode 0x219 (R424). -/
  | atomCasB64 (x : Bool) (d a b : RegIx)
  /-- `red.add.s32`, opcode 0x220 (R426). -/
  | redAddS32 (x : Bool) (a b : RegIx)
  /-- `red.add.s64`, opcode 0x221 (R426). -/
  | redAddS64 (x : Bool) (a b : RegIx)
  /-- `red.add.f32`, opcode 0x222 (R426). -/
  | redAddF32 (x : Bool) (a b : RegIx)
  /-- `red.add.bf16x2`, opcode 0x223 (R426). -/
  | redAddBf16x2 (x : Bool) (a b : RegIx)
  /-- `red.OP`, opcode 0x220 + o (R426). -/
  | redAtomic (x : Bool) (o : BitVec 4) (a b : RegIx)
  /-- `try.lane`, opcode 0x240 (R444). -/
  | tryLane (x : Bool) (d : RegIx) (lit : Word)
  /-- `try.group`, opcode 0x241 (R444). -/
  | tryGroup (x : Bool) (d : RegIx) (lit : Word)
  /-- `commit`, opcode 0x242 (R455). -/
  | commit (x : Bool)
  /-- `commit.rel.SCOPE`, opcode 0x243 (R455). -/
  | commitRel (x : Bool) (c : BitVec 3)
  /-- `abort`, opcode 0x244 (R451). -/
  | abort (x : Bool) (lit : Word)
  /-- `tstat`, opcode 0x245 (R457). -/
  | tstat (x : Bool) (d : RegIx)
  /-- `fence.SCOPE`, opcode 0x250 (R458). -/
  | fence (x : Bool) (c : BitVec 3)
  /-- `bar.sync`, opcode 0x251 (R459). -/
  | barSync (x : Bool) (n : BitVec 3)
  /-- `bar.arrive`, opcode 0x252 (R459). -/
  | barArrive (x : Bool) (d : RegIx) (n : BitVec 3)
  /-- `bar.wait`, opcode 0x253 (R459). -/
  | barWait (x : Bool) (a : RegIx) (n : BitVec 3)
  /-- `bar.init`, opcode 0x254 (R459). -/
  | barInit (x : Bool) (lit : Word)
  /-- `cvset`, opcode 0x260 (R463). -/
  | cvset (x : Bool) (n : BitVec 3)
  /-- `cvset.mask`, opcode 0x261 (R463). -/
  | cvsetMask (x : Bool) (a : RegIx) (n : BitVec 3)
  /-- `cvwait`, opcode 0x262 (R463). -/
  | cvwait (x : Bool) (n : BitVec 3)
  /-- `cvrd`, opcode 0x263 (R463). -/
  | cvrd (x : Bool) (d : RegIx) (n : BitVec 3)
  /-- `pipe.put`, opcode 0x264 (R465). -/
  | pipePut (x : Bool) (a : RegIx) (n : BitVec 2)
  /-- `pipe.get`, opcode 0x265 (R465). -/
  | pipeGet (x : Bool) (d : RegIx) (n : BitVec 2)
  /-- `qsig.SCOPE`, opcode 0x270 (R467). -/
  | qsig (x : Bool) (c : BitVec 3) (a b : RegIx)
  /-- `qwait`, opcode 0x271 (R468). -/
  | qwait (x : Bool) (d a b : RegIx)
  /-- `mma`, opcode 0x280 (R477). -/
  | mma (x : Bool) (d a b : RegIx) (lit : Word)
  /-- `mma.sp`, opcode 0x281 (R477). -/
  | mmaSp (x : Bool) (d a b : RegIx) (lit : Word)
  /-- `mrsv`, opcode 0x2c0 (R472). -/
  | mrsv (x : Bool) (d : RegIx) (n : BitVec 4)
  /-- `mrel`, opcode 0x2c1 (R472). -/
  | mrel (x : Bool) (n : BitVec 4)
  /-- `mrd.f32`, opcode 0x2c2 (R473). -/
  | mrdF32 (x : Bool) (d : RegIx) (c : BitVec 3) (n : BitVec 4)
  /-- `mrd.s32`, opcode 0x2c3 (R473). -/
  | mrdS32 (x : Bool) (d : RegIx) (c : BitVec 3) (n : BitVec 4)
  /-- `mwr`, opcode 0x2c4 (R473). -/
  | mwr (x : Bool) (a : RegIx) (c : BitVec 3) (n : BitVec 4)
  /-- `mzero`, opcode 0x2c5 (R473). -/
  | mzero (x : Bool) (n : BitVec 4)
  /-- `trace`, opcode 0x300 (R480). -/
  | trace (x : Bool) (d a b : RegIx) (lit : Word)
  /-- `trace.emit`, opcode 0x301 (R483). -/
  | traceEmit (x : Bool) (d a b : RegIx) (lit : Word)
  /-- `asbuild`, opcode 0x310 (R484). -/
  | asbuild (x : Bool) (d a : RegIx) (n : BitVec 1)
  /-- `asbuild.update`, opcode 0x311 (R283). -/
  | asbuildUpdate (x : Bool) (d a : RegIx) (n : BitVec 1)
  /-- `asrefit`, opcode 0x312 (R281). -/
  | asrefit (x : Bool) (d a : RegIx) (n : BitVec 1)
  /-- `asretire`, opcode 0x313 (R268). -/
  | asretire (x : Bool) (d a : RegIx) (n : BitVec 1)
  /-- `launch`, opcode 0x320 (R486). -/
  | launch (x : Bool) (d a : RegIx)
  /-- `emit`, opcode 0x321 (R487). -/
  | emit (x : Bool) (a b : RegIx)
  /-- `bra`, opcode 0x380 (R383). -/
  | bra (x : Bool) (lit : Word)
  /-- `exit`, opcode 0x381 (R386). -/
  | exit (x : Bool)
  /-- `brz`, opcode 0x382 (R383). -/
  | brz (x : Bool) (a : RegIx) (lit : Word)
  /-- `brnz`, opcode 0x383 (R383). -/
  | brnz (x : Bool) (a : RegIx) (lit : Word)
  /-- `call`, opcode 0x384 (R383). -/
  | call (x : Bool) (d : RegIx) (lit : Word)
  /-- `ret`, opcode 0x385 (R384). -/
  | ret (x : Bool) (a : RegIx)
  /-- `callr`, opcode 0x386 (R384). -/
  | callr (x : Bool) (d a : RegIx)
  /-- `yield`, opcode 0x3a0 (R387). -/
  | yield (x : Bool)
  /-- `rdsys`, opcode 0x3c0 (R388). -/
  | rdsys (x : Bool) (d : RegIx) (i : BitVec 7)
  /-- `trap`, opcode 0x3c1 (R488). -/
  | trap (x : Bool) (i : BitVec 7)
  /-- `bkpt`, opcode 0x3c2 (R488). -/
  | bkpt (x : Bool)
  /-- `nop_fill`, opcode 0x3d0 (R359). -/
  | nopFill (x : Bool)
  /-- `rett`, opcode 0x3e0 (R489). -/
  | rett (x : Bool) (d a : RegIx)
  /-- `grd`, opcode 0x3e1 (R490). -/
  | grd (x : Bool) (d a : RegIx)
  /-- `gwr`, opcode 0x3e2 (R490). -/
  | gwr (x : Bool) (d a : RegIx)
  /-- `evwait`, opcode 0x3e3 (R491). -/
  | evwait (x : Bool) (d : RegIx)
  /-- Step (R345). -/
  | unallocatedOpcode (word : Word)
  /-- Step (R51). -/
  | powerOnReset
  /-- Step (R38): pass, die, cls, index, detail. -/
  | selfTestComplete
  /-- Step (R46). -/
  | bootVerify
  /-- Step (R18). -/
  | viaductFailure
  /-- Step (R30). -/
  | thermalThrottle
  /-- Step (R30). -/
  | thermalTrip
  /-- Step (R29): limitMet. -/
  | clockThrottleStep
  /-- Step (R28): watts. -/
  | powerLimitSet
  /-- Step (R26). -/
  | telemetryRequest
  /-- Step (R47): offset, data, last. -/
  | firmwareUpdate
  /-- Step (R47). -/
  | firmwareActivate
  /-- Step (R57). -/
  | ownershipNonce
  /-- Step (R57): signer, nonce, sig. -/
  | releaseMessage
  /-- Step (R57). -/
  | releaseEraseComplete
  /-- Step (R58): keys, nonce, sig. -/
  | claimMessage
  /-- Step (R56): key, signer, sig. -/
  | ownerKeyAdd
  /-- Step (R56): index, signer, sig. -/
  | ownerKeyRemove
  /-- Step (R45): signer, sig. -/
  | svnFuseBlow
  /-- Step (R293): signer, sig. -/
  | debugUnlock
  /-- Step (R53): digest, signer, sig. -/
  | ownerDigestExtend
  /-- Step (R55): port. -/
  | getVersion
  /-- Step (R55): port. -/
  | getCapabilities
  /-- Step (R55): port, offer. -/
  | negotiateAlgorithms
  /-- Step (R55): port. -/
  | getDigests
  /-- Step (R55): port, slot. -/
  | getCertificate
  /-- Step (R55): port, nonce. -/
  | challenge
  /-- Step (R55): port, index. -/
  | getMeasurements
  /-- Step (R55): port, exchange. -/
  | keyExchange
  /-- Step (R55): port, verify. -/
  | finish
  /-- Step (R53): count. -/
  | sriovVfEnable
  /-- Step (R136): fn. -/
  | sriovVfDisable
  /-- Step (R36): port, state. -/
  | peerPortStateChange
  /-- Step (R211): line. -/
  | hostSnoop
  /-- Step (R212): op, addr, len, data. -/
  | hostMemAccess
  /-- Step (R212): line, data. -/
  | bisnpResponse
  /-- Step (R64): n, v. -/
  | hqFnCfgWrite
  /-- Step (R68): fn, q, v. -/
  | queueEnable
  /-- Step (R69): fn, q. -/
  | queueDisable
  /-- Step (R68): fn, c, v. -/
  | cqEnable
  /-- Step (R69): fn, c, v. -/
  | cqDisable
  /-- Step (R92): fn, c, v. -/
  | cqIrqEnSet
  /-- Step (R92): fn, c, v. -/
  | cqIrqEnClear
  /-- Step (R72): fn, q, t. -/
  | notify
  /-- Step (R91): fn, c, v. -/
  | cqHeadWrite
  /-- Step (R157): fn, v. -/
  | faultRingEnable
  /-- Step (R159): fn, v. -/
  | faultRingDisable
  /-- Step (R159): fn, v. -/
  | faultHeadWrite
  /-- Step (R159): fn, id. -/
  | faultResumeRetry
  /-- Step (R159): fn, id. -/
  | faultResumeAbort
  /-- Step (R112): die, v. -/
  | plCfgWrite
  /-- Step (R187): die, v. -/
  | swapGo
  /-- Step (R293): v. -/
  | debugAttach
  /-- Step (R294). -/
  | haltRequest
  /-- Step (R297). -/
  | haltRelease
  /-- Step (R297). -/
  | debugStep
  /-- Step (R308). -/
  | traceStatusClear
  /-- Step (R303): fn, offset. -/
  | cyclesRead
  /-- Step (R11): fn, offset, v. -/
  | registerWrite
  /-- Step (R75): fn, q, cid. -/
  | recordClaim
  /-- Step (R75): fn, q, n. -/
  | recordStart
  /-- Step (R80): fn, q, n. -/
  | launchGrid
  /-- Step (R101): fn, q, n. -/
  | launchGang
  /-- Step (R80): fn, q, n. -/
  | launchPool
  /-- Step (R86): fn, q, n. -/
  | signalToken
  /-- Step (R87): fn, q, n. -/
  | waitToken
  /-- Step (R87): fn, q, n. -/
  | waitTokenRecheck
  /-- Step (R87): fn, q, n. -/
  | waitTokenPoll
  /-- Step (R87): fn, q, n. -/
  | waitTokenTimeout
  /-- Step (R83): fn, q, n. -/
  | copy
  /-- Step (R84): fn, q, n. -/
  | asidRoot
  /-- Step (R84): fn, q, n. -/
  | queuePriority
  /-- Step (R84): fn, q, n. -/
  | watchdogDefault
  /-- Step (R84): fn, q, n. -/
  | ageLimit
  /-- Step (R84): fn, q, n. -/
  | queueStop
  /-- Step (R84): fn, q, n. -/
  | nopFence
  /-- Step (R82): launch. -/
  | launchComplete
  /-- Step (R91): fn, c. -/
  | completionEntryRetry
  /-- Step (R92): fn, c. -/
  | cqTimerExpiry
  /-- Step (R93). -/
  | mappingPass
  /-- Step (R110): die, launch. -/
  | placementRecordArrival
  /-- Step (R108): die. -/
  | placementPass
  /-- Step (R117): die. -/
  | phaseTableUpdate
  /-- Step (R121): die, launch, record. -/
  | poolRecordDeliver
  /-- Step (R120): die, launch, bin. -/
  | binAgeExpiry
  /-- Step (R121): die, launch. -/
  | overflowRingReturn
  /-- Step (R124): launch. -/
  | poolOverflowExpiry
  /-- Step (R386): cid, slot. -/
  | groupExit
  /-- Step (R256): cid, slot, op, lane. -/
  | loadComplete
  /-- Step (R222): cid, entry. -/
  | storePerform
  /-- Step (R132): pier. -/
  | matrixPass
  /-- Step (R261): pier, stream. -/
  | transferBurst
  /-- Step (R278): pier, ray. -/
  | nodeVisit
  /-- Step (R286): pier, ray. -/
  | fenceRecheck
  /-- Step (R286): pier, ray. -/
  | fencePoll
  /-- Step (R272): build. -/
  | builderTask
  /-- Step (R285): build. -/
  | topNodeRewrite
  /-- Step (R281): refit. -/
  | refitNode
  /-- Step (R290): job. -/
  | compactorBlock
  /-- Step (R139): fn, q, unit. -/
  | preemptStop
  /-- Step (R139): fn, q, unit. -/
  | stoppingUnitReached
  /-- Step (R143): fn, q. -/
  | contextImageWritten
  /-- Step (R145): fn, q. -/
  | contextRestore
  /-- Step (R155): cid, slot. -/
  | trapResolution
  /-- Step (R159): fn. -/
  | faultEntryRetry
  /-- Step (R159): fn, id. -/
  | faultTimeout
  /-- Step (R162): launch. -/
  | watchdogExpiry
  /-- Step (R294). -/
  | haltTimeout
  /-- Step (R491). -/
  | eventTick
  /-- Step (R170): cid, slot, op, lane. -/
  | pageWalk
  /-- Step (R187): die. -/
  | swapLine
  /-- Step (R188): cid, slot, op, lane. -/
  | swapMigAccess
  /-- Step (R201): line, agent, kind. -/
  | transientRequest
  /-- Step (R201): line, holder, requester, kind. -/
  | forwardedRequest
  /-- Step (R192): msg. -/
  | tokenMessage
  /-- Step (R202): agent, line. -/
  | attemptTimeout
  /-- Step (R204): die, line, age, requester. -/
  | arb
  /-- Step (R204): die, line. -/
  | grant
  /-- Step (R204): die, line. -/
  | handoff
  /-- Step (R204): die, line, requester, number. -/
  | activate
  /-- Step (R204): die, line, number. -/
  | deactivate
  /-- Step (R204): agent, line. -/
  | persistentReport
  /-- Step (R198): agent, line. -/
  | eviction
  /-- Step (R209): cid, entry. -/
  | drainWrite
  /-- Step (R216): line. -/
  | partialCombine
  /-- Step (R217): line. -/
  | census
  /-- Step (R217): line. -/
  | censusHoldExpiry
  /-- Step (R247): cid. -/
  | reggrowGrant
  /-- Step (R378): team. -/
  | reorderComplete
  /-- Step (R455): cid, slot, lane. -/
  | commitPoint
  /-- Step (R305): die. -/
  | traceSample
  /-- Step (R307): die. -/
  | gapRecord
  /-- Step (R60). -/
  | powerLoss
  /-- Step (R213): port, write, addr, len, data. -/
  | peerAccess
  /-- Step (R211): die, line, data. -/
  | hostLineObtained
  /-- Step (R468): cid, slot, op. -/
  | qwaitReread
  /-- Step (R40). -/
  | hostLinkTraining
  /-- Step (R26): addr. -/
  | dynamicAddressAssignment
  deriving DecidableEq, Repr

end Sys2Proof
end

