-- ==== Sys2Proof/Machine/Operands.lean ====
section
/-! DEFINITION.  The operand forms (R341 to R344, R347, R348): which registers an instruction names, reads and writes,
how they must be aligned, and which encodings are legal at step 4 of R351. -/

namespace Sys2Proof.Machine

/-- One register operand of an instruction.
`dest`, `source`, `both` and `named` give the first register, the count, and the multiple the first register must be of.
`address` is an address pair (count 2) or a scratchpad address register (count 1); the flag says that a post-increment writes it back (R347). -/
inductive Operand where
  | dest (reg count align : Nat)
  | source (reg count align : Nat)
  | both (reg count align : Nat)
  | named (reg count align : Nat)
  | address (reg count : Nat) (updated : Bool)
  deriving DecidableEq, Repr

/-- Registers moved by an access of SIZE code `z` (R344). -/
def zRegs (z : BitVec 3) : Nat := if z.toNat == 3 then 2 else if z.toNat == 4 then 4 else 1

/-- Bytes of an access of SIZE code `z` (R344). -/
def zBytes (z : BitVec 3) : Nat := 2 ^ z.toNat

/-- The scale register SREG that a packing literal names (R406). -/
def sReg (lit : Word) : Nat := (lit.extractLsb' 0 7).toNat

/-- Packed registers of one block of 32 elements of PACK.MX format `f` (R406). -/
def mxRegs (f : BitVec 3) : Nat := if f.toNat == 4 then 4 else 8

/-- Elements per register of a tag code (R403). -/
def tagElems (k : Nat) : Nat :=
  if k == 1 || k == 4 || k == 12 then 1
  else if k == 2 || k == 3 then 2
  else if k == 9 || k == 11 then 8
  else 4

/-- The register ranges of CVT (R403). -/
def cvtOperands (d a : Nat) (lit : Word) : List Operand :=
  let nf := tagElems (lit.extractLsb' 0 4).toNat
  let nt := tagElems (lit.extractLsb' 4 4).toNat
  let n := max nf nt
  [.dest d (n / nt) (n / nt), .source a (n / nf) (n / nf)]

/-- The register operands of an instruction word, in the order d, a, b of their fields.
Scale and metadata registers of MMA are not here: their counts follow at signing (R475). -/
def operands : Instr → List Operand
  | .movB32 _ d a => [.dest d.toNat 1 1, .source a.toNat 1 1]
  | .movB32Lit _ d _ => [.dest d.toNat 1 1]
  | .movB64 _ d a => [.dest d.toNat 2 2, .source a.toNat 2 2]
  | .movS64Lit _ d _ => [.dest d.toNat 2 2]
  | .iaddS32 _ d a b => [.dest d.toNat 1 1, .source a.toNat 1 1, .source b.toNat 1 1]
  | .iaddS32Imm _ d a _ => [.dest d.toNat 1 1, .source a.toNat 1 1]
  | .iaddS32Lit _ d a _ => [.dest d.toNat 1 1, .source a.toNat 1 1]
  | .isubS32 _ d a b => [.dest d.toNat 1 1, .source a.toNat 1 1, .source b.toNat 1 1]
  | .imulS32 _ d a b => [.dest d.toNat 1 1, .source a.toNat 1 1, .source b.toNat 1 1]
  | .imulS32Lit _ d a _ => [.dest d.toNat 1 1, .source a.toNat 1 1]
  | .imulhiS32 _ d a b => [.dest d.toNat 1 1, .source a.toNat 1 1, .source b.toNat 1 1]
  | .imulhiN32 _ d a b => [.dest d.toNat 1 1, .source a.toNat 1 1, .source b.toNat 1 1]
  | .imadS32 _ d a b => [.both d.toNat 1 1, .source a.toNat 1 1, .source b.toNat 1 1]
  | .iaddS32Sat _ d a b => [.dest d.toNat 1 1, .source a.toNat 1 1, .source b.toNat 1 1]
  | .isubS32Sat _ d a b => [.dest d.toNat 1 1, .source a.toNat 1 1, .source b.toNat 1 1]
  | .inegS32 _ d a => [.dest d.toNat 1 1, .source a.toNat 1 1]
  | .iminS32 _ d a b => [.dest d.toNat 1 1, .source a.toNat 1 1, .source b.toNat 1 1]
  | .iminN32 _ d a b => [.dest d.toNat 1 1, .source a.toNat 1 1, .source b.toNat 1 1]
  | .imaxS32 _ d a b => [.dest d.toNat 1 1, .source a.toNat 1 1, .source b.toNat 1 1]
  | .imaxN32 _ d a b => [.dest d.toNat 1 1, .source a.toNat 1 1, .source b.toNat 1 1]
  | .iabsS32 _ d a => [.dest d.toNat 1 1, .source a.toNat 1 1]
  | .andB32 _ d a b => [.dest d.toNat 1 1, .source a.toNat 1 1, .source b.toNat 1 1]
  | .andB32Lit _ d a _ => [.dest d.toNat 1 1, .source a.toNat 1 1]
  | .orB32 _ d a b => [.dest d.toNat 1 1, .source a.toNat 1 1, .source b.toNat 1 1]
  | .orB32Lit _ d a _ => [.dest d.toNat 1 1, .source a.toNat 1 1]
  | .xorB32 _ d a b => [.dest d.toNat 1 1, .source a.toNat 1 1, .source b.toNat 1 1]
  | .xorB32Lit _ d a _ => [.dest d.toNat 1 1, .source a.toNat 1 1]
  | .andnB32 _ d a b => [.dest d.toNat 1 1, .source a.toNat 1 1, .source b.toNat 1 1]
  | .notB32 _ d a => [.dest d.toNat 1 1, .source a.toNat 1 1]
  | .shlB32 _ d a b => [.dest d.toNat 1 1, .source a.toNat 1 1, .source b.toNat 1 1]
  | .shlB32Imm _ d a _ => [.dest d.toNat 1 1, .source a.toNat 1 1]
  | .shrN32 _ d a b => [.dest d.toNat 1 1, .source a.toNat 1 1, .source b.toNat 1 1]
  | .shrN32Imm _ d a _ => [.dest d.toNat 1 1, .source a.toNat 1 1]
  | .shrS32 _ d a b => [.dest d.toNat 1 1, .source a.toNat 1 1, .source b.toNat 1 1]
  | .shrS32Imm _ d a _ => [.dest d.toNat 1 1, .source a.toNat 1 1]
  | .bfxN32 _ d a _ => [.dest d.toNat 1 1, .source a.toNat 1 1]
  | .bfxS32 _ d a _ => [.dest d.toNat 1 1, .source a.toNat 1 1]
  | .bfiB32 _ d a _ => [.both d.toNat 1 1, .source a.toNat 1 1]
  | .popcB32 _ d a => [.dest d.toNat 1 1, .source a.toNat 1 1]
  | .clzB32 _ d a => [.dest d.toNat 1 1, .source a.toNat 1 1]
  | .brevB32 _ d a => [.dest d.toNat 1 1, .source a.toNat 1 1]
  | .iaddS64 _ d a b => [.dest d.toNat 2 2, .source a.toNat 2 2, .source b.toNat 2 2]
  | .iaddS64Lit _ d a _ => [.dest d.toNat 2 2, .source a.toNat 2 2]
  | .isubS64 _ d a b => [.dest d.toNat 2 2, .source a.toNat 2 2, .source b.toNat 2 2]
  | .leaS32 _ d a b _ => [.dest d.toNat 2 2, .source a.toNat 2 2, .source b.toNat 1 1]
  | .leaN32 _ d a b _ => [.dest d.toNat 2 2, .source a.toNat 2 2, .source b.toNat 1 1]
  | .shlB64 _ d a _ => [.dest d.toNat 2 2, .source a.toNat 2 2]
  | .shrN64 _ d a _ => [.dest d.toNat 2 2, .source a.toNat 2 2]
  | .shrS64 _ d a _ => [.dest d.toNat 2 2, .source a.toNat 2 2]
  | .imulwS32 _ d a b => [.dest d.toNat 2 2, .source a.toNat 1 1, .source b.toNat 1 1]
  | .imulwN32 _ d a b => [.dest d.toNat 2 2, .source a.toNat 1 1, .source b.toNat 1 1]
  | .icmpS32 _ _ d a b => [.dest d.toNat 1 1, .source a.toNat 1 1, .source b.toNat 1 1]
  | .icmpN32 _ _ d a b => [.dest d.toNat 1 1, .source a.toNat 1 1, .source b.toNat 1 1]
  | .icmpS32Lit _ _ d a _ => [.dest d.toNat 1 1, .source a.toNat 1 1]
  | .selB32 _ d a b => [.both d.toNat 1 1, .source a.toNat 1 1, .source b.toNat 1 1]
  | .selB64 _ d a b => [.both d.toNat 2 2, .source a.toNat 2 2, .source b.toNat 2 2]
  | .icmpEqB64 _ d a b => [.dest d.toNat 1 1, .source a.toNat 2 2, .source b.toNat 2 2]
  | .icmpLtS64 _ d a b => [.dest d.toNat 1 1, .source a.toNat 2 2, .source b.toNat 2 2]
  | .icmpLtN64 _ d a b => [.dest d.toNat 1 1, .source a.toNat 2 2, .source b.toNat 2 2]
  | .voteBallot _ d a => [.dest d.toNat 1 1, .source a.toNat 1 1]
  | .voteAny _ d a => [.dest d.toNat 1 1, .source a.toNat 1 1]
  | .voteAll _ d a => [.dest d.toNat 1 1, .source a.toNat 1 1]
  | .shflIdx _ d a b => [.dest d.toNat 1 1, .source a.toNat 1 1, .source b.toNat 1 1]
  | .shflUp _ d a b => [.dest d.toNat 1 1, .source a.toNat 1 1, .source b.toNat 1 1]
  | .shflDown _ d a b => [.dest d.toNat 1 1, .source a.toNat 1 1, .source b.toNat 1 1]
  | .shflXor _ d a b => [.dest d.toNat 1 1, .source a.toNat 1 1, .source b.toNat 1 1]
  | .shflDownImm _ d a _ => [.dest d.toNat 1 1, .source a.toNat 1 1]
  | .shflXorImm _ d a _ => [.dest d.toNat 1 1, .source a.toNat 1 1]
  | .matchB32 _ d a => [.dest d.toNat 1 1, .source a.toNat 1 1]
  | .gred _ d a _ => [.dest d.toNat 1 1, .source a.toNat 1 1]
  | .reorder _ d a => [.dest d.toNat 1 1, .source a.toNat 1 1]
  | .reggrow _ d _ => [.dest d.toNat 1 1]
  | .regshrink _ d _ => [.dest d.toNat 1 1]
  | .movxRd _ d a => [.dest d.toNat 1 1, .source a.toNat 1 1]
  | .movxWr _ d a => [.source d.toNat 1 1, .source a.toNat 1 1]
  | .movxRdB64 _ d a => [.dest d.toNat 2 2, .source a.toNat 1 1]
  | .movxWrB64 _ d a => [.source d.toNat 1 1, .source a.toNat 2 2]
  | .faddF32 _ _ d a b => [.dest d.toNat 1 1, .source a.toNat 1 1, .source b.toNat 1 1]
  | .fsubF32 _ _ d a b => [.dest d.toNat 1 1, .source a.toNat 1 1, .source b.toNat 1 1]
  | .fmulF32 _ _ d a b => [.dest d.toNat 1 1, .source a.toNat 1 1, .source b.toNat 1 1]
  | .ffmaF32 _ _ d a b => [.both d.toNat 1 1, .source a.toNat 1 1, .source b.toNat 1 1]
  | .fminF32 _ d a b => [.dest d.toNat 1 1, .source a.toNat 1 1, .source b.toNat 1 1]
  | .fmaxF32 _ d a b => [.dest d.toNat 1 1, .source a.toNat 1 1, .source b.toNat 1 1]
  | .fnegF32 _ d a => [.dest d.toNat 1 1, .source a.toNat 1 1]
  | .fabsF32 _ d a => [.dest d.toNat 1 1, .source a.toNat 1 1]
  | .fcmpF32 _ _ d a b => [.dest d.toNat 1 1, .source a.toNat 1 1, .source b.toNat 1 1]
  | .fcmpUnordF32 _ d a b => [.dest d.toNat 1 1, .source a.toNat 1 1, .source b.toNat 1 1]
  | .fclassF32 _ d a => [.dest d.toNat 1 1, .source a.toNat 1 1]
  | .faddF32Lit _ d a _ => [.dest d.toNat 1 1, .source a.toNat 1 1]
  | .fmulF32Lit _ d a _ => [.dest d.toNat 1 1, .source a.toNat 1 1]
  | .fgredAddF32 _ d a => [.dest d.toNat 1 1, .source a.toNat 1 1]
  | .fgredMinF32 _ d a => [.dest d.toNat 1 1, .source a.toNat 1 1]
  | .fgredMaxF32 _ d a => [.dest d.toNat 1 1, .source a.toNat 1 1]
  | .frintF32 _ _ d a => [.dest d.toNat 1 1, .source a.toNat 1 1]
  | .hadd _ _ d a b => [.dest d.toNat 1 1, .source a.toNat 1 1, .source b.toNat 1 1]
  | .hsub _ _ d a b => [.dest d.toNat 1 1, .source a.toNat 1 1, .source b.toNat 1 1]
  | .hmul _ _ d a b => [.dest d.toNat 1 1, .source a.toNat 1 1, .source b.toNat 1 1]
  | .hfma _ _ d a b => [.both d.toNat 1 1, .source a.toNat 1 1, .source b.toNat 1 1]
  | .hmin _ _ d a b => [.dest d.toNat 1 1, .source a.toNat 1 1, .source b.toNat 1 1]
  | .hmax _ _ d a b => [.dest d.toNat 1 1, .source a.toNat 1 1, .source b.toNat 1 1]
  | .hneg _ _ d a => [.dest d.toNat 1 1, .source a.toNat 1 1]
  | .habs _ _ d a => [.dest d.toNat 1 1, .source a.toNat 1 1]
  | .rcpF32 _ d a _ => [.dest d.toNat 1 1, .source a.toNat 1 1]
  | .sqrtF32 _ d a _ => [.dest d.toNat 1 1, .source a.toNat 1 1]
  | .rsqF32 _ d a _ => [.dest d.toNat 1 1, .source a.toNat 1 1]
  | .exp2F32 _ d a _ => [.dest d.toNat 1 1, .source a.toNat 1 1]
  | .log2F32 _ d a _ => [.dest d.toNat 1 1, .source a.toNat 1 1]
  | .sinF32 _ d a _ => [.dest d.toNat 1 1, .source a.toNat 1 1]
  | .cosF32 _ d a _ => [.dest d.toNat 1 1, .source a.toNat 1 1]
  | .cvt _ d a lit => cvtOperands d.toNat a.toNat lit
  | .packMx _ f d a lit => [.dest d.toNat (mxRegs f) (mxRegs f), .source a.toNat 32 32, .both (sReg lit) 1 1]
  | .unpackMx _ f d a lit => [.dest d.toNat 32 32, .source a.toNat (mxRegs f) (mxRegs f), .source (sReg lit) 1 1]
  | .packAq4 _ d a b lit => [.dest d.toNat 1 1, .source a.toNat 8 8, .source b.toNat 1 1, .both (sReg lit) 1 1]
  | .unpackAq4 _ d a b lit => [.dest d.toNat 8 8, .source a.toNat 1 1, .source b.toNat 1 1, .source (sReg lit) 1 1]
  | .tag _ d a _ => [.dest d.toNat 1 1, .source a.toNat 1 1]
  | .rdtag _ d a => [.dest d.toNat 1 1, .source a.toNat 1 1]
  | .ld _ d a z => [.dest d.toNat (zRegs z) (zRegs z), .address a.toNat 2 false]
  | .ldLit _ d a p _ z _ => [.dest d.toNat (zRegs z) (zRegs z), .address a.toNat 2 (p == 1#1)]
  | .ldSpec _ d a z => [.dest d.toNat (zRegs z) (zRegs z), .address a.toNat 2 false]
  | .ldSpecLit _ d a p _ z _ => [.dest d.toNat (zRegs z) (zRegs z), .address a.toNat 2 (p == 1#1)]
  | .st _ d a z => [.source d.toNat (zRegs z) (zRegs z), .address a.toNat 2 false]
  | .stLit _ d a p _ z _ => [.source d.toNat (zRegs z) (zRegs z), .address a.toNat 2 (p == 1#1)]
  | .ldFmt _ d a _ z => [.dest d.toNat (zRegs z) (zRegs z), .address a.toNat 2 false]
  | .ldAcq _ d a _ z => [.dest d.toNat (zRegs z) (zRegs z), .address a.toNat 2 false]
  | .stRel _ d a _ z => [.source d.toNat (zRegs z) (zRegs z), .address a.toNat 2 false]
  | .lds _ d a z => [.dest d.toNat (zRegs z) (zRegs z), .address a.toNat 1 false]
  | .ldsLit _ d a p _ z _ => [.dest d.toNat (zRegs z) (zRegs z), .address a.toNat 1 (p == 1#1)]
  | .ldsWait _ d a z => [.dest d.toNat (zRegs z) (zRegs z), .address a.toNat 1 false]
  | .ldsWaitLit _ d a p _ z _ => [.dest d.toNat (zRegs z) (zRegs z), .address a.toNat 1 (p == 1#1)]
  | .ldsWaitClr _ d a z => [.dest d.toNat (zRegs z) (zRegs z), .address a.toNat 1 false]
  | .ldsWaitClrLit _ d a p _ z _ => [.dest d.toNat (zRegs z) (zRegs z), .address a.toNat 1 (p == 1#1)]
  | .sts _ d a z => [.source d.toNat (zRegs z) (zRegs z), .address a.toNat 1 false]
  | .stsLit _ d a p _ z _ => [.source d.toNat (zRegs z) (zRegs z), .address a.toNat 1 (p == 1#1)]
  | .stsSet _ d a z => [.source d.toNat (zRegs z) (zRegs z), .address a.toNat 1 false]
  | .stsSetLit _ d a p _ z _ => [.source d.toNat (zRegs z) (zRegs z), .address a.toNat 1 (p == 1#1)]
  | .ldsFmt _ d a _ z => [.dest d.toNat (zRegs z) (zRegs z), .address a.toNat 1 false]
  | .ldsWaitFmt _ d a _ z => [.dest d.toNat (zRegs z) (zRegs z), .address a.toNat 1 false]
  | .prefetch _ a => [.address a.toNat 2 false]
  | .prefetchLit _ a p _ _ => [.address a.toNat 2 (p == 1#1)]
  | .prefetchW _ a => [.address a.toNat 2 false]
  | .prefetchWLit _ a p _ _ => [.address a.toNat 2 (p == 1#1)]
  | .evict _ a => [.address a.toNat 2 false]
  | .tlbinvVa _ a => [.address a.toNat 2 false]
  | .copyG2s _ d a b => [.source d.toNat 1 1, .address a.toNat 2 false, .source b.toNat 1 1]
  | .copyS2g _ d a b => [.address d.toNat 2 false, .source a.toNat 1 1, .source b.toNat 1 1]
  | .copyG2g _ d a b => [.address d.toNat 2 false, .address a.toNat 2 false, .source b.toNat 1 1]
  | .gather _ d a b _ => [.source d.toNat 1 1, .address a.toNat 2 false, .source b.toNat 1 1]
  | .scatter _ d a b _ => [.address d.toNat 2 false, .source a.toNat 1 1, .source b.toNat 1 1]
  | .modset _ _ a b => [.source a.toNat 1 1, .source b.toNat 1 1]
  | .modrd _ d _ => [.dest d.toNat 2 2]
  | .atom32 _ _ d a b => [.dest d.toNat 1 1, .address a.toNat 2 false, .source b.toNat 1 1]
  | .atomCasB32 _ d a b => [.dest d.toNat 1 1, .address a.toNat 2 false, .source b.toNat 2 2]
  | .atom64 _ _ d a b => [.dest d.toNat 2 2, .address a.toNat 2 false, .source b.toNat 2 2]
  | .atomCasB64 _ d a b => [.dest d.toNat 2 2, .address a.toNat 2 false, .source b.toNat 4 4]
  | .redAddS32 _ a b => [.address a.toNat 2 false, .source b.toNat 1 1]
  | .redAddS64 _ a b => [.address a.toNat 2 false, .source b.toNat 2 2]
  | .redAddF32 _ a b => [.address a.toNat 2 false, .source b.toNat 1 1]
  | .redAddBf16x2 _ a b => [.address a.toNat 2 false, .source b.toNat 1 1]
  | .redAtomic _ _ a b => [.address a.toNat 2 false, .source b.toNat 1 1]
  | .tryLane _ d _ => [.named d.toNat 4 4]
  | .tryGroup _ d _ => [.named d.toNat 4 4]
  | .tstat _ d => [.dest d.toNat 1 1]
  | .barArrive _ d _ => [.dest d.toNat 1 1]
  | .barWait _ a _ => [.source a.toNat 1 1]
  | .cvsetMask _ a _ => [.source a.toNat 1 1]
  | .cvrd _ d _ => [.dest d.toNat 2 2]
  | .pipePut _ a _ => [.source a.toNat 1 1]
  | .pipeGet _ d _ => [.dest d.toNat 1 1]
  | .qsig _ _ a b => [.address a.toNat 2 false, .source b.toNat 2 2]
  | .qwait _ d a b => [.dest d.toNat 1 1, .address a.toNat 2 false, .source b.toNat 2 2]
  | .mma _ d a _ _ => [.source d.toNat 32 32, .source a.toNat 2 2]
  | .mmaSp _ d a _ _ => [.source d.toNat 32 32, .source a.toNat 2 2]
  | .mrsv _ d _ => [.dest d.toNat 1 1]
  | .mrdF32 _ d _ _ => [.dest d.toNat 16 16]
  | .mrdS32 _ d _ _ => [.dest d.toNat 16 16]
  | .mwr _ a _ _ => [.source a.toNat 16 16]
  | .trace _ d a b _ => [.dest d.toNat 4 4, .address a.toNat 2 false, .source b.toNat 8 8]
  | .traceEmit _ d a b _ => [.source d.toNat 10 2, .address a.toNat 2 false, .source b.toNat 8 8]
  | .asbuild _ d a _ => [.dest d.toNat 1 1, .address a.toNat 2 false]
  | .asbuildUpdate _ d a _ => [.dest d.toNat 1 1, .address a.toNat 2 false]
  | .asrefit _ d a _ => [.dest d.toNat 1 1, .address a.toNat 2 false]
  | .asretire _ d a _ => [.dest d.toNat 1 1, .address a.toNat 2 false]
  | .launch _ d a => [.dest d.toNat 1 1, .address a.toNat 2 false]
  | .emit _ a b => [.source a.toNat 2 2, .source b.toNat 12 4]
  | .brz _ a _ => [.source a.toNat 1 1]
  | .brnz _ a _ => [.source a.toNat 1 1]
  | .call _ d _ => [.dest d.toNat 2 2]
  | .ret _ a => [.source a.toNat 2 2]
  | .callr _ d a => [.dest d.toNat 2 2, .source a.toNat 2 2]
  | .rdsys _ d i => [.dest d.toNat (if i.toNat < 32 then 1 else 2) (if i.toNat < 32 then 1 else 2)]
  | .rett _ d a => [.dest d.toNat 1 1, .source a.toNat 1 1]
  | .grd _ d a => [.dest d.toNat 2 2, .source a.toNat 1 1]
  | .gwr _ d a => [.source d.toNat 1 1, .source a.toNat 2 2]
  | .evwait _ d => [.dest d.toNat 1 1]
  | _ => []

/-- First register and count of an operand. -/
def Operand.span : Operand → Nat × Nat
  | .dest r n _ => (r, n)
  | .source r n _ => (r, n)
  | .both r n _ => (r, n)
  | .named r n _ => (r, n)
  | .address r n _ => (r, n)

/-- The multiple an operand's first register must be of (R342, R344). -/
def Operand.alignment : Operand → Nat
  | .dest _ _ k => k
  | .source _ _ k => k
  | .both _ _ k => k
  | .named _ _ k => k
  | .address _ n _ => n

/-- The registers `r` to `r + n - 1`. -/
def regSpan (p : Nat × Nat) : List Nat := (List.range p.2).map (p.1 + ·)

/-- The registers an instruction names (R245). -/
def namedRegs (i : Instr) : List Nat := (operands i).flatMap fun o => regSpan o.span

/-- The registers an instruction writes, a post-incremented address included (R437, R442). -/
def destRegs (i : Instr) : List Nat :=
  (operands i).flatMap fun o =>
    match o with
    | .dest r n _ => regSpan (r, n)
    | .both r n _ => regSpan (r, n)
    | .address r n true => regSpan (r, n)
    | _ => []

/-- The registers an instruction reads. -/
def sourceRegs (i : Instr) : List Nat :=
  (operands i).flatMap fun o =>
    match o with
    | .source r n _ => regSpan (r, n)
    | .both r n _ => regSpan (r, n)
    | .address r n _ => regSpan (r, n)
    | _ => []

/-- The register sources in the order a replay entry captures them: address registers first, then the others (R152). -/
def captureOrder (i : Instr) : List Nat :=
  ((operands i).flatMap fun o => match o with | .address r n _ => regSpan (r, n) | _ => []) ++
  ((operands i).flatMap fun o =>
    match o with
    | .source r n _ => regSpan (r, n)
    | .both r n _ => regSpan (r, n)
    | _ => [])

/-- What a replay entry captures: nothing when more than six slots would be needed (R152). -/
def captured (i : Instr) : List Nat := if (captureOrder i).length ≤ 6 then captureOrder i else []

/-- Bits `lo` to `lo + n - 1` of a word, as a number. -/
def fieldOf (w : Word) (lo n : Nat) : Nat := (w.extractLsb' lo n).toNat

/-- The P, MSEL and literal fields of a memory form with a literal are legal (R348); `space` is true for scratchpad. -/
def memLiteralOk (space : Bool) (p : BitVec 1) (m : BitVec 3) (lit : Word) : Bool :=
  if p == 1#1 then
    fieldOf lit 19 12 == 0 && (m == 0#3 || fieldOf lit 31 1 == 1) && (space || fieldOf lit 31 1 == 0)
  else m == 0#3

/-- The literal of BFX and BFI is legal (R369). -/
def fieldLiteralOk (lit : Word) : Bool :=
  fieldOf lit 5 3 == 0 && fieldOf lit 14 18 == 0 && 1 ≤ fieldOf lit 8 6 && fieldOf lit 0 5 + fieldOf lit 8 6 ≤ 32

/-- The literal of CVT is legal (R401, R402). -/
def cvtLiteralOk (lit : Word) : Bool :=
  let from_ := fieldOf lit 0 4
  let toward := fieldOf lit 4 4
  fieldOf lit 12 20 == 0 && 1 ≤ from_ && from_ ≤ 14 && 1 ≤ toward && toward ≤ 14 && !(from_ == toward) &&
  (from_ < 13 || toward == 1) && (toward < 13 || from_ == 1) &&
  (fieldOf lit 11 1 == 0 || from_ == 12 || toward == 12) &&
  (fieldOf lit 10 1 == 0 || toward ≤ 6 || toward == 13)

/-- The literal of a packing instruction has only SREG and SELEM (R406). -/
def packLiteralOk (lit : Word) : Bool := fieldOf lit 7 1 == 0 && fieldOf lit 10 22 == 0

/-- The literal of GATHER and SCATTER is legal (R433). -/
def gatherLiteralOk (lit : Word) : Bool :=
  1 ≤ fieldOf lit 0 13 && fieldOf lit 0 13 ≤ 4096 && fieldOf lit 13 3 == 0 && fieldOf lit 18 14 == 0

/-- The literal of BAR.INIT is legal (R459). -/
def barInitLiteralOk (lit : Word) : Bool :=
  fieldOf lit 3 5 == 0 && fieldOf lit 8 9 ≤ 256 && fieldOf lit 17 15 == 0

/-- The literal of MMA is legal (R474); `sp` is true for MMA.SP. -/
def mmaLiteralOk (sp : Bool) (b : RegIx) (lit : Word) : Bool :=
  fieldOf lit 28 4 == 0 && fieldOf lit 0 8 == 0 && fieldOf lit 15 2 < 3 && (sp || fieldOf lit 8 7 == 0) &&
  (!(fieldOf lit 15 2 == 0) || b == 0#7)

/-- The fields of an instruction whose legality is its own (step 4 of R351), register alignment aside. -/
def fieldsLegal : Instr → Bool
  | .icmpS32 _ c _ _ _ => c.toNat ≤ 5
  | .icmpN32 _ c _ _ _ => c.toNat ≤ 5
  | .icmpS32Lit _ c _ _ _ => c.toNat ≤ 5
  | .fcmpF32 _ c _ _ _ => 4 ≤ c.toNat && c.toNat ≤ 9
  | .atom32 _ o _ _ _ => o.toNat ≤ 8 || o.toNat == 10
  | .atom64 _ o _ _ _ => o.toNat ≤ 8
  | .redAtomic _ o _ _ => 4 ≤ o.toNat && o.toNat ≤ 10
  | .reggrow _ _ n => 1 ≤ n.toNat && n.toNat ≤ 16
  | .regshrink _ _ n => 1 ≤ n.toNat && n.toNat ≤ 16
  | .bfxN32 _ _ _ lit => fieldLiteralOk lit
  | .bfxS32 _ _ _ lit => fieldLiteralOk lit
  | .bfiB32 _ _ _ lit => fieldLiteralOk lit
  | .leaS32 _ _ _ _ lit => fieldOf lit 3 29 == 0
  | .leaN32 _ _ _ _ lit => fieldOf lit 3 29 == 0
  | .cvt _ _ _ lit => cvtLiteralOk lit
  | .packMx _ f d _ lit => f.toNat ≤ 5 && packLiteralOk lit && !(d.toNat ≤ sReg lit && sReg lit < d.toNat + mxRegs f)
  | .unpackMx _ f _ _ lit => f.toNat ≤ 5 && packLiteralOk lit
  | .packAq4 _ d _ _ lit => packLiteralOk lit && !(sReg lit == d.toNat)
  | .unpackAq4 _ _ _ _ lit => packLiteralOk lit
  | .ld _ _ _ z => z.toNat ≤ 4
  | .ldSpec _ _ _ z => z.toNat ≤ 4
  | .st _ _ _ z => z.toNat ≤ 4
  | .ldLit _ _ _ p m z lit => z.toNat ≤ 4 && memLiteralOk false p m lit
  | .ldSpecLit _ _ _ p m z lit => z.toNat ≤ 4 && memLiteralOk false p m lit
  | .stLit _ _ _ p m z lit => z.toNat ≤ 4 && memLiteralOk false p m lit
  | .ldFmt _ _ _ k z => 1 ≤ k.toNat && k.toNat ≤ 14 && 2 ≤ z.toNat && z.toNat ≤ 4
  | .ldAcq _ _ _ c z => c.toNat ≤ 5 && z.toNat ≤ 3
  | .stRel _ _ _ c z => c.toNat ≤ 5 && z.toNat ≤ 3
  | .lds _ _ _ z => z.toNat ≤ 4
  | .ldsWait _ _ _ z => z.toNat ≤ 4
  | .ldsWaitClr _ _ _ z => z.toNat ≤ 4
  | .sts _ _ _ z => z.toNat ≤ 4
  | .stsSet _ _ _ z => z.toNat ≤ 4
  | .ldsLit _ _ _ p m z lit => z.toNat ≤ 4 && memLiteralOk true p m lit
  | .ldsWaitLit _ _ _ p m z lit => z.toNat ≤ 4 && memLiteralOk true p m lit
  | .ldsWaitClrLit _ _ _ p m z lit => z.toNat ≤ 4 && memLiteralOk true p m lit
  | .stsLit _ _ _ p m z lit => z.toNat ≤ 4 && memLiteralOk true p m lit
  | .stsSetLit _ _ _ p m z lit => z.toNat ≤ 4 && memLiteralOk true p m lit
  | .ldsFmt _ _ _ k z => 1 ≤ k.toNat && k.toNat ≤ 14 && 2 ≤ z.toNat && z.toNat ≤ 4
  | .ldsWaitFmt _ _ _ k z => 1 ≤ k.toNat && k.toNat ≤ 14 && 2 ≤ z.toNat && z.toNat ≤ 4
  | .prefetchLit _ _ p m lit => memLiteralOk false p m lit
  | .prefetchWLit _ _ p m lit => memLiteralOk false p m lit
  | .gather _ _ _ _ lit => gatherLiteralOk lit
  | .scatter _ _ _ _ lit => gatherLiteralOk lit
  | .commitRel _ c => c.toNat ≤ 5
  | .abort _ lit => fieldOf lit 8 24 == 0
  | .fence _ c => c.toNat ≤ 5
  | .qsig _ c _ _ => c.toNat ≤ 5
  | .barInit _ lit => barInitLiteralOk lit
  | .mma _ _ _ b lit => mmaLiteralOk false b lit
  | .mmaSp _ _ _ b lit => mmaLiteralOk true b lit
  | .trace _ _ _ _ lit => fieldOf lit 1 31 == 0
  | .traceEmit _ _ _ _ lit => fieldOf lit 1 31 == 0
  | .rdsys _ _ i => i.toNat ≤ 23 || (32 ≤ i.toNat && i.toNat ≤ 34)
  | _ => true

/-- Step 4 of R351: the fields of the instruction are legal and its registers aligned. -/
def encodingLegal (i : Instr) : Bool :=
  fieldsLegal i && (operands i).all fun o => o.span.1 % o.alignment == 0

end Sys2Proof.Machine
end

