-- ==== Sys2Proof/WellFormed.lean ====
section
/-! DEFINITION.  Well-formed instructions: what step 4 of R351 lets through.  The checks themselves stand in Machine/Operands.lean. -/

namespace Sys2Proof

/-- An instruction whose fields are legal and whose register ranges are aligned (R342 to R344 and the rules of each instruction). -/
def Instr.wellFormed (i : Instr) : Bool := Machine.encodingLegal i

end Sys2Proof
end

