-- ==== Sys2Proof/Decode.lean ====
section
/-! DEFINITION.  The decoder and the encoder (R333, R338, R339, R341 to R345).  `decode` is total: it answers an instruction or
rejects by name, an unallocated opcode apart from an illegal encoding. -/

namespace Sys2Proof

open Machine

/-- The stop bit of an instruction word (R342). -/
def wordStop (w : Word) : Bool := w.getLsbD 31
/-- The opcode field, bits 30:21 (R341). -/
def wordOp (w : Word) : BitVec 10 := w.extractLsb' 21 10
/-- Field d, bits 20:14. -/
def wordD (w : Word) : RegIx := w.extractLsb' 14 7
/-- Field a, bits 13:7. -/
def wordA (w : Word) : RegIx := w.extractLsb' 7 7
/-- Field b, bits 6:0. -/
def wordB (w : Word) : RegIx := w.extractLsb' 0 7

/-- An instruction word from its fields (R341). -/
def mkWord (x : Bool) (op : BitVec 10) (d a b : BitVec 7) : Word := BitVec.ofBool x ++ op ++ d ++ a ++ b

/-- What the fields of a word give before the legality checks of step 4. -/
inductive RawDecode where
  | instr (i : Instr)
  | badField
  | noOpcode
  deriving DecidableEq, Repr

/-- The outcome of decoding one word with its literal. -/
inductive Decoded where
  | ok (i : Instr)
  | illegalEncoding
  | illegalOpcode
  deriving DecidableEq, Repr

/-- An instruction whose unused fields must be zero (R342). -/
def checked (zero : Bool) (i : Instr) : RawDecode := if zero then .instr i else .badField

/-- The integer, logical, shift, bit-field and address instructions (R367). -/
def decodeInt (op : Nat) (x : Bool) (d a b : RegIx) (lit : Word) : RawDecode :=
  match op with
  | 0x000 => checked (b == 0#7) (.movB32 x d a)
  | 0x001 => checked (a == 0#7 && b == 0#7) (.movB32Lit x d lit)
  | 0x002 => checked (b == 0#7) (.movB64 x d a)
  | 0x003 => checked (a == 0#7 && b == 0#7) (.movS64Lit x d lit)
  | 0x004 => .instr (.iaddS32 x d a b)
  | 0x005 => .instr (.iaddS32Imm x d a (b.extractLsb' 0 7))
  | 0x006 => checked (b == 0#7) (.iaddS32Lit x d a lit)
  | 0x007 => .instr (.isubS32 x d a b)
  | 0x008 => .instr (.imulS32 x d a b)
  | 0x009 => checked (b == 0#7) (.imulS32Lit x d a lit)
  | 0x00a => .instr (.imulhiS32 x d a b)
  | 0x00b => .instr (.imulhiN32 x d a b)
  | 0x00c => .instr (.imadS32 x d a b)
  | 0x00d => .instr (.iaddS32Sat x d a b)
  | 0x00e => .instr (.isubS32Sat x d a b)
  | 0x00f => checked (b == 0#7) (.inegS32 x d a)
  | 0x010 => .instr (.iminS32 x d a b)
  | 0x011 => .instr (.iminN32 x d a b)
  | 0x012 => .instr (.imaxS32 x d a b)
  | 0x013 => .instr (.imaxN32 x d a b)
  | 0x014 => checked (b == 0#7) (.iabsS32 x d a)
  | 0x015 => .instr (.andB32 x d a b)
  | 0x016 => checked (b == 0#7) (.andB32Lit x d a lit)
  | 0x017 => .instr (.orB32 x d a b)
  | 0x018 => checked (b == 0#7) (.orB32Lit x d a lit)
  | 0x019 => .instr (.xorB32 x d a b)
  | 0x01a => checked (b == 0#7) (.xorB32Lit x d a lit)
  | 0x01b => .instr (.andnB32 x d a b)
  | 0x01c => checked (b == 0#7) (.notB32 x d a)
  | 0x01d => .instr (.shlB32 x d a b)
  | 0x01e => .instr (.shlB32Imm x d a (b.extractLsb' 0 7))
  | 0x01f => .instr (.shrN32 x d a b)
  | 0x020 => .instr (.shrN32Imm x d a (b.extractLsb' 0 7))
  | 0x021 => .instr (.shrS32 x d a b)
  | 0x022 => .instr (.shrS32Imm x d a (b.extractLsb' 0 7))
  | 0x023 => checked (b == 0#7) (.bfxN32 x d a lit)
  | 0x024 => checked (b == 0#7) (.bfxS32 x d a lit)
  | 0x025 => checked (b == 0#7) (.bfiB32 x d a lit)
  | 0x026 => checked (b == 0#7) (.popcB32 x d a)
  | 0x027 => checked (b == 0#7) (.clzB32 x d a)
  | 0x028 => checked (b == 0#7) (.brevB32 x d a)
  | 0x029 => .instr (.iaddS64 x d a b)
  | 0x02a => checked (b == 0#7) (.iaddS64Lit x d a lit)
  | 0x02b => .instr (.isubS64 x d a b)
  | 0x02c => .instr (.leaS32 x d a b lit)
  | 0x02d => .instr (.leaN32 x d a b lit)
  | 0x02e => .instr (.shlB64 x d a (b.extractLsb' 0 7))
  | 0x02f => .instr (.shrN64 x d a (b.extractLsb' 0 7))
  | 0x030 => .instr (.shrS64 x d a (b.extractLsb' 0 7))
  | 0x031 => .instr (.imulwS32 x d a b)
  | 0x032 => .instr (.imulwN32 x d a b)
  | _ => .noOpcode

/-- The compares, selects, group operations, register growth and indexed moves (R372, R374, R380 to R382). -/
def decodeCmp (op : Nat) (x : Bool) (d a b : RegIx) (lit : Word) : RawDecode :=
  match op with
  | 0x040 => .instr (.icmpS32 x 0#3 d a b)
  | 0x041 => .instr (.icmpS32 x 1#3 d a b)
  | 0x042 => .instr (.icmpS32 x 2#3 d a b)
  | 0x043 => .instr (.icmpS32 x 3#3 d a b)
  | 0x044 => .instr (.icmpS32 x 4#3 d a b)
  | 0x045 => .instr (.icmpS32 x 5#3 d a b)
  | 0x048 => .instr (.icmpN32 x 0#3 d a b)
  | 0x049 => .instr (.icmpN32 x 1#3 d a b)
  | 0x04a => .instr (.icmpN32 x 2#3 d a b)
  | 0x04b => .instr (.icmpN32 x 3#3 d a b)
  | 0x04c => .instr (.icmpN32 x 4#3 d a b)
  | 0x04d => .instr (.icmpN32 x 5#3 d a b)
  | 0x050 => checked (b == 0#7) (.icmpS32Lit x 0#3 d a lit)
  | 0x051 => checked (b == 0#7) (.icmpS32Lit x 1#3 d a lit)
  | 0x052 => checked (b == 0#7) (.icmpS32Lit x 2#3 d a lit)
  | 0x053 => checked (b == 0#7) (.icmpS32Lit x 3#3 d a lit)
  | 0x054 => checked (b == 0#7) (.icmpS32Lit x 4#3 d a lit)
  | 0x055 => checked (b == 0#7) (.icmpS32Lit x 5#3 d a lit)
  | 0x058 => .instr (.selB32 x d a b)
  | 0x059 => .instr (.selB64 x d a b)
  | 0x05a => .instr (.icmpEqB64 x d a b)
  | 0x05b => .instr (.icmpLtS64 x d a b)
  | 0x05c => .instr (.icmpLtN64 x d a b)
  | 0x060 => checked (b == 0#7) (.voteBallot x d a)
  | 0x061 => checked (b == 0#7) (.voteAny x d a)
  | 0x062 => checked (b == 0#7) (.voteAll x d a)
  | 0x063 => .instr (.shflIdx x d a b)
  | 0x064 => .instr (.shflUp x d a b)
  | 0x065 => .instr (.shflDown x d a b)
  | 0x066 => .instr (.shflXor x d a b)
  | 0x067 => checked (b.extractLsb' 5 2 == 0#2) (.shflDownImm x d a (b.extractLsb' 0 5))
  | 0x068 => checked (b.extractLsb' 5 2 == 0#2) (.shflXorImm x d a (b.extractLsb' 0 5))
  | 0x069 => checked (b == 0#7) (.matchB32 x d a)
  | 0x06a => checked (b.extractLsb' 3 4 == 0#4) (.gred x d a (b.extractLsb' 0 3))
  | 0x06b => checked (b == 0#7) (.reorder x d a)
  | 0x070 => checked (a == 0#7 && b.extractLsb' 5 2 == 0#2) (.reggrow x d (b.extractLsb' 0 5))
  | 0x071 => checked (a == 0#7 && b.extractLsb' 5 2 == 0#2) (.regshrink x d (b.extractLsb' 0 5))
  | 0x072 => checked (b == 0#7) (.movxRd x d a)
  | 0x073 => checked (b == 0#7) (.movxWr x d a)
  | 0x074 => checked (b == 0#7) (.movxRdB64 x d a)
  | 0x075 => checked (b == 0#7) (.movxWrB64 x d a)
  | _ => .noOpcode

/-- The FP32 instructions (R395). -/
def decodeFp (op : Nat) (x : Bool) (d a b : RegIx) (lit : Word) : RawDecode :=
  match op with
  | 0x080 => .instr (.faddF32 x 0#2 d a b)
  | 0x081 => .instr (.faddF32 x 1#2 d a b)
  | 0x082 => .instr (.faddF32 x 2#2 d a b)
  | 0x083 => .instr (.faddF32 x 3#2 d a b)
  | 0x084 => .instr (.fsubF32 x 0#2 d a b)
  | 0x085 => .instr (.fsubF32 x 1#2 d a b)
  | 0x086 => .instr (.fsubF32 x 2#2 d a b)
  | 0x087 => .instr (.fsubF32 x 3#2 d a b)
  | 0x088 => .instr (.fmulF32 x 0#2 d a b)
  | 0x089 => .instr (.fmulF32 x 1#2 d a b)
  | 0x08a => .instr (.fmulF32 x 2#2 d a b)
  | 0x08b => .instr (.fmulF32 x 3#2 d a b)
  | 0x08c => .instr (.ffmaF32 x 0#2 d a b)
  | 0x08d => .instr (.ffmaF32 x 1#2 d a b)
  | 0x08e => .instr (.ffmaF32 x 2#2 d a b)
  | 0x08f => .instr (.ffmaF32 x 3#2 d a b)
  | 0x090 => .instr (.fminF32 x d a b)
  | 0x091 => .instr (.fmaxF32 x d a b)
  | 0x092 => checked (b == 0#7) (.fnegF32 x d a)
  | 0x093 => checked (b == 0#7) (.fabsF32 x d a)
  | 0x094 => .instr (.fcmpF32 x 4#4 d a b)
  | 0x095 => .instr (.fcmpF32 x 5#4 d a b)
  | 0x096 => .instr (.fcmpF32 x 6#4 d a b)
  | 0x097 => .instr (.fcmpF32 x 7#4 d a b)
  | 0x098 => .instr (.fcmpF32 x 8#4 d a b)
  | 0x099 => .instr (.fcmpF32 x 9#4 d a b)
  | 0x09a => .instr (.fcmpUnordF32 x d a b)
  | 0x09b => checked (b == 0#7) (.fclassF32 x d a)
  | 0x09c => checked (b == 0#7) (.faddF32Lit x d a lit)
  | 0x09d => checked (b == 0#7) (.fmulF32Lit x d a lit)
  | 0x0a0 => checked (b == 0#7) (.fgredAddF32 x d a)
  | 0x0a1 => checked (b == 0#7) (.fgredMinF32 x d a)
  | 0x0a2 => checked (b == 0#7) (.fgredMaxF32 x d a)
  | 0x0a4 => checked (b == 0#7) (.frintF32 x 0#2 d a)
  | 0x0a5 => checked (b == 0#7) (.frintF32 x 1#2 d a)
  | 0x0a6 => checked (b == 0#7) (.frintF32 x 2#2 d a)
  | 0x0a7 => checked (b == 0#7) (.frintF32 x 3#2 d a)
  | _ => .noOpcode

/-- The packed, function and conversion instructions (R399 to R409). -/
def decodeCvt (op : Nat) (x : Bool) (d a b : RegIx) (lit : Word) : RawDecode :=
  match op with
  | 0x0c0 => .instr (.hadd x 0#1 d a b)
  | 0x0c1 => .instr (.hsub x 0#1 d a b)
  | 0x0c2 => .instr (.hmul x 0#1 d a b)
  | 0x0c3 => .instr (.hfma x 0#1 d a b)
  | 0x0c4 => .instr (.hmin x 0#1 d a b)
  | 0x0c5 => .instr (.hmax x 0#1 d a b)
  | 0x0c6 => checked (b == 0#7) (.hneg x 0#1 d a)
  | 0x0c7 => checked (b == 0#7) (.habs x 0#1 d a)
  | 0x0c8 => .instr (.hadd x 1#1 d a b)
  | 0x0c9 => .instr (.hsub x 1#1 d a b)
  | 0x0ca => .instr (.hmul x 1#1 d a b)
  | 0x0cb => .instr (.hfma x 1#1 d a b)
  | 0x0cc => .instr (.hmin x 1#1 d a b)
  | 0x0cd => .instr (.hmax x 1#1 d a b)
  | 0x0ce => checked (b == 0#7) (.hneg x 1#1 d a)
  | 0x0cf => checked (b == 0#7) (.habs x 1#1 d a)
  | 0x0e0 => checked (b.extractLsb' 2 5 == 0#5) (.rcpF32 x d a (b.extractLsb' 0 2))
  | 0x0e1 => checked (b.extractLsb' 2 5 == 0#5) (.sqrtF32 x d a (b.extractLsb' 0 2))
  | 0x0e2 => checked (b.extractLsb' 2 5 == 0#5) (.rsqF32 x d a (b.extractLsb' 0 2))
  | 0x0e3 => checked (b.extractLsb' 2 5 == 0#5) (.exp2F32 x d a (b.extractLsb' 0 2))
  | 0x0e4 => checked (b.extractLsb' 2 5 == 0#5) (.log2F32 x d a (b.extractLsb' 0 2))
  | 0x0e5 => checked (b.extractLsb' 2 5 == 0#5) (.sinF32 x d a (b.extractLsb' 0 2))
  | 0x0e6 => checked (b.extractLsb' 2 5 == 0#5) (.cosF32 x d a (b.extractLsb' 0 2))
  | 0x100 => checked (b == 0#7) (.cvt x d a lit)
  | 0x140 => checked (b == 0#7) (.packMx x 0#3 d a lit)
  | 0x141 => checked (b == 0#7) (.packMx x 1#3 d a lit)
  | 0x142 => checked (b == 0#7) (.packMx x 2#3 d a lit)
  | 0x143 => checked (b == 0#7) (.packMx x 3#3 d a lit)
  | 0x144 => checked (b == 0#7) (.packMx x 4#3 d a lit)
  | 0x145 => checked (b == 0#7) (.packMx x 5#3 d a lit)
  | 0x148 => .instr (.packAq4 x d a b lit)
  | 0x150 => checked (b == 0#7) (.unpackMx x 0#3 d a lit)
  | 0x151 => checked (b == 0#7) (.unpackMx x 1#3 d a lit)
  | 0x152 => checked (b == 0#7) (.unpackMx x 2#3 d a lit)
  | 0x153 => checked (b == 0#7) (.unpackMx x 3#3 d a lit)
  | 0x154 => checked (b == 0#7) (.unpackMx x 4#3 d a lit)
  | 0x155 => checked (b == 0#7) (.unpackMx x 5#3 d a lit)
  | 0x158 => .instr (.unpackAq4 x d a b lit)
  | 0x160 => checked (b.extractLsb' 4 3 == 0#3) (.tag x d a (b.extractLsb' 0 4))
  | 0x161 => checked (b == 0#7) (.rdtag x d a)
  | _ => .noOpcode

/-- The memory, cache-control, transfer and modulo instructions (R414, R415, R427 to R433). -/
def decodeMem (op : Nat) (x : Bool) (d a b : RegIx) (lit : Word) : RawDecode :=
  match op with
  | 0x180 => checked (b.extractLsb' 3 4 == 0#4) (.ld x d a (b.extractLsb' 0 3))
  | 0x181 => .instr (.ldLit x d a (b.extractLsb' 6 1) (b.extractLsb' 3 3) (b.extractLsb' 0 3) lit)
  | 0x182 => checked (b.extractLsb' 3 4 == 0#4) (.ldSpec x d a (b.extractLsb' 0 3))
  | 0x183 => .instr (.ldSpecLit x d a (b.extractLsb' 6 1) (b.extractLsb' 3 3) (b.extractLsb' 0 3) lit)
  | 0x184 => checked (b.extractLsb' 3 4 == 0#4) (.st x d a (b.extractLsb' 0 3))
  | 0x185 => .instr (.stLit x d a (b.extractLsb' 6 1) (b.extractLsb' 3 3) (b.extractLsb' 0 3) lit)
  | 0x186 => .instr (.ldFmt x d a (b.extractLsb' 3 4) (b.extractLsb' 0 3))
  | 0x187 => .instr (.ldAcq x d a (b.extractLsb' 3 4) (b.extractLsb' 0 3))
  | 0x188 => .instr (.stRel x d a (b.extractLsb' 3 4) (b.extractLsb' 0 3))
  | 0x190 => checked (b.extractLsb' 3 4 == 0#4) (.lds x d a (b.extractLsb' 0 3))
  | 0x191 => .instr (.ldsLit x d a (b.extractLsb' 6 1) (b.extractLsb' 3 3) (b.extractLsb' 0 3) lit)
  | 0x192 => checked (b.extractLsb' 3 4 == 0#4) (.ldsWait x d a (b.extractLsb' 0 3))
  | 0x193 => .instr (.ldsWaitLit x d a (b.extractLsb' 6 1) (b.extractLsb' 3 3) (b.extractLsb' 0 3) lit)
  | 0x194 => checked (b.extractLsb' 3 4 == 0#4) (.ldsWaitClr x d a (b.extractLsb' 0 3))
  | 0x195 => .instr (.ldsWaitClrLit x d a (b.extractLsb' 6 1) (b.extractLsb' 3 3) (b.extractLsb' 0 3) lit)
  | 0x196 => checked (b.extractLsb' 3 4 == 0#4) (.sts x d a (b.extractLsb' 0 3))
  | 0x197 => .instr (.stsLit x d a (b.extractLsb' 6 1) (b.extractLsb' 3 3) (b.extractLsb' 0 3) lit)
  | 0x198 => checked (b.extractLsb' 3 4 == 0#4) (.stsSet x d a (b.extractLsb' 0 3))
  | 0x199 => .instr (.stsSetLit x d a (b.extractLsb' 6 1) (b.extractLsb' 3 3) (b.extractLsb' 0 3) lit)
  | 0x19a => .instr (.ldsFmt x d a (b.extractLsb' 3 4) (b.extractLsb' 0 3))
  | 0x19b => .instr (.ldsWaitFmt x d a (b.extractLsb' 3 4) (b.extractLsb' 0 3))
  | 0x1a0 => checked (d == 0#7 && b == 0#7) (.prefetch x a)
  | 0x1a1 => checked (d == 0#7 && b.extractLsb' 0 3 == 0#3) (.prefetchLit x a (b.extractLsb' 6 1) (b.extractLsb' 3 3) lit)
  | 0x1a2 => checked (d == 0#7 && b == 0#7) (.prefetchW x a)
  | 0x1a3 => checked (d == 0#7 && b.extractLsb' 0 3 == 0#3) (.prefetchWLit x a (b.extractLsb' 6 1) (b.extractLsb' 3 3) lit)
  | 0x1a4 => checked (d == 0#7 && b == 0#7) (.evict x a)
  | 0x1a6 => checked (d == 0#7 && b == 0#7) (.tlbinvVa x a)
  | 0x1a7 => checked (d == 0#7 && a == 0#7 && b == 0#7) (.tlbinvAll x)
  | 0x1b0 => .instr (.copyG2s x d a b)
  | 0x1b1 => .instr (.copyS2g x d a b)
  | 0x1b2 => .instr (.copyG2g x d a b)
  | 0x1b3 => .instr (.gather x d a b lit)
  | 0x1b4 => .instr (.scatter x d a b lit)
  | 0x1c0 => checked (d.extractLsb' 3 4 == 0#4) (.modset x (d.extractLsb' 0 3) a b)
  | 0x1c1 => checked (a == 0#7 && b.extractLsb' 3 4 == 0#4) (.modrd x d (b.extractLsb' 0 3))
  | _ => .noOpcode

/-- The atomics and reductions (R422, R425). -/
def decodeAtom (op : Nat) (x : Bool) (d a b : RegIx) (lit : Word) : RawDecode :=
  match op with
  | 0x200 => .instr (.atom32 x 0#4 d a b)
  | 0x201 => .instr (.atom32 x 1#4 d a b)
  | 0x202 => .instr (.atom32 x 2#4 d a b)
  | 0x203 => .instr (.atom32 x 3#4 d a b)
  | 0x204 => .instr (.atom32 x 4#4 d a b)
  | 0x205 => .instr (.atom32 x 5#4 d a b)
  | 0x206 => .instr (.atom32 x 6#4 d a b)
  | 0x207 => .instr (.atom32 x 7#4 d a b)
  | 0x208 => .instr (.atom32 x 8#4 d a b)
  | 0x209 => .instr (.atomCasB32 x d a b)
  | 0x20a => .instr (.atom32 x 10#4 d a b)
  | 0x210 => .instr (.atom64 x 0#4 d a b)
  | 0x211 => .instr (.atom64 x 1#4 d a b)
  | 0x212 => .instr (.atom64 x 2#4 d a b)
  | 0x213 => .instr (.atom64 x 3#4 d a b)
  | 0x214 => .instr (.atom64 x 4#4 d a b)
  | 0x215 => .instr (.atom64 x 5#4 d a b)
  | 0x216 => .instr (.atom64 x 6#4 d a b)
  | 0x217 => .instr (.atom64 x 7#4 d a b)
  | 0x218 => .instr (.atom64 x 8#4 d a b)
  | 0x219 => .instr (.atomCasB64 x d a b)
  | 0x220 => checked (d == 0#7) (.redAddS32 x a b)
  | 0x221 => checked (d == 0#7) (.redAddS64 x a b)
  | 0x222 => checked (d == 0#7) (.redAddF32 x a b)
  | 0x223 => checked (d == 0#7) (.redAddBf16x2 x a b)
  | 0x224 => checked (d == 0#7) (.redAtomic x 4#4 a b)
  | 0x225 => checked (d == 0#7) (.redAtomic x 5#4 a b)
  | 0x226 => checked (d == 0#7) (.redAtomic x 6#4 a b)
  | 0x227 => checked (d == 0#7) (.redAtomic x 7#4 a b)
  | 0x228 => checked (d == 0#7) (.redAtomic x 8#4 a b)
  | 0x229 => checked (d == 0#7) (.redAtomic x 9#4 a b)
  | 0x22a => checked (d == 0#7) (.redAtomic x 10#4 a b)
  | _ => .noOpcode

/-- The speculation, synchronisation and MMA (R444 to R468, R470). -/
def decodeSync (op : Nat) (x : Bool) (d a b : RegIx) (lit : Word) : RawDecode :=
  match op with
  | 0x240 => checked (a == 0#7 && b == 0#7) (.tryLane x d lit)
  | 0x241 => checked (a == 0#7 && b == 0#7) (.tryGroup x d lit)
  | 0x242 => checked (d == 0#7 && a == 0#7 && b == 0#7) (.commit x)
  | 0x243 => checked (d == 0#7 && a == 0#7 && b.extractLsb' 3 4 == 0#4) (.commitRel x (b.extractLsb' 0 3))
  | 0x244 => checked (d == 0#7 && a == 0#7 && b == 0#7) (.abort x lit)
  | 0x245 => checked (a == 0#7 && b == 0#7) (.tstat x d)
  | 0x250 => checked (d == 0#7 && a == 0#7 && b.extractLsb' 3 4 == 0#4) (.fence x (b.extractLsb' 0 3))
  | 0x251 => checked (d == 0#7 && a == 0#7 && b.extractLsb' 3 4 == 0#4) (.barSync x (b.extractLsb' 0 3))
  | 0x252 => checked (a == 0#7 && b.extractLsb' 3 4 == 0#4) (.barArrive x d (b.extractLsb' 0 3))
  | 0x253 => checked (d == 0#7 && b.extractLsb' 3 4 == 0#4) (.barWait x a (b.extractLsb' 0 3))
  | 0x254 => checked (d == 0#7 && a == 0#7 && b == 0#7) (.barInit x lit)
  | 0x260 => checked (d == 0#7 && a == 0#7 && b.extractLsb' 3 4 == 0#4) (.cvset x (b.extractLsb' 0 3))
  | 0x261 => checked (d == 0#7 && b.extractLsb' 3 4 == 0#4) (.cvsetMask x a (b.extractLsb' 0 3))
  | 0x262 => checked (d == 0#7 && a == 0#7 && b.extractLsb' 3 4 == 0#4) (.cvwait x (b.extractLsb' 0 3))
  | 0x263 => checked (a == 0#7 && b.extractLsb' 3 4 == 0#4) (.cvrd x d (b.extractLsb' 0 3))
  | 0x264 => checked (d == 0#7 && b.extractLsb' 2 5 == 0#5) (.pipePut x a (b.extractLsb' 0 2))
  | 0x265 => checked (a == 0#7 && b.extractLsb' 2 5 == 0#5) (.pipeGet x d (b.extractLsb' 0 2))
  | 0x270 => checked (d.extractLsb' 3 4 == 0#4) (.qsig x (d.extractLsb' 0 3) a b)
  | 0x271 => .instr (.qwait x d a b)
  | 0x280 => .instr (.mma x d a b lit)
  | 0x281 => .instr (.mmaSp x d a b lit)
  | _ => .noOpcode

/-- The tile, ray, build, launch and control instructions (R383, R470). -/
def decodeEng (op : Nat) (x : Bool) (d a b : RegIx) (lit : Word) : RawDecode :=
  match op with
  | 0x2c0 => checked (a == 0#7 && b.extractLsb' 4 3 == 0#3) (.mrsv x d (b.extractLsb' 0 4))
  | 0x2c1 => checked (d == 0#7 && a == 0#7 && b.extractLsb' 4 3 == 0#3) (.mrel x (b.extractLsb' 0 4))
  | 0x2c2 => checked (a == 0#7) (.mrdF32 x d (b.extractLsb' 4 3) (b.extractLsb' 0 4))
  | 0x2c3 => checked (a == 0#7) (.mrdS32 x d (b.extractLsb' 4 3) (b.extractLsb' 0 4))
  | 0x2c4 => checked (d == 0#7) (.mwr x a (b.extractLsb' 4 3) (b.extractLsb' 0 4))
  | 0x2c5 => checked (d == 0#7 && a == 0#7 && b.extractLsb' 4 3 == 0#3) (.mzero x (b.extractLsb' 0 4))
  | 0x300 => .instr (.trace x d a b lit)
  | 0x301 => .instr (.traceEmit x d a b lit)
  | 0x310 => checked (b.extractLsb' 1 6 == 0#6) (.asbuild x d a (b.extractLsb' 0 1))
  | 0x311 => checked (b.extractLsb' 1 6 == 0#6) (.asbuildUpdate x d a (b.extractLsb' 0 1))
  | 0x312 => checked (b.extractLsb' 1 6 == 0#6) (.asrefit x d a (b.extractLsb' 0 1))
  | 0x313 => checked (b.extractLsb' 1 6 == 0#6) (.asretire x d a (b.extractLsb' 0 1))
  | 0x320 => checked (b == 0#7) (.launch x d a)
  | 0x321 => checked (d == 0#7) (.emit x a b)
  | 0x380 => checked (d == 0#7 && a == 0#7 && b == 0#7) (.bra x lit)
  | 0x381 => checked (d == 0#7 && a == 0#7 && b == 0#7) (.exit x)
  | 0x382 => checked (d == 0#7 && b == 0#7) (.brz x a lit)
  | 0x383 => checked (d == 0#7 && b == 0#7) (.brnz x a lit)
  | 0x384 => checked (a == 0#7 && b == 0#7) (.call x d lit)
  | 0x385 => checked (d == 0#7 && b == 0#7) (.ret x a)
  | 0x386 => checked (b == 0#7) (.callr x d a)
  | _ => .noOpcode

/-- The YIELD and system instructions (R383, R388, R470). -/
def decodeSys (op : Nat) (x : Bool) (d a b : RegIx) (lit : Word) : RawDecode :=
  match op with
  | 0x3a0 => checked (d == 0#7 && a == 0#7 && b == 0#7) (.yield x)
  | 0x3c0 => checked (a == 0#7) (.rdsys x d (b.extractLsb' 0 7))
  | 0x3c1 => checked (d == 0#7 && a == 0#7) (.trap x (b.extractLsb' 0 7))
  | 0x3c2 => checked (d == 0#7 && a == 0#7 && b == 0#7) (.bkpt x)
  | 0x3d0 => checked (d == 0#7 && a == 0#7 && b == 0#7) (.nopFill x)
  | 0x3e0 => checked (b == 0#7) (.rett x d a)
  | 0x3e1 => checked (b == 0#7) (.grd x d a)
  | 0x3e2 => checked (b == 0#7) (.gwr x d a)
  | 0x3e3 => checked (a == 0#7 && b == 0#7) (.evwait x d)
  | _ => .noOpcode

/-- The fields of a word, by the blocks of the opcode map (R345). -/
def rawDecode (w lit : Word) : RawDecode :=
  let op := (wordOp w).toNat
  let x := wordStop w
  let d := wordD w
  let a := wordA w
  let b := wordB w
  if op < 0x040 then decodeInt op x d a b lit
  else if op < 0x080 then decodeCmp op x d a b lit
  else if op < 0x0c0 then decodeFp op x d a b lit
  else if op < 0x180 then decodeCvt op x d a b lit
  else if op < 0x200 then decodeMem op x d a b lit
  else if op < 0x240 then decodeAtom op x d a b lit
  else if op < 0x2c0 then decodeSync op x d a b lit
  else if op < 0x3a0 then decodeEng op x d a b lit
  else if op < 0x400 then decodeSys op x d a b lit
  else .noOpcode

/-- Decode one instruction word and the word that follows it, which only a literal form uses. -/
def decode (w lit : Word) : Decoded :=
  match rawDecode w lit with
  | .noOpcode => .illegalOpcode
  | .badField => .illegalEncoding
  | .instr i => if encodingLegal i then .ok i else .illegalEncoding

/-- The opcodes that some instruction description lists (R345). -/
def opAllocated (op : Nat) : Bool :=
  (0x000 ≤ op && op ≤ 0x032) ||
  (0x040 ≤ op && op ≤ 0x045) ||
  (0x048 ≤ op && op ≤ 0x04d) ||
  (0x050 ≤ op && op ≤ 0x055) ||
  (0x058 ≤ op && op ≤ 0x05c) ||
  (0x060 ≤ op && op ≤ 0x06b) ||
  (0x070 ≤ op && op ≤ 0x075) ||
  (0x080 ≤ op && op ≤ 0x09d) ||
  (0x0a0 ≤ op && op ≤ 0x0a2) ||
  (0x0a4 ≤ op && op ≤ 0x0a7) ||
  (0x0c0 ≤ op && op ≤ 0x0cf) ||
  (0x0e0 ≤ op && op ≤ 0x0e6) ||
  op == 0x100 ||
  (0x140 ≤ op && op ≤ 0x145) ||
  op == 0x148 ||
  (0x150 ≤ op && op ≤ 0x155) ||
  op == 0x158 ||
  (0x160 ≤ op && op ≤ 0x161) ||
  (0x180 ≤ op && op ≤ 0x188) ||
  (0x190 ≤ op && op ≤ 0x19b) ||
  (0x1a0 ≤ op && op ≤ 0x1a4) ||
  (0x1a6 ≤ op && op ≤ 0x1a7) ||
  (0x1b0 ≤ op && op ≤ 0x1b4) ||
  (0x1c0 ≤ op && op ≤ 0x1c1) ||
  (0x200 ≤ op && op ≤ 0x20a) ||
  (0x210 ≤ op && op ≤ 0x219) ||
  (0x220 ≤ op && op ≤ 0x22a) ||
  (0x240 ≤ op && op ≤ 0x245) ||
  (0x250 ≤ op && op ≤ 0x254) ||
  (0x260 ≤ op && op ≤ 0x265) ||
  (0x270 ≤ op && op ≤ 0x271) ||
  (0x280 ≤ op && op ≤ 0x281) ||
  (0x2c0 ≤ op && op ≤ 0x2c5) ||
  (0x300 ≤ op && op ≤ 0x301) ||
  (0x310 ≤ op && op ≤ 0x313) ||
  (0x320 ≤ op && op ≤ 0x321) ||
  (0x380 ≤ op && op ≤ 0x386) ||
  op == 0x3a0 ||
  (0x3c0 ≤ op && op ≤ 0x3c2) ||
  op == 0x3d0 ||
  (0x3e0 ≤ op && op ≤ 0x3e3)

/-- The opcodes with a literal word (R341, R343). -/
def opHasLiteral (op : Nat) : Bool :=
  op == 0x001 ||
  op == 0x003 ||
  op == 0x006 ||
  op == 0x009 ||
  op == 0x016 ||
  op == 0x018 ||
  op == 0x01a ||
  (0x023 ≤ op && op ≤ 0x025) ||
  op == 0x02a ||
  (0x02c ≤ op && op ≤ 0x02d) ||
  (0x050 ≤ op && op ≤ 0x055) ||
  (0x09c ≤ op && op ≤ 0x09d) ||
  op == 0x100 ||
  (0x140 ≤ op && op ≤ 0x145) ||
  op == 0x148 ||
  (0x150 ≤ op && op ≤ 0x155) ||
  op == 0x158 ||
  op == 0x181 ||
  op == 0x183 ||
  op == 0x185 ||
  op == 0x191 ||
  op == 0x193 ||
  op == 0x195 ||
  op == 0x197 ||
  op == 0x199 ||
  op == 0x1a1 ||
  op == 0x1a3 ||
  (0x1b3 ≤ op && op ≤ 0x1b4) ||
  (0x240 ≤ op && op ≤ 0x241) ||
  op == 0x244 ||
  op == 0x254 ||
  (0x280 ≤ op && op ≤ 0x281) ||
  (0x300 ≤ op && op ≤ 0x301) ||
  op == 0x380 ||
  (0x382 ≤ op && op ≤ 0x384)

/-- The class of an allocated opcode, by its block (R345). -/
def opClass (op : Nat) : Nat :=
  if op < 0x180 then 0
  else if op < 0x1b0 then 1
  else if op < 0x1c0 then 3
  else if op < 0x240 then 1
  else if op < 0x280 then 5
  else if op < 0x300 then 2
  else if op < 0x380 then 3
  else if op < 0x3c0 then 4
  else 6

/-- The opcodes that transfer control and so end their clause (R339). -/
def opEndsClause (op : Nat) : Bool := (0x380 ≤ op && op < 0x3a0) || op == 0x3e0

/-- The words of an instruction: one, or two with its literal; a step of the part has none. -/
def encode : Instr → List Word
  | .movB32 x d a => [mkWord x 0x000#10 d a 0#7]
  | .movB32Lit x d lit => [mkWord x 0x001#10 d 0#7 0#7, lit]
  | .movB64 x d a => [mkWord x 0x002#10 d a 0#7]
  | .movS64Lit x d lit => [mkWord x 0x003#10 d 0#7 0#7, lit]
  | .iaddS32 x d a b => [mkWord x 0x004#10 d a b]
  | .iaddS32Imm x d a i => [mkWord x 0x005#10 d a (i)]
  | .iaddS32Lit x d a lit => [mkWord x 0x006#10 d a 0#7, lit]
  | .isubS32 x d a b => [mkWord x 0x007#10 d a b]
  | .imulS32 x d a b => [mkWord x 0x008#10 d a b]
  | .imulS32Lit x d a lit => [mkWord x 0x009#10 d a 0#7, lit]
  | .imulhiS32 x d a b => [mkWord x 0x00a#10 d a b]
  | .imulhiN32 x d a b => [mkWord x 0x00b#10 d a b]
  | .imadS32 x d a b => [mkWord x 0x00c#10 d a b]
  | .iaddS32Sat x d a b => [mkWord x 0x00d#10 d a b]
  | .isubS32Sat x d a b => [mkWord x 0x00e#10 d a b]
  | .inegS32 x d a => [mkWord x 0x00f#10 d a 0#7]
  | .iminS32 x d a b => [mkWord x 0x010#10 d a b]
  | .iminN32 x d a b => [mkWord x 0x011#10 d a b]
  | .imaxS32 x d a b => [mkWord x 0x012#10 d a b]
  | .imaxN32 x d a b => [mkWord x 0x013#10 d a b]
  | .iabsS32 x d a => [mkWord x 0x014#10 d a 0#7]
  | .andB32 x d a b => [mkWord x 0x015#10 d a b]
  | .andB32Lit x d a lit => [mkWord x 0x016#10 d a 0#7, lit]
  | .orB32 x d a b => [mkWord x 0x017#10 d a b]
  | .orB32Lit x d a lit => [mkWord x 0x018#10 d a 0#7, lit]
  | .xorB32 x d a b => [mkWord x 0x019#10 d a b]
  | .xorB32Lit x d a lit => [mkWord x 0x01a#10 d a 0#7, lit]
  | .andnB32 x d a b => [mkWord x 0x01b#10 d a b]
  | .notB32 x d a => [mkWord x 0x01c#10 d a 0#7]
  | .shlB32 x d a b => [mkWord x 0x01d#10 d a b]
  | .shlB32Imm x d a i => [mkWord x 0x01e#10 d a (i)]
  | .shrN32 x d a b => [mkWord x 0x01f#10 d a b]
  | .shrN32Imm x d a i => [mkWord x 0x020#10 d a (i)]
  | .shrS32 x d a b => [mkWord x 0x021#10 d a b]
  | .shrS32Imm x d a i => [mkWord x 0x022#10 d a (i)]
  | .bfxN32 x d a lit => [mkWord x 0x023#10 d a 0#7, lit]
  | .bfxS32 x d a lit => [mkWord x 0x024#10 d a 0#7, lit]
  | .bfiB32 x d a lit => [mkWord x 0x025#10 d a 0#7, lit]
  | .popcB32 x d a => [mkWord x 0x026#10 d a 0#7]
  | .clzB32 x d a => [mkWord x 0x027#10 d a 0#7]
  | .brevB32 x d a => [mkWord x 0x028#10 d a 0#7]
  | .iaddS64 x d a b => [mkWord x 0x029#10 d a b]
  | .iaddS64Lit x d a lit => [mkWord x 0x02a#10 d a 0#7, lit]
  | .isubS64 x d a b => [mkWord x 0x02b#10 d a b]
  | .leaS32 x d a b lit => [mkWord x 0x02c#10 d a b, lit]
  | .leaN32 x d a b lit => [mkWord x 0x02d#10 d a b, lit]
  | .shlB64 x d a i => [mkWord x 0x02e#10 d a (i)]
  | .shrN64 x d a i => [mkWord x 0x02f#10 d a (i)]
  | .shrS64 x d a i => [mkWord x 0x030#10 d a (i)]
  | .imulwS32 x d a b => [mkWord x 0x031#10 d a b]
  | .imulwN32 x d a b => [mkWord x 0x032#10 d a b]
  | .icmpS32 x c d a b => [mkWord x (0x040#10 + c.setWidth 10) d a b]
  | .icmpN32 x c d a b => [mkWord x (0x048#10 + c.setWidth 10) d a b]
  | .icmpS32Lit x c d a lit => [mkWord x (0x050#10 + c.setWidth 10) d a 0#7, lit]
  | .selB32 x d a b => [mkWord x 0x058#10 d a b]
  | .selB64 x d a b => [mkWord x 0x059#10 d a b]
  | .icmpEqB64 x d a b => [mkWord x 0x05a#10 d a b]
  | .icmpLtS64 x d a b => [mkWord x 0x05b#10 d a b]
  | .icmpLtN64 x d a b => [mkWord x 0x05c#10 d a b]
  | .voteBallot x d a => [mkWord x 0x060#10 d a 0#7]
  | .voteAny x d a => [mkWord x 0x061#10 d a 0#7]
  | .voteAll x d a => [mkWord x 0x062#10 d a 0#7]
  | .shflIdx x d a b => [mkWord x 0x063#10 d a b]
  | .shflUp x d a b => [mkWord x 0x064#10 d a b]
  | .shflDown x d a b => [mkWord x 0x065#10 d a b]
  | .shflXor x d a b => [mkWord x 0x066#10 d a b]
  | .shflDownImm x d a i => [mkWord x 0x067#10 d a (0#2 ++ i)]
  | .shflXorImm x d a i => [mkWord x 0x068#10 d a (0#2 ++ i)]
  | .matchB32 x d a => [mkWord x 0x069#10 d a 0#7]
  | .gred x d a o => [mkWord x 0x06a#10 d a (0#4 ++ o)]
  | .reorder x d a => [mkWord x 0x06b#10 d a 0#7]
  | .reggrow x d n => [mkWord x 0x070#10 d 0#7 (0#2 ++ n)]
  | .regshrink x d n => [mkWord x 0x071#10 d 0#7 (0#2 ++ n)]
  | .movxRd x d a => [mkWord x 0x072#10 d a 0#7]
  | .movxWr x d a => [mkWord x 0x073#10 d a 0#7]
  | .movxRdB64 x d a => [mkWord x 0x074#10 d a 0#7]
  | .movxWrB64 x d a => [mkWord x 0x075#10 d a 0#7]
  | .faddF32 x r d a b => [mkWord x (0x080#10 + r.setWidth 10) d a b]
  | .fsubF32 x r d a b => [mkWord x (0x084#10 + r.setWidth 10) d a b]
  | .fmulF32 x r d a b => [mkWord x (0x088#10 + r.setWidth 10) d a b]
  | .ffmaF32 x r d a b => [mkWord x (0x08c#10 + r.setWidth 10) d a b]
  | .fminF32 x d a b => [mkWord x 0x090#10 d a b]
  | .fmaxF32 x d a b => [mkWord x 0x091#10 d a b]
  | .fnegF32 x d a => [mkWord x 0x092#10 d a 0#7]
  | .fabsF32 x d a => [mkWord x 0x093#10 d a 0#7]
  | .fcmpF32 x c d a b => [mkWord x (0x090#10 + c.setWidth 10) d a b]
  | .fcmpUnordF32 x d a b => [mkWord x 0x09a#10 d a b]
  | .fclassF32 x d a => [mkWord x 0x09b#10 d a 0#7]
  | .faddF32Lit x d a lit => [mkWord x 0x09c#10 d a 0#7, lit]
  | .fmulF32Lit x d a lit => [mkWord x 0x09d#10 d a 0#7, lit]
  | .fgredAddF32 x d a => [mkWord x 0x0a0#10 d a 0#7]
  | .fgredMinF32 x d a => [mkWord x 0x0a1#10 d a 0#7]
  | .fgredMaxF32 x d a => [mkWord x 0x0a2#10 d a 0#7]
  | .frintF32 x r d a => [mkWord x (0x0a4#10 + r.setWidth 10) d a 0#7]
  | .hadd x f d a b => [mkWord x (0x0c0#10 + (f.setWidth 10 <<< 3)) d a b]
  | .hsub x f d a b => [mkWord x (0x0c1#10 + (f.setWidth 10 <<< 3)) d a b]
  | .hmul x f d a b => [mkWord x (0x0c2#10 + (f.setWidth 10 <<< 3)) d a b]
  | .hfma x f d a b => [mkWord x (0x0c3#10 + (f.setWidth 10 <<< 3)) d a b]
  | .hmin x f d a b => [mkWord x (0x0c4#10 + (f.setWidth 10 <<< 3)) d a b]
  | .hmax x f d a b => [mkWord x (0x0c5#10 + (f.setWidth 10 <<< 3)) d a b]
  | .hneg x f d a => [mkWord x (0x0c6#10 + (f.setWidth 10 <<< 3)) d a 0#7]
  | .habs x f d a => [mkWord x (0x0c7#10 + (f.setWidth 10 <<< 3)) d a 0#7]
  | .rcpF32 x d a r => [mkWord x 0x0e0#10 d a (0#5 ++ r)]
  | .sqrtF32 x d a r => [mkWord x 0x0e1#10 d a (0#5 ++ r)]
  | .rsqF32 x d a r => [mkWord x 0x0e2#10 d a (0#5 ++ r)]
  | .exp2F32 x d a r => [mkWord x 0x0e3#10 d a (0#5 ++ r)]
  | .log2F32 x d a r => [mkWord x 0x0e4#10 d a (0#5 ++ r)]
  | .sinF32 x d a r => [mkWord x 0x0e5#10 d a (0#5 ++ r)]
  | .cosF32 x d a r => [mkWord x 0x0e6#10 d a (0#5 ++ r)]
  | .cvt x d a lit => [mkWord x 0x100#10 d a 0#7, lit]
  | .packMx x f d a lit => [mkWord x (0x140#10 + f.setWidth 10) d a 0#7, lit]
  | .unpackMx x f d a lit => [mkWord x (0x150#10 + f.setWidth 10) d a 0#7, lit]
  | .packAq4 x d a b lit => [mkWord x 0x148#10 d a b, lit]
  | .unpackAq4 x d a b lit => [mkWord x 0x158#10 d a b, lit]
  | .tag x d a k => [mkWord x 0x160#10 d a (0#3 ++ k)]
  | .rdtag x d a => [mkWord x 0x161#10 d a 0#7]
  | .ld x d a z => [mkWord x 0x180#10 d a (0#4 ++ z)]
  | .ldLit x d a p m z lit => [mkWord x 0x181#10 d a (p ++ m ++ z), lit]
  | .ldSpec x d a z => [mkWord x 0x182#10 d a (0#4 ++ z)]
  | .ldSpecLit x d a p m z lit => [mkWord x 0x183#10 d a (p ++ m ++ z), lit]
  | .st x d a z => [mkWord x 0x184#10 d a (0#4 ++ z)]
  | .stLit x d a p m z lit => [mkWord x 0x185#10 d a (p ++ m ++ z), lit]
  | .ldFmt x d a k z => [mkWord x 0x186#10 d a (k ++ z)]
  | .ldAcq x d a c z => [mkWord x 0x187#10 d a (c ++ z)]
  | .stRel x d a c z => [mkWord x 0x188#10 d a (c ++ z)]
  | .lds x d a z => [mkWord x 0x190#10 d a (0#4 ++ z)]
  | .ldsLit x d a p m z lit => [mkWord x 0x191#10 d a (p ++ m ++ z), lit]
  | .ldsWait x d a z => [mkWord x 0x192#10 d a (0#4 ++ z)]
  | .ldsWaitLit x d a p m z lit => [mkWord x 0x193#10 d a (p ++ m ++ z), lit]
  | .ldsWaitClr x d a z => [mkWord x 0x194#10 d a (0#4 ++ z)]
  | .ldsWaitClrLit x d a p m z lit => [mkWord x 0x195#10 d a (p ++ m ++ z), lit]
  | .sts x d a z => [mkWord x 0x196#10 d a (0#4 ++ z)]
  | .stsLit x d a p m z lit => [mkWord x 0x197#10 d a (p ++ m ++ z), lit]
  | .stsSet x d a z => [mkWord x 0x198#10 d a (0#4 ++ z)]
  | .stsSetLit x d a p m z lit => [mkWord x 0x199#10 d a (p ++ m ++ z), lit]
  | .ldsFmt x d a k z => [mkWord x 0x19a#10 d a (k ++ z)]
  | .ldsWaitFmt x d a k z => [mkWord x 0x19b#10 d a (k ++ z)]
  | .prefetch x a => [mkWord x 0x1a0#10 0#7 a 0#7]
  | .prefetchLit x a p m lit => [mkWord x 0x1a1#10 0#7 a (p ++ m ++ 0#3), lit]
  | .prefetchW x a => [mkWord x 0x1a2#10 0#7 a 0#7]
  | .prefetchWLit x a p m lit => [mkWord x 0x1a3#10 0#7 a (p ++ m ++ 0#3), lit]
  | .evict x a => [mkWord x 0x1a4#10 0#7 a 0#7]
  | .tlbinvVa x a => [mkWord x 0x1a6#10 0#7 a 0#7]
  | .tlbinvAll x => [mkWord x 0x1a7#10 0#7 0#7 0#7]
  | .copyG2s x d a b => [mkWord x 0x1b0#10 d a b]
  | .copyS2g x d a b => [mkWord x 0x1b1#10 d a b]
  | .copyG2g x d a b => [mkWord x 0x1b2#10 d a b]
  | .gather x d a b lit => [mkWord x 0x1b3#10 d a b, lit]
  | .scatter x d a b lit => [mkWord x 0x1b4#10 d a b, lit]
  | .modset x n a b => [mkWord x 0x1c0#10 (0#4 ++ n) a b]
  | .modrd x d n => [mkWord x 0x1c1#10 d 0#7 (0#4 ++ n)]
  | .atom32 x o d a b => [mkWord x (0x200#10 + o.setWidth 10) d a b]
  | .atomCasB32 x d a b => [mkWord x 0x209#10 d a b]
  | .atom64 x o d a b => [mkWord x (0x210#10 + o.setWidth 10) d a b]
  | .atomCasB64 x d a b => [mkWord x 0x219#10 d a b]
  | .redAddS32 x a b => [mkWord x 0x220#10 0#7 a b]
  | .redAddS64 x a b => [mkWord x 0x221#10 0#7 a b]
  | .redAddF32 x a b => [mkWord x 0x222#10 0#7 a b]
  | .redAddBf16x2 x a b => [mkWord x 0x223#10 0#7 a b]
  | .redAtomic x o a b => [mkWord x (0x220#10 + o.setWidth 10) 0#7 a b]
  | .tryLane x d lit => [mkWord x 0x240#10 d 0#7 0#7, lit]
  | .tryGroup x d lit => [mkWord x 0x241#10 d 0#7 0#7, lit]
  | .commit x => [mkWord x 0x242#10 0#7 0#7 0#7]
  | .commitRel x c => [mkWord x 0x243#10 0#7 0#7 (0#4 ++ c)]
  | .abort x lit => [mkWord x 0x244#10 0#7 0#7 0#7, lit]
  | .tstat x d => [mkWord x 0x245#10 d 0#7 0#7]
  | .fence x c => [mkWord x 0x250#10 0#7 0#7 (0#4 ++ c)]
  | .barSync x n => [mkWord x 0x251#10 0#7 0#7 (0#4 ++ n)]
  | .barArrive x d n => [mkWord x 0x252#10 d 0#7 (0#4 ++ n)]
  | .barWait x a n => [mkWord x 0x253#10 0#7 a (0#4 ++ n)]
  | .barInit x lit => [mkWord x 0x254#10 0#7 0#7 0#7, lit]
  | .cvset x n => [mkWord x 0x260#10 0#7 0#7 (0#4 ++ n)]
  | .cvsetMask x a n => [mkWord x 0x261#10 0#7 a (0#4 ++ n)]
  | .cvwait x n => [mkWord x 0x262#10 0#7 0#7 (0#4 ++ n)]
  | .cvrd x d n => [mkWord x 0x263#10 d 0#7 (0#4 ++ n)]
  | .pipePut x a n => [mkWord x 0x264#10 0#7 a (0#5 ++ n)]
  | .pipeGet x d n => [mkWord x 0x265#10 d 0#7 (0#5 ++ n)]
  | .qsig x c a b => [mkWord x 0x270#10 (0#4 ++ c) a b]
  | .qwait x d a b => [mkWord x 0x271#10 d a b]
  | .mma x d a b lit => [mkWord x 0x280#10 d a b, lit]
  | .mmaSp x d a b lit => [mkWord x 0x281#10 d a b, lit]
  | .mrsv x d n => [mkWord x 0x2c0#10 d 0#7 (0#3 ++ n)]
  | .mrel x n => [mkWord x 0x2c1#10 0#7 0#7 (0#3 ++ n)]
  | .mrdF32 x d c n => [mkWord x 0x2c2#10 d 0#7 (c ++ n)]
  | .mrdS32 x d c n => [mkWord x 0x2c3#10 d 0#7 (c ++ n)]
  | .mwr x a c n => [mkWord x 0x2c4#10 0#7 a (c ++ n)]
  | .mzero x n => [mkWord x 0x2c5#10 0#7 0#7 (0#3 ++ n)]
  | .trace x d a b lit => [mkWord x 0x300#10 d a b, lit]
  | .traceEmit x d a b lit => [mkWord x 0x301#10 d a b, lit]
  | .asbuild x d a n => [mkWord x 0x310#10 d a (0#6 ++ n)]
  | .asbuildUpdate x d a n => [mkWord x 0x311#10 d a (0#6 ++ n)]
  | .asrefit x d a n => [mkWord x 0x312#10 d a (0#6 ++ n)]
  | .asretire x d a n => [mkWord x 0x313#10 d a (0#6 ++ n)]
  | .launch x d a => [mkWord x 0x320#10 d a 0#7]
  | .emit x a b => [mkWord x 0x321#10 0#7 a b]
  | .bra x lit => [mkWord x 0x380#10 0#7 0#7 0#7, lit]
  | .exit x => [mkWord x 0x381#10 0#7 0#7 0#7]
  | .brz x a lit => [mkWord x 0x382#10 0#7 a 0#7, lit]
  | .brnz x a lit => [mkWord x 0x383#10 0#7 a 0#7, lit]
  | .call x d lit => [mkWord x 0x384#10 d 0#7 0#7, lit]
  | .ret x a => [mkWord x 0x385#10 0#7 a 0#7]
  | .callr x d a => [mkWord x 0x386#10 d a 0#7]
  | .yield x => [mkWord x 0x3a0#10 0#7 0#7 0#7]
  | .rdsys x d i => [mkWord x 0x3c0#10 d 0#7 (i)]
  | .trap x i => [mkWord x 0x3c1#10 0#7 0#7 (i)]
  | .bkpt x => [mkWord x 0x3c2#10 0#7 0#7 0#7]
  | .nopFill x => [mkWord x 0x3d0#10 0#7 0#7 0#7]
  | .rett x d a => [mkWord x 0x3e0#10 d a 0#7]
  | .grd x d a => [mkWord x 0x3e1#10 d a 0#7]
  | .gwr x d a => [mkWord x 0x3e2#10 d a 0#7]
  | .evwait x d => [mkWord x 0x3e3#10 d 0#7 0#7]
  | .unallocatedOpcode w => [w]
  | _ => []

/-- Words of an instruction in its clause: 1, or 2 with a literal. -/
def wordCount (w : Word) : Nat := if opHasLiteral (wordOp w).toNat then 2 else 1

/-- The decoder on a table word: bit 0 is the least significant bit of the first word and the literal, when the row has one, is zero.
An opcode that nothing lists decodes to the instruction that raises ILLEGAL_OPCODE (R345). -/
def decodeTableWord (nbits w : Nat) : Option Instr :=
  match decode (BitVec.ofNat 32 (w % 2 ^ nbits)) (BitVec.ofNat 32 (w % 2 ^ nbits / 2 ^ 32)) with
  | .ok i => some i
  | .illegalOpcode => some (.unallocatedOpcode (BitVec.ofNat 32 (w % 2 ^ nbits)))
  | .illegalEncoding => none

end Sys2Proof
end

