-- ==== Sys2Proof/Machine/Map.lean ====
section
/-! DEFINITION.  Sparse tables: lists of (key, value) pairs with strictly rising keys, and memory as such a list of bytes.
An unlisted address of memory reads 0 (a choice of the model, log entry 2) and no entry of memory holds 0, so equal memories are equal lists. -/

namespace Sys2Proof.Machine

/-- The value a sparse table holds at a key, or `none`. -/
def find? {α : Type} : List (Nat × α) → Nat → Option α
  | [], _ => none
  | (j, v) :: r, k => if j == k then some v else find? r k

/-- The value at a key, or the default. -/
def look {α : Type} (d : α) (m : List (Nat × α)) (k : Nat) : α := (find? m k).getD d

/-- Set a key, keeping the keys in strictly rising order. -/
def place {α : Type} : List (Nat × α) → Nat → α → List (Nat × α)
  | [], k, v => [(k, v)]
  | (j, w) :: r, k, v =>
    if k < j then (k, v) :: (j, w) :: r
    else if k == j then (k, v) :: r
    else (j, w) :: place r k v

/-- Remove every entry of a key. -/
def erase {α : Type} : List (Nat × α) → Nat → List (Nat × α)
  | [], _ => []
  | (j, w) :: r, k => if j == k then erase r k else (j, w) :: erase r k

/-- Set a key of a table whose unlisted keys hold `d`: setting `d` removes the entry. -/
def store {α : Type} [DecidableEq α] (d : α) (m : List (Nat × α)) (k : Nat) (v : α) : List (Nat × α) :=
  if v = d then erase m k else place m k v

/-- The keys of a table rise strictly. -/
def rising {α : Type} : List (Nat × α) → Bool
  | [] => true
  | [_] => true
  | (j, _) :: (k, v) :: r => j < k && rising ((k, v) :: r)

/-- Memory: bytes by physical address. -/
abbrev Memory := List Host.Cell

/-- The canonical form of memory: addresses strictly rising and no entry equal to what an unlisted address reads as. -/
def Memory.wf (m : Memory) : Bool := rising m && m.all fun c => !(c.2 == 0#8)

/-- What memory holds at an address; an address nothing has written reads 0. -/
def readByte (m : Memory) (a : Nat) : Byte := look 0#8 m a

/-- Write one byte, keeping the canonical form. -/
def writeByte (m : Memory) (a : Nat) (b : Byte) : Memory := store 0#8 m a b

/-- `n` bytes from address `a`, lowest first. -/
def readBytes (m : Memory) (a : Nat) : Nat → List Byte
  | 0 => []
  | n + 1 => readByte m a :: readBytes m (a + 1) n

/-- Write bytes from address `a` upwards. -/
def writeBytes (m : Memory) (a : Nat) : List Byte → Memory
  | [] => m
  | b :: r => writeBytes (writeByte m a b) (a + 1) r

/-- Write zero to the `n` bytes from `a`. -/
def blank (m : Memory) (a n : Nat) : Memory := m.filter fun c => c.1 < a || a + n ≤ c.1

/-- The little-endian number of a list of bytes (R7). -/
def leNat : List Byte → Nat
  | [] => 0
  | b :: r => b.toNat + 256 * leNat r

/-- The `n` little-endian bytes of a number (R7). -/
def leBytes : Nat → Nat → List Byte
  | 0, _ => []
  | n + 1, v => BitVec.ofNat 8 v :: leBytes n (v / 256)

/-- The number that `n` bytes of memory at `a` hold, little-endian. -/
def readNat (m : Memory) (a n : Nat) : Nat := leNat (readBytes m a n)

/-- Write a number to `n` bytes of memory at `a`, little-endian. -/
def writeNat (m : Memory) (a n v : Nat) : Memory := writeBytes m a (leBytes n v)

/-- The element of a list at an index, or the default. -/
def nth {α : Type} (d : α) (l : List α) (i : Nat) : α := (l[i]?).getD d

/-- Replace the element of a list at an index. -/
def setNth {α : Type} (l : List α) (i : Nat) (v : α) : List α := l.set i v

/-- Change the element of a list at an index. -/
def modNth {α : Type} : List α → Nat → (α → α) → List α
  | [], _, _ => []
  | x :: r, 0, f => f x :: r
  | x :: r, i + 1, f => x :: modNth r i f

/-- Insert into a list that `le` keeps ordered, after every element that comes before or equals. -/
def insertBy {α : Type} (le : α → α → Bool) (x : α) : List α → List α
  | [] => [x]
  | y :: r => if le y x then y :: insertBy le x r else x :: y :: r

/-- Sort by repeated insertion; equal elements keep their order. -/
def sortBy {α : Type} (le : α → α → Bool) : List α → List α
  | [] => []
  | x :: r =>
    let s := sortBy le r
    let rec ins : List α → List α
      | [] => [x]
      | y :: t => if le x y then x :: y :: t else y :: ins t
    ins s

/-- A list without later repeats of an element. -/
def dedup {α : Type} [BEq α] : List α → List α
  | [] => []
  | x :: r => x :: (dedup r).filter fun y => !(y == x)

/-- Remove one occurrence. -/
def removeOne {α : Type} [BEq α] (x : α) : List α → List α
  | [] => []
  | y :: r => if y == x then r else y :: removeOne x r

/-- The lanes of a set in ascending order (R96). -/
def lanesOf (e : Lanes) : List Nat := (List.range 32).filter fun t => e.getLsbD t

/-- The lane set of a list of lanes. -/
def laneSet (l : List Nat) : Lanes := l.foldl (fun e t => e ||| (1#32 <<< t)) 0#32

/-- The lane set of one lane. -/
def oneLane (t : Nat) : Lanes := 1#32 <<< t

/-- The lowest lane of a set. -/
def lowestLane (e : Lanes) : Nat := ((lanesOf e).head?).getD 0

end Sys2Proof.Machine
end

