-- ==== Sys2Proof/Machine/State.lean ====
section
/-! DEFINITION.  The state of the module: every piece of state the spec names, as plain data, with the state right after power-on reset.
Sparse tables are lists of (key, value) pairs; a key that is not listed holds the default value of its kind.
Cores are keyed `128 * die + core`, piers `32 * die + pier`, agents as R194 numbers them, lines by physical address divided by 128,
queues and completion queues `4096 * function + index`. -/

namespace Sys2Proof.Machine

/-- The variants of R1. -/
inductive Variant where
  | k960
  | k480
  | k960c
  deriving DecidableEq, Repr

/-- The life-cycle states of R49 and R51. -/
inductive Life where
  | selfTest
  | safe
  | verify
  | operational
  | releasing
  | unowned
  | fatal
  deriving DecidableEq, Repr

/-- One register of one thread: its value and its format tag (R250). -/
structure Reg where
  val : Word
  tag : BitVec 4
  deriving DecidableEq, Repr

/-- Every register starts at zero, tagged RAW (R244). -/
def Reg.zero : Reg := ⟨0#32, 0#4⟩

/-- Kinds of a transient request (R201, R215). -/
inductive ReqKind where
  | read
  | write
  | part
  deriving DecidableEq, Repr

/-- A token message in flight (R192, R193).  `part` carries the accumulator of a returned partial token (R215). -/
structure TokenMsg where
  id : Nat
  line : Nat
  sender : Nat
  toward : Nat
  count : Nat
  keystone : Bool
  data : Bool
  dirty : Bool
  isPart : Bool
  part : List Byte
  deriving DecidableEq, Repr

/-- The units a collector stops (R139). -/
inductive StopUnit where
  | core (cid : Nat)
  | matrix (pier : Nat)
  | copyStream (pier : Nat)
  | gatherStream (pier : Nat)
  | traversal (pier : Nat)
  | builder (die : Nat)
  | swap (die : Nat)
  | compactor (die : Nat)
  deriving DecidableEq, Repr

/-- The operands of a step of the part: what the step is about and what the outside world sends with it.
The docstring of each step's constructor in Syntax.lean names its operands; the docstring of its meaning says where each stands. -/
structure StepArgs where
  n0 : Nat := 0
  n1 : Nat := 0
  n2 : Nat := 0
  n3 : Nat := 0
  flag : Bool := false
  val : Dword := 0#64
  bytes : List Byte := []
  sig : List Byte := []
  kind : ReqKind := .read
  unit : StopUnit := .core 0
  deriving DecidableEq, Repr

/-- A step that is due: the step and its operands. -/
structure Due where
  step : Instr
  args : StepArgs
  deriving DecidableEq, Repr

/-- A step that falls due at a time of the global time counter. -/
structure Timer where
  at_ : Nat
  due : Due
  deriving DecidableEq, Repr

/-- A leaf a translation cache holds (R178), with the lines it was built from (R179). -/
structure TlbEntry where
  asid : Nat
  fn : Nat
  isGlobal : Bool
  base : Nat
  size : Nat
  leaf : Dword
  frame : Nat
  deps : List Nat
  deriving DecidableEq, Repr

/-- A non-leaf or root-table entry of a walk cache (R178): the table it points to, and the level that table serves. -/
structure WalkEntry where
  asid : Nat
  level : Nat
  tag : Nat
  table : Nat
  deps : List Nat
  deriving DecidableEq, Repr

/-- An unfinished instruction of a group (R140): its words, the lanes that issued it, those still to do, its captured operands
(one list of 32 registers per captured slot, R152), the effective address of each lane and its completion flag.  `seq` is its identifier at its
original issue, by which a replay is ordered (R154). -/
structure Op where
  id : Nat
  instr : Instr
  word : Word
  lit : Word
  pc : Dword
  lanes : Lanes
  todo : Lanes
  flag : Nat
  slots : List (List Reg)
  addrs : List Dword
  inTry : Lanes
  faulted : Lanes
  sent : Bool
  isWalked : Bool
  phase : Word
  aux : Nat
  seq : Nat
  deriving DecidableEq, Repr

/-- One byte a region has buffered (R237): a byte of memory or of the core's scratchpad, at its physical place. -/
structure Wr where
  scratch : Bool
  addr : Nat
  byte : Byte
  deriving DecidableEq, Repr

/-- The state of a thread's outermost try region (R441). -/
structure Region where
  depth : Nat
  isGroup : Bool
  handler : Dword
  quad : Nat
  log : List (Nat × Reg)
  loads : List Nat
  loadSpans : List (Nat × Nat)
  writes : List Wr
  instance_ : Nat
  committing : Bool
  rel : Option Nat
  ops : List Nat
  deriving DecidableEq, Repr

/-- What a thread waits for (R440 and the rules of each waiting instruction).  A wait at a barrier keeps when and where it began, for the entry
of a frame (R152, R462). -/
inductive Wait where
  | ready
  | op (id : Nat)
  | barrier (b : Nat) (phase : Word) (id : Nat) (pc : Dword)
  | cv (n : Nat)
  | fence (scope : Nat)
  | commit
  | reorder
  | matrixTable
  | latch
  | stream (gather : Bool) (word lit : Word) (flag : Nat)
  | tileTable (word lit : Word) (flag : Nat)
  deriving DecidableEq, Repr

/-- One thread (R96): its PC, the clause header it executes under (address and word; none when the PC names a header), and its marks. -/
structure Thread where
  pc : Dword
  clause : Option (Dword × Word)
  exited : Bool
  passed : Nat
  yielded : Bool
  wait : Wait
  region : Option Region
  held : Bool
  stepping : Bool
  observed : List Nat
  deriving DecidableEq, Repr

/-- A completion flag (R256) with its engine-error record (R436): the count of attached instructions, and the kind (0 ECC_UNCORRECTABLE,
1 ENGINE_FAULT) and first failing address of an error. -/
structure Flag where
  count : Nat
  error : Option (Nat × Nat)
  deriving DecidableEq, Repr

/-- The rows one thread supplied to an MMA (R258, R475): A registers, scale registers and metadata registers. -/
structure ARows where
  lane : Nat
  regs : List Word
  scales : List Word
  meta_ : List Word
  deriving DecidableEq, Repr

/-- A convergence register (R258) with the signers' word, literal and captured rows.  `flags` has one entry for each signing issue, so it is
empty while no thread has signed; `before` is the core's scratchpad as the first signing found it (R234), and `seqs` gives each signer's lane and the
number of its signing (R226). -/
structure Cv where
  members : Lanes
  signed : Lanes
  word : Word
  lit : Word
  desc : Dword
  fmt : Nat
  rows : List ARows
  flags : List Nat
  pending : Bool
  before : List (Nat × Byte)
  seqs : List (Nat × Nat)
  deriving DecidableEq, Repr

/-- A held operand latch (R259): the format code of A and the captured rows. -/
structure Latch where
  fmt : Nat
  rows : List ARows
  deriving DecidableEq, Repr

/-- An entry of the replay queue that RETT runs (R152, R154): status 1 REPLAY, 2 DONE, 3 DROP; `seq` numbers its original issue. -/
structure Replay where
  pc : Dword
  word : Word
  lit : Word
  lanes : Lanes
  status : Nat
  slots : List (List Reg)
  resultTag : BitVec 4
  flag : Nat
  seq : Nat
  deriving DecidableEq, Repr

/-- Why a group is stopped, and what its frame said when it was written (R150, R151, R161); `tries` gives, for each entry, its lanes that were in
a region (R141), and `seqs` the number of its original issue (R154); `drops` numbers the EMITs that have stalled for good (R155). -/
structure Stop where
  causes : Nat
  code : Nat
  subtype : Nat
  level : Nat
  va : Nat
  lanes : Lanes
  ordinal : Word
  faults : List Nat
  frame : Nat
  entries : List (Lanes × Nat)
  tries : List Lanes
  seqs : List Nat
  drops : List Nat
  halted : Bool
  resolved : Bool
  deriving DecidableEq, Repr

/-- One group resident in a slot of a core (R96, R244). -/
structure Group where
  team : Nat
  index : Nat
  granules : Nat
  regs : List (Nat × Reg)
  flags : List Flag
  unattached : Option (Nat × Nat)
  cv : List Cv
  modulo : List (Nat × Nat)
  latch : Option Latch
  threads : List Thread
  ops : List Op
  active : Bool
  age : Nat
  lastIssue : Nat
  yieldAfter : Bool
  stop : Option Stop
  exitedWhole : Bool
  supervisor : Bool
  replayQ : List Replay
  specIssues : List Lanes
  storesOut : List (Nat × Nat × Nat)
  deriving DecidableEq, Repr

/-- A store waiting in a core's store buffer (R222).  `rel` is the scope of a release, `after` the entries it must follow, and `deps` the table
lines its translation came from (R180).  The slot of a group that is gone is `noSlot`. -/
structure SbEntry where
  id : Nat
  op : Nat
  slot : Nat
  lane : Nat
  addr : Nat
  data : List Byte
  rel : Option Nat
  after : List Nat
  deps : List Nat
  deriving DecidableEq, Repr

/-- One core (R96, R252): its groups by slot, scratchpad, store buffer, event word (R491), L1 TLB and counters (R303).  `cycle` numbers the cycles
in which it issued, `lastPhase` gives the last such cycle counted for each phase (R116), and `second` says to which queue and leaf the second
slot of that cycle is charged while only one group has issued (R301). -/
structure Core where
  groups : List (Nat × Group)
  scratch : List (Nat × Byte)
  full : List Nat
  sb : List SbEntry
  event : Word
  cycle : Nat
  firmwareIssue : Nat
  leaves : List Nat
  cycles : Nat
  shadows : List Nat
  tlb : List TlbEntry
  lastPhase : List (Nat × Nat)
  sampled : List Nat
  second : Option (Nat × Nat × Nat)
  deriving DecidableEq, Repr

/-- A team barrier (R459): expected count, arrived count and phase. -/
structure Barrier where
  expected : Nat
  arrived : Nat
  phase : Word
  deriving DecidableEq, Repr

/-- A placed team (R97) and its resources (R106).  `resv` the tile reservations as (group of the team, tile) (R472). -/
structure Team where
  cid : Nat
  launch : Nat
  kernel : Nat
  gang : Nat
  gangIndex : Nat
  x : Nat
  y : Nat
  z : Nat
  linear : Nat
  groups : Nat
  slots : List Nat
  granules : Nat
  unitBase : Nat
  units : Nat
  tiles : List Nat
  resv : List (Nat × Nat)
  barriers : List Barrier
  code : Dword
  poolKey : Nat
  retired : Bool
  deriving DecidableEq, Repr

/-- A pipe of a placed gang (R103, R465): kernels, the consumer's core, the scratchpad unit of its buffer, and the two counts. -/
structure Pipe where
  producer : Nat
  consumer : Nat
  cid : Nat
  unit : Nat
  puts : Nat
  gets : Nat
  deriving DecidableEq, Repr

/-- A placed gang (R101, R102): the team of each kernel and the pipes bound. -/
structure Gang where
  launch : Nat
  teams : List Nat
  pipes : List Pipe
  deriving DecidableEq, Repr

/-- A bin of a continuation pool (R119, R120): state 0 FREE, 1 FILLING, 2 READY; `since` is when its first record came, or when it became READY. -/
structure Bin where
  state : Nat
  code : Nat
  key : Nat
  records : List (List Byte)
  since : Nat
  deriving DecidableEq, Repr

/-- A pool's part on one die (R119, R121, R123, R124): bins, the counts of its overflow ring, the producers that stall and since when the ring
has had no space for them, and the faults outstanding on ring pages. -/
structure PoolDie where
  bins : List (Nat × Bin)
  ringHead : Nat
  ringTail : Nat
  stalled : List Nat
  fullSince : Option Nat
  faults : List Nat
  deriving DecidableEq, Repr

/-- A continuation pool (R118 to R125). -/
structure Pool where
  ring : Nat
  ringSize : Nat
  limit : Nat
  age : Nat
  dies : List (Nat × PoolDie)
  overflowed : Bool
  lost : Nat
  badByte : Option Nat
  deriving DecidableEq, Repr

/-- One kernel of a gang descriptor (R101); `base` is the object base its entry stamp gives (R361). -/
structure Kernel where
  code : Dword
  base : Nat
  groups : Nat
  granules : Nat
  units : Nat
  tiles : Nat
  deriving DecidableEq, Repr

/-- What a launch makes (R105). -/
inductive LaunchKind where
  | grid
  | gang
  | pool
  deriving DecidableEq, Repr

/-- A launch of a queue command, or a child grid (R98, R100).  `count` is the number of its units and `units` the next unplaced one of each
die's share (R81, R105); `limit` is the watchdog limit in ticks, `used` what is counted and `since` when the counting last began (R162);
`cores` holds the cores it has run on, `teams` the resident ones, `acquire` the footprint of the WAIT_TOKEN before it (R88), and `doomed` the
status and detail of a launch that has ended and completes once the stores of its discarded teams are performed (R155, R231). -/
structure Launch where
  kind : LaunchKind
  parent : Option Nat
  fn : Nat
  q : Nat
  rec_ : Nat
  depth : Nat
  priority : Nat
  asid : Nat
  supervisor : Bool
  arg : Dword
  nx : Nat
  ny : Nat
  nz : Nat
  kernels : List Kernel
  pipeMap : List (Nat × Nat)
  count : Nat
  die : Nat
  limit : Nat
  used : Nat
  since : Option Nat
  units : List (Nat × Nat)
  pool : Option Pool
  cores : List Nat
  teams : List Nat
  acquire : Option Nat
  doomed : Option (Nat × Nat)
  deriving DecidableEq, Repr

/-- An entry of a phase table and what has been counted for it since its last update (R115 to R117): code address, function and identifier,
whether the entry is new, launches, and busy and idle cycles by core. -/
structure Phase where
  code : Nat
  fn : Nat
  asid : Nat
  fresh : Bool
  launches : Nat
  counts : List (Nat × Nat × Nat)
  deriving DecidableEq, Repr

/-- The placement unit of a die (R105, R108, R112 to R116).  `list` holds launches, or, marked true, the contexts being restored (R145);
`waiting` the launches that wait for an entry; `head` is the record that `headPass` counts for; `phases` the entries of the phase table by index,
and `phaseOrder` the indices in the order of their last launch. -/
structure Placer where
  list : List (Nat × Bool)
  waiting : List Nat
  ageLimit : Nat
  backfill : Bool
  head : Option (Nat × Bool)
  headPass : Nat
  state : Nat
  phaseBase : Dword
  phases : List (Nat × Phase)
  phaseOrder : List Nat
  deriving DecidableEq, Repr

/-- A command record between claim and completion (R75, R78): number, agent's core, opcode byte, flags, tag and body; `acquire` is the footprint
under which it started (R88), `footprint` the one a WAIT_TOKEN has read last (R89). -/
structure Rec where
  n : Nat
  cid : Nat
  started : Bool
  opcode : Nat
  flags : Nat
  tag : Nat
  body : List Byte
  acquire : Option Nat
  footprint : Nat
  copyAt : Nat
  faults : List Nat
  launch : Option Nat
  watch : Option Nat
  deriving DecidableEq, Repr

/-- A pre-emption of a queue's context (R143): units still to stop and to acknowledge, and whether the context is then discarded. -/
structure Preempt where
  toStop : List StopUnit
  toAck : List StopUnit
  discard : Bool
  deriving DecidableEq, Repr

/-- A reservation-table entry of a matrix engine (R131, R473, R477); `passes` counts the passes it has had. -/
structure MatEntry where
  id : Nat
  instr : Instr
  cid : Nat
  slot : Nat
  team : Nat
  tile : Nat
  tileName : Nat
  priority : Nat
  lanes : Lanes
  flags : List Nat
  op : Nat
  lit : Word
  desc : Dword
  fmt : Nat
  rows : List ARows
  data : List (Nat × List Word)
  passes : Nat
  before : List (Nat × Byte)
  deriving DecidableEq, Repr

/-- A transfer-engine command (R431 to R436).  `kind`: 0 global to scratchpad, 1 scratchpad to global, 2 global to global, 3 gather,
4 scatter, 5 the COPY of a queue record.  `cursor` counts bytes of a copy and indices of a gather; `before` is the scratchpad at issue (R435). -/
structure XCmd where
  id : Nat
  kind : Nat
  cid : Nat
  slot : Nat
  team : Nat
  lanes : Lanes
  flag : Nat
  src : Nat
  dst : Nat
  list_ : Nat
  len : Nat
  size : Nat
  cursor : Nat
  fn : Nat
  q : Nat
  rec_ : Nat
  asid : Nat
  supervisor : Bool
  faults : List Nat
  word : Word
  lit : Word
  before : List (Nat × Byte)
  deriving DecidableEq, Repr

/-- The best hit of a ray so far (R481): exact distance as a fraction, and the triangle. -/
structure Hit where
  num : Int
  den : Int
  cluster : Nat
  tri : Nat
  front : Bool
  material : Word
  geometry : Word
  deriving DecidableEq, Repr

/-- What a ray still has to do (R286): visit a node, test the triangles of a cluster, or read a fence that guards a node.  `entry` is where
the ray enters the node's box, as a fraction; none for the root, which has no box. -/
inductive RayWork where
  | node (addr : Nat)
  | cluster (index : Nat)
  | fenced (fence node : Nat) (entry : Option (Int × Int))
  deriving DecidableEq, Repr

/-- A ray in a traversal unit (R480, R286, R288).  `accepted` says that it has its generation; `deferred` holds fenced children in deferral
order; `watch` the fence lines a parked ray holds a token of; `result` the hit record of a finished ray whose continuation record has no
room yet (R483, R124); `place` is the physical address of the descriptor of an accepted ray (R289). -/
structure Ray where
  id : Nat
  cid : Nat
  slot : Nat
  lane : Nat
  op : Nat
  emit : Bool
  launch : Nat
  asid : Nat
  fn : Nat
  q : Nat
  supervisor : Bool
  desc : Nat
  target : Nat
  accepted : Bool
  pool : Nat
  fenceBase : Nat
  clusters : Nat
  clusterList : Nat
  generation : Nat
  ray : List Word
  payload : List Word
  work : List RayWork
  deferred : List RayWork
  best : Option Hit
  parked : Bool
  watch : List Nat
  result : Option (List Word)
  faults : List Nat
  place : Nat
  deriving DecidableEq, Repr

/-- One pier (R131, R170, R178, R256 to R262): reservation table, accumulator tiles (word by `4096 * tile + 64 * row + column`),
transfer streams, rays, L2 TLB and walk cache. -/
structure Pier where
  table : List MatEntry
  tiles : List (Nat × Word)
  grants : Nat
  copies : List XCmd
  gathers : List XCmd
  turn : Bool
  rays : List Ray
  tlb : List TlbEntry
  walks : List WalkEntry
  deriving DecidableEq, Repr

/-- One piece of a builder's work (R272, R281, R285): the writes it makes, in order, as address and bytes, the fence the last of them signals,
the die whose builders make it, and the pieces that must be done first.  `rewrite` marks the second writing of a top node, and `begun` a piece of which
some write may have been made. -/
structure Task where
  id : Nat
  writes : List (Nat × List Byte)
  fence : Option Nat
  die : Nat
  needs : List Nat
  rewrite : Bool
  begun : Bool
  deriving DecidableEq, Repr

/-- A builder command in progress (R268 to R285).  `kind`: 0 ASBUILD, 1 ASBUILD.update, 2 ASREFIT, 3 ASRETIRE.  `phase`: 0 before acceptance,
1 before the scan, 2 with its tasks planned, 3 with only the writes of `tasks` left that end it with `status`.  `place` is the physical address of
the descriptor when the command was accepted, and `copy` the descriptor's bytes at that moment (R267). -/
structure Build where
  kind : Nat
  die : Nat
  cid : Nat
  slot : Nat
  op : Nat
  lanes : Lanes
  launch : Nat
  asid : Nat
  fn : Nat
  q : Nat
  supervisor : Bool
  desc : Nat
  target : Nat
  phase : Nat
  generation : Nat
  clusters : Nat
  pool : Nat
  fenceBase : Nat
  fences : Nat
  nodes : Nat
  signalled : List Nat
  tasks : List Task
  status : Nat
  faults : List Nat
  place : Nat
  copy : List Byte
  deriving DecidableEq, Repr

/-- The end of a retired slot (R268, R290): descriptor writes still to make, fences to fail unless they are signalled, and the ranges the
compactor zeroes once no ray of the generation is left; `slot`, `lanes` and `op` name the threads and the instruction that started it (R226), and
`place` the physical address of the descriptor (R289). -/
structure Compact where
  die : Nat
  cid : Nat
  asid : Nat
  fn : Nat
  q : Nat
  supervisor : Bool
  desc : Nat
  target : Nat
  generation : Nat
  writes : List (Nat × List Byte)
  fail : List Nat
  ranges : List (Nat × Nat)
  faults : List Nat
  slot : Nat
  lanes : Lanes
  op : Nat
  place : Nat
  deriving DecidableEq, Repr

/-- A swap engine (R183 to R188): registers, and of the exchange under way the frame size code `span` and the two leaf entries as step 1 of
R187 read them, at the addresses `addrA` and `addrB`. -/
structure Swap where
  entryA : Dword
  entryB : Dword
  irqEn : Bool
  vector : Nat
  status : Nat
  size : Nat
  line : Nat
  span : Nat
  addrA : Nat
  addrB : Nat
  leafA : Dword
  leafB : Dword
  deriving DecidableEq, Repr

/-- What an agent holds of a line (R190): tokens, keystone, data-valid and dirty bits, and a partial accumulator (R215). -/
structure Holder where
  agent : Nat
  count : Nat
  keystone : Bool
  valid : Bool
  dirty : Bool
  part : Option (List Byte)
  deriving DecidableEq, Repr

/-- The token state of a line (R190, R196, R197, R215): the home's share and the holders.  `hostState` is 1 while the host caches a device
line (R212), and 1 + die while a die's host gateway has obtained a host line (R211); `parts` holds the partial values returned in a recall, by agent
(R216); `number` is the last activation number (R204). -/
structure LineRec where
  home : Nat
  homeKey : Bool
  dirty : Bool
  holders : List Holder
  hint : List Nat
  isPart : Bool
  format : Nat
  recalling : Bool
  parts : List (Nat × List Byte)
  hostState : Nat
  number : Nat
  deriving DecidableEq, Repr

/-- A line whose tokens-home bit is 1 (R196). -/
def LineRec.atHome : LineRec := ⟨1024, true, false, [], [], false, 0, false, [], 0, 0⟩

/-- An outstanding transient request of an agent (R201, R202): when first and last sent, failures, and whether it became persistent. -/
structure Req where
  agent : Nat
  line : Nat
  kind : ReqKind
  first : Nat
  fails : Nat
  persistent : Bool
  deriving DecidableEq, Repr

/-- An entry of a persistent-request table (R203). -/
structure PReq where
  line : Nat
  requester : Nat
  kind : ReqKind
  age : Nat
  number : Nat
  active : Bool
  drain : Bool
  deriving DecidableEq, Repr

/-- The mirror of an active persistent request that the agents of a die keep (R203, R204). -/
structure Mirror where
  line : Nat
  requester : Nat
  number : Nat
  active : Bool
  deriving DecidableEq, Repr

/-- A team in a saved context (R145, R146, R148): its groups by slot and their trap frames by group index, the bytes and full granules of its
scratchpad run, the buffers of the pipes it consumes, and the words of its tiles, all by offset (builder and compactor work keeps its place in
State.builds and State.compacts). -/
structure SavedTeam where
  id : Nat
  team : Team
  groups : List (Nat × Group)
  frames : List (Nat × List (Nat × Byte))
  scratch : List (Nat × Byte)
  full : List Nat
  buffers : List (Nat × List (Nat × Byte) × List Nat)
  tiles : List (Nat × Word)
  deriving DecidableEq, Repr

/-- A saved context (R138, R139, R147, R148): teams in the order of placement, engine work (a COPY of a record by its pier; any other names its
group by team and index), and the launch records taken out of the placement lists, by die.  `area` gives, for
each die, where its part of the image ends in its save area. -/
structure Saved where
  teams : List SavedTeam
  entries : List MatEntry
  copies : List (Nat × XCmd)
  gathers : List XCmd
  rays : List Ray
  launches : List (Nat × Nat)
  area : List (Nat × Nat)
  deriving DecidableEq, Repr

/-- Token coherence of the module (R190 to R218).  `tables` and `mirrors` are by die; `errlog` is TC_ERRLOG; `drains` holds the drain writes a
home has (R209): core, address, store-buffer entry and bytes.  `poison` gives, for each poisoned line, a mask of the bytes written since (R217);
`symbols` the wrong 16-bit symbols that the memory devices hold in a line (R19); `recent` the lines with tokens away from home, most recently
used first (R197). -/
structure Coherence where
  lines : List (Nat × LineRec)
  net : List TokenMsg
  reqs : List Req
  tables : List (Nat × List PReq)
  mirrors : List (Nat × List Mirror)
  granted : List (Nat × Nat)
  poison : List (Nat × Nat)
  symbols : List (Nat × Nat)
  recent : List Nat
  census : List Nat
  errlog : List (Nat × Dword)
  drains : List (Nat × Nat × Nat × List Byte)
  deriving DecidableEq, Repr

/-- The fields of HQ_Q_CFG, HQ_Q_RING and the queue state line of one queue (R65, R66, R69, R70). `state`: 0 DISABLED, 1 ENABLED, 2 ERROR, 3 DRAINING. -/
structure Queue where
  ring : Dword
  state : Nat
  mapped : Bool
  pending : Bool
  cq : Nat
  priority : Nat
  asid : Nat
  log2 : Nat
  head : Word
  ticket : Word
  started : Word
  tail : Word
  err : Dword
  watchdog : Nat
  since : Nat
  recs : List Rec
  doneRecs : List Word
  cores : List Nat
  acquire : Option Nat
  preempt : Option Preempt
  saved : Bool
  leaves : List Nat
  cycles : Nat
  shadows : List Nat
  deriving DecidableEq, Repr

/-- The state of a queue at reset (R66). -/
def Queue.reset : Queue :=
  ⟨0#64, 0, false, false, 0, 3, 0, 0, 0#32, 0#32, 0#32, 0#32, 0#64, 10000000, 0, [], [], [], none, none, false, [], 0, []⟩

/-- A completion queue (R65, R67, R91, R92): registers, counts, when the running timer started, and the entries that
wait on chip. -/
structure Cq where
  base : Dword
  enabled : Bool
  irqEn : Bool
  vector : Nat
  count : Nat
  timer : Nat
  asid : Nat
  log2 : Nat
  tail : Word
  head : Word
  err : Dword
  posted : Nat
  timerOn : Bool
  since : Nat
  waiting : List (List Byte × Bool)
  deriving DecidableEq, Repr

/-- The state of a completion queue at reset (R67). -/
def Cq.reset : Cq := ⟨0#64, false, false, 0, 1, 1, 0, 0, 0#32, 0#32, 0#64, 0, false, 0, []⟩

/-- A fault of a function (R156, R158): its entry, whether it is still outstanding, whether its entry was written, and the action given. -/
structure Fault_ where
  id : Word
  entry : List Byte
  written : Bool
  retried : Bool
  aborted : Bool
  q : Nat
  launch : Option Nat
  raised : Nat
  deriving DecidableEq, Repr

/-- One function (R61 to R65, R157): HQ_FN_CFG, MSI-X table and pending bits, the fault ring, and where
its save area begins, 0 while it has none (R148). -/
structure Fn where
  enabled : Bool
  limit : Nat
  top : Nat
  asidCount : Nat
  asidBase : Nat
  masked : List Nat
  pba : Dword
  msixTable : List (Nat × Dword)
  frBase : Dword
  frEnabled : Bool
  frIrq : Bool
  frVector : Nat
  frTimeout : Nat
  frAsid : Nat
  frLog2 : Nat
  frTail : Word
  frHead : Word
  faults : List Fault_
  nextFault : Nat
  area : Nat
  deriving DecidableEq, Repr

/-- A virtual function at reset (R63, R157); every MSI-X vector is masked, as PCI Express resets it (log entry 1). -/
def Fn.reset : Fn := ⟨false, 0, 3, 0, 0, List.range 64, 0#64, [], 0#64, false, false, 0, 1000, 0, 0, 0#32, 0#32, [], 1, 0⟩

/-- Where the save area of a function begins once Soliracor has reserved it: 480 MiB for each, from the middle of die 0's near tier; on die 1 at
the same offset (R148; a choice of the model, log entry 1). -/
def areaOf (fn : Nat) : Nat := 0x800000000 + 0x1E000000 * fn

/-- The physical function at reset (R63). -/
def Fn.resetPf : Fn := { Fn.reset with enabled := true, limit := 4096, top := 0, asidCount := 256, area := areaOf 0 }

/-- A firmware slot of the flash (R42, R43): its bytes, and whether its write is complete (R47). -/
structure Flash where
  bytes : List Byte
  complete : Bool
  deriving DecidableEq, Repr

/-- Trust and life cycle (R38 to R60): state, self-test result, flash slots, fuses, secure store, measurements, the
compound device identifier that the alias key comes from (R54), and the SPDM session with the IDE keys it set up (R20). -/
structure Trust where
  life : Life
  lastError : Nat
  bist : Dword
  active : Nat
  nextActive : Option Nat
  flash : List Flash
  runSvn : Nat
  svnFuse : Dword
  makerHash : List Byte
  ownerKeys : List (Option (List Byte))
  sealedData : List Byte
  releasing : Bool
  restricted : Bool
  serial : List Byte
  nonce : Option (List Byte)
  measures : List (List Byte)
  secretLocked : Bool
  cdi : List Byte
  debugUnlocked : Bool
  session : Nat
  ideKeys : List (List Byte)
  deriving DecidableEq, Repr

/-- Links, power and management (R23 to R30, R36, R60): whether the module has power, peer ports, power limit, arithmetic clock in MHz, the
flags of telemetry, and the HDM decoder of each tier (R20): the host address where the tier begins. -/
structure Platform where
  powered : Bool
  ports : List (Nat × Nat)
  powerLimit : Nat
  clock : Nat
  overLimit : Bool
  throttled : Bool
  tripped : Bool
  linkUp : Bool
  i3c : Option Nat
  viaductDown : Bool
  hdm : List (Nat × Nat)
  deriving DecidableEq, Repr

/-- What leaves the module: interrupts (function, vector), management replies, host read data (none when poisoned), writes sent to
peer devices and to the host, answers to peer devices by port, lines asked back from the host, and trace records (die, record). -/
structure Outputs where
  msix : List (Nat × Nat)
  replies : List (List Byte)
  hostData : List (Nat × Option (List Byte))
  peerWrites : List (Nat × List Byte)
  peerData : List (Nat × Option (List Byte))
  bisnp : List Nat
  trace : List (Nat × List Byte)
  deriving DecidableEq, Repr

/-- The trace buffer of a die (R307): records held, records discarded, their kinds, and the first lost LOG number. -/
structure TraceBuf where
  records : List (List Byte)
  lost : Nat
  kinds : Nat
  firstLog : Option Nat
  deriving DecidableEq, Repr

/-- Debug and trace registers (R293, R298, R305, R306, R308); `stepping` says that a STEP is under way since the last release (R297). -/
structure Debug where
  enabled : Bool
  halt : Bool
  stepping : Bool
  fn : Nat
  q : Nat
  bps : List (Dword × Bool × Word)
  sampleEn : Bool
  logEn : Bool
  interval : Nat
  notReplayable : Bool
  firstOrdinal : Word
  logSeq : Nat
  buffers : List (Nat × TraceBuf)
  deriving DecidableEq, Repr

/-- The issue under way: the group, the lanes E (R130), the clause header, the words, and, in a replay (R154), the captured operands. -/
structure Issue where
  cid : Nat
  slot : Nat
  lanes : Lanes
  pc : Dword
  header : Dword
  headerWord : Word
  word : Word
  lit : Word
  last : Bool
  replay : Bool
  slots : List (Nat × List Reg)
  flag : Nat
  phase : Word
  seq : Nat
  deriving DecidableEq, Repr

/-- No issue. -/
def Issue.none : Issue := ⟨0, 0, 0#32, 0#64, 0#64, 0#32, 0#32, 0#32, false, false, [], 15, 0#32, 0⟩

/-- A stop of the model that is no state of the machine. -/
inductive Fault where
  /-- Raised by every encoded instruction when State.iss names a slot that holds no group: no issue is under way, so there is nothing
  the instruction could act on.  Safe: no step of the machine reaches it, since an issue always names a resident group (R130). -/
  | noGroup
  /-- Raised by HOST_MEM_ACCESS and PEER_ACCESS for an address no range of R164 lists.  Safe: the spec says the address is unpopulated. -/
  | unpopulated
  deriving DecidableEq, Repr

/-- A refusal of the model. -/
inductive Refusal where
  /-- Raised by an arm of exec whose instruction has no meaning yet.  Safe: the model stops. -/
  | notModelled (mnemonic : String)
  deriving DecidableEq, Repr

/-- The state of the module.  `time` is the global time counter (R9, R42); `agenda` and `timers` hold the steps that are due;
`free` numbers the free values of the model (the model's own field, log entry 3); `args` and `iss` say what the step under way acts on;
`ids` is the model's own source of fresh identifiers. -/
structure State where
  variant : Variant
  trust : Trust
  platform : Platform
  mem : List Host.Cell
  coherence : Coherence
  cores : List (Nat × Core)
  piers : List (Nat × Pier)
  teams : List (Nat × Team)
  gangs : List (Nat × Gang)
  launches : List (Nat × Launch)
  placers : List (Nat × Placer)
  queues : List (Nat × Queue)
  cqs : List (Nat × Cq)
  fns : List (Nat × Fn)
  builds : List (Nat × Build)
  compacts : List (Nat × Compact)
  rayCounts : List (Nat × Nat)
  saved : List (Nat × Saved)
  swaps : List (Nat × Swap)
  dbg : Debug
  out : Outputs
  rootTable : Nat
  saveArea : Nat
  time : Dword
  agenda : List Due
  timers : List Timer
  args : StepArgs
  iss : Issue
  ids : Nat
  free : Nat
  deriving DecidableEq, Repr

/-- A core with nothing resident (R244, R303). -/
def Core.reset : Core := ⟨[], [], [], [], 0#32, 0, 0, List.replicate 18 0, 0, List.replicate 18 0, [], [], List.replicate 18 0, none⟩

/-- A pier at rest: empty tables and tiles of zero (R256). -/
def Pier.reset : Pier := ⟨[], [], 0, [], [], false, [], [], []⟩

/-- A placement unit at reset (R112, R113, R114). -/
def Placer.reset : Placer := ⟨[], [], 8, true, none, 0, 0, 0#64, [], []⟩

/-- A swap engine at reset (R184 to R186). -/
def Swap.reset : Swap := ⟨0#64, 0#64, false, 0, 0, 0, 0, 0, 0, 0, 0#64, 0#64⟩

/-- An empty trace buffer (R307). -/
def TraceBuf.reset : TraceBuf := ⟨[], 0, 0, none⟩

/-- Trust at power-on reset: SELF_TEST, measurement registers zero (R49, R53).  The fuses, the flash and the secure store are those of
an empty module (log entry 1). -/
def Trust.reset : Trust :=
  ⟨.selfTest, 0, 0#64, 0, none, [⟨[], false⟩, ⟨[], false⟩], 0, 0#64, List.replicate 32 0#8, [none, none, none, none], [], false, false,
   [], none, List.replicate 8 (List.replicate 32 0#8), false, [], false, 0, []⟩

/-- Links and power at reset: every port untrained (R36), clock 1.5 GHz (R10), power limit the TDP of the K960 (R27, log entry 1). -/
def Platform.reset : Platform := ⟨true, [], 1800, 1500, false, false, false, false, none, false, [(0, 0), (1, 0x2000000000)]⟩

/-- Coherence at reset: every line has its 1,024 tokens at home (R196). -/
def Coherence.reset : Coherence := ⟨[], [], [], [], [], [], [], [], [], [], [], []⟩

/-- Debug registers at reset (R293, R298, R305, R308). -/
def Debug.reset : Debug :=
  ⟨false, false, false, 0, 0, List.replicate 4 (0#64, false, 0#32), false, false, 0, false, 0xFFFFFFFF#32, 0, []⟩

/-- The module right after power-on reset (R13, R42, R51): state SELF_TEST, time zero, nothing resident, memory with nothing listed.
The self-test is due; its result comes with it.  What the spec leaves open here is named in log entry 1. -/
def State.reset : State where
  variant := .k960
  trust := Trust.reset
  platform := Platform.reset
  mem := []
  coherence := Coherence.reset
  cores := []
  piers := []
  teams := []
  gangs := []
  launches := []
  placers := []
  queues := []
  cqs := []
  fns := [(0, Fn.resetPf)]
  builds := []
  compacts := []
  rayCounts := []
  saved := []
  swaps := []
  dbg := Debug.reset
  out := ⟨[], [], [], [], [], [], []⟩
  rootTable := 0xFC0000000
  saveArea := 0xFC0010000
  time := 0#64
  agenda := []
  timers := []
  args := {}
  iss := Issue.none
  ids := 1
  free := 0

end Sys2Proof.Machine
end

