-- ==== Sys2Proof/Machine/Ops.lean ====
section
/-! DEFINITION.  The named operations over the state: reaching cores, groups, threads and registers; completion flags; try regions and their
aborts (R441 to R450); taking a trap and resuming from one (R150 to R154); and the checks every instruction passes (R351). -/

namespace Sys2Proof.Machine

/-- The outcomes of a meaning. -/
abbrev Out := Host.Outcome State Fault Refusal

/-! ## The module -/

/-- Dies of the variant (R1). -/
def dieCount (s : State) : Nat := if s.variant = .k480 then 1 else 2

/-- Traversal units and builders are present (R1, R3). -/
def hasRays (s : State) : Bool := !(s.variant = .k960c)

/-- The global time counter as a number (R42). -/
def now (s : State) : Nat := s.time.toNat

/-- A free value, and the state that has used it (log entry 3). -/
def takeFree (s : State) : Nat × State := (Config.freeNat s.free, { s with free := s.free + 1 })

/-- A fresh identifier, and the state that has used it. -/
def takeId (s : State) : Nat × State := (s.ids, { s with ids := s.ids + 1 })

/-- Make a step due. -/
def due (s : State) (i : Instr) (a : StepArgs) : State := { s with agenda := s.agenda ++ [⟨i, a⟩] }

/-- Make a step due unless the same step is already due. -/
def dueOnce (s : State) (i : Instr) (a : StepArgs) : State := if s.agenda.contains ⟨i, a⟩ then s else due s i a

/-- Make a step fall due after a number of ticks (R9). -/
def later (s : State) (ticks : Nat) (i : Instr) (a : StepArgs) : State :=
  { s with timers := s.timers ++ [⟨now s + ticks, ⟨i, a⟩⟩] }

/-- Take back the steps that `p` names, due or timed. -/
def withdraw (s : State) (p : Due → Bool) : State :=
  { s with agenda := s.agenda.filter fun d => !(p d), timers := s.timers.filter fun t => !(p t.due) }

/-! ## Cores, groups and threads -/

/-- The core of a number (R96). -/
def coreOf (s : State) (cid : Nat) : Core := look Core.reset s.cores cid

/-- Change a core. -/
def modCore (s : State) (cid : Nat) (f : Core → Core) : State := { s with cores := place s.cores cid (f (coreOf s cid)) }

/-- The group in a slot, if any. -/
def groupOf (s : State) (cid slot : Nat) : Option Group := find? (coreOf s cid).groups slot

/-- Put a group into a slot. -/
def setGroup (s : State) (cid slot : Nat) (g : Group) : State := modCore s cid fun c => { c with groups := place c.groups slot g }

/-- Change the group in a slot, if there is one. -/
def modGroup (s : State) (cid slot : Nat) (f : Group → Group) : State :=
  match groupOf s cid slot with
  | none => s
  | some g => setGroup s cid slot (f g)

/-- The pier of a number. -/
def pierOf (s : State) (p : Nat) : Pier := look Pier.reset s.piers p

/-- Change a pier. -/
def modPier (s : State) (p : Nat) (f : Pier → Pier) : State := { s with piers := place s.piers p (f (pierOf s p)) }

/-- The pier of a core: four cores a pier (R85), cores and piers numbered across dies. -/
def pierNo (cid : Nat) : Nat := 32 * (cid / 128) + cid % 128 / 4

/-- A thread about to start at a PC (R244). -/
def Thread.start (pc : Dword) : Thread := ⟨pc, none, false, 0, false, .ready, none, false, false, []⟩

/-- The thread of a lane; a lane without one counts as exited. -/
def threadOf (g : Group) (t : Nat) : Thread := nth { Thread.start 0#64 with exited := true } g.threads t

/-- Change a thread. -/
def modThread (g : Group) (t : Nat) (f : Thread → Thread) : Group := { g with threads := modNth g.threads t f }

/-- Lanes of the group's threads that have not exited (sys.live_mask, R388). -/
def liveLanes (g : Group) : Lanes := laneSet ((List.range 32).filter fun t => !(threadOf g t).exited)

/-- The team of an identifier. -/
def teamOf (s : State) (id : Nat) : Option Team := find? s.teams id

/-- Change a team. -/
def modTeam (s : State) (id : Nat) (f : Team → Team) : State :=
  match find? s.teams id with
  | none => s
  | some t => { s with teams := place s.teams id (f t) }

/-- The launch of an identifier. -/
def launchOf (s : State) (id : Nat) : Option Launch := find? s.launches id

/-- Change a launch. -/
def modLaunch (s : State) (id : Nat) (f : Launch → Launch) : State :=
  match find? s.launches id with
  | none => s
  | some l => { s with launches := place s.launches id (f l) }

/-- The launch of a group, if its team has one. -/
def launchOfGroup (s : State) (g : Group) : Option Launch := (teamOf s g.team).bind fun t => launchOf s t.launch

/-- Function and queue of a group's context; the firmware group belongs to no queue (0, 4096). -/
def contextOf (s : State) (g : Group) : Nat × Nat :=
  match launchOfGroup s g with
  | some l => (l.fn, l.q)
  | none => (0, 4096)

/-- The absolute address-space identifier of a group (R169). -/
def asidOf (s : State) (g : Group) : Nat :=
  match launchOfGroup s g with
  | some l => l.asid
  | none => 0

/-! ## Registers and scratchpad -/

/-- Register v of thread t (R245). -/
def regOf (g : Group) (t v : Nat) : Reg := look Reg.zero g.regs (128 * t + v)

/-- Write a register of a thread, without a log entry. -/
def setReg (g : Group) (t v : Nat) (r : Reg) : Group := { g with regs := store Reg.zero g.regs (128 * t + v) r }

/-- Write a register of a thread; inside a region the first write is logged, the abort quad aside (R442, R443). -/
def writeReg (g : Group) (t v : Nat) (r : Reg) : Group :=
  let th := threadOf g t
  match th.region with
  | none => setReg g t v r
  | some rg =>
    if (rg.quad ≤ v && v < rg.quad + 4) || rg.log.any (fun e => e.1 == v) then setReg g t v r
    else setReg (modThread g t fun th => { th with region := some { rg with log := rg.log ++ [(v, regOf g t v)] } }) t v r

/-- Registers the group may name (R245). -/
def regBound (g : Group) : Nat := 8 * g.granules

/-- A value of 64 bits from two registers, low word first (R7). -/
def pairVal (lo hi : Reg) : Dword := hi.val ++ lo.val

/-- Low word of a 64-bit value. -/
def loWord (v : Dword) : Word := v.setWidth 32

/-- High word of a 64-bit value. -/
def hiWord (v : Dword) : Word := (v >>> 32).setWidth 32

/-- The issue under way. -/
def issGroup (s : State) : Option Group := groupOf s s.iss.cid s.iss.slot

/-- What the issue reads of register v in lane t: the captured slot in a replay (R154), else the register. -/
def srcReg (iss : Issue) (g : Group) (t v : Nat) : Reg :=
  match find? iss.slots v with
  | some l => nth Reg.zero l t
  | none => regOf g t v

/-- The value an issue reads. -/
def srcVal (iss : Issue) (g : Group) (t v : Nat) : Word := (srcReg iss g t v).val

/-- The pair an issue reads. -/
def srcPair (iss : Issue) (g : Group) (t v : Nat) : Dword := pairVal (srcReg iss g t v) (srcReg iss g t (v + 1))

/-- Physical scratchpad byte of an offset of a team's run (R146, R253). -/
def scratchAddr (tm : Team) (off : Nat) : Nat := 4096 * tm.unitBase + off

/-- A span of the team's run (R252). -/
def inRun (tm : Team) (off len : Nat) : Bool := off + len ≤ 4096 * tm.units

/-- Read bytes of a core's scratchpad. -/
def scratchBytes (c : Core) (a n : Nat) : List Byte := readBytes c.scratch a n

/-- Write bytes of a core's scratchpad. -/
def writeScratch (c : Core) (a : Nat) (b : List Byte) : Core := { c with scratch := writeBytes c.scratch a b }

/-- The 16-byte granules of a scratchpad span (R253). -/
def granulesOf (a n : Nat) : List Nat := if n == 0 then [] else (List.range ((a + n - 1) / 16 - a / 16 + 1)).map (a / 16 + ·)

/-- Set granules full (R254). -/
def setFull (c : Core) (gs : List Nat) : Core := { c with full := c.full ++ gs.filter fun x => !(c.full.contains x) }

/-- Empty granules (R254). -/
def setEmpty (c : Core) (gs : List Nat) : Core := { c with full := c.full.filter fun x => !(gs.contains x) }

/-! ## Completion flags (R256) -/

/-- No flag. -/
def noFlag : Nat := 15

/-- Attach an instruction to a flag; 12 to 15 attach nothing (R335). A new attachment starts without an error (R436). -/
def attachFlag (g : Group) (f : Nat) : Group :=
  if f < 12 then { g with flags := modNth g.flags f fun x => { x with count := x.count + 1 } } else g

/-- Attach the instruction of an issue to its flag; a replay is attached already (R154). -/
def attachIssue (iss : Issue) (g : Group) : Group := if iss.replay then g else attachFlag g iss.flag

/-- One attached instruction has completed. -/
def completeFlag (g : Group) (f : Nat) : Group :=
  if f < 12 then { g with flags := modNth g.flags f fun x => { x with count := x.count - 1 } } else g

/-- The flag is set while an attached instruction is incomplete. -/
def flagSet (g : Group) (f : Nat) : Bool := !((nth ⟨0, none⟩ g.flags f).count == 0)

/-- Record an engine error for a flag, or for a command attached to none; the first one is kept (R436). -/
def recordError (g : Group) (f kind va : Nat) : Group :=
  if f < 12 then
    { g with flags := modNth g.flags f fun x => { x with error := some (x.error.getD (kind, va)) } }
  else { g with unattached := some (g.unattached.getD (kind, va)) }

/-! ## The issued lanes: advancing and waiting -/

/-- Move the threads of E past the instruction; after the last word of a clause the next word is a header (R334).  A replay moves no PC. -/
def advance (iss : Issue) (words : Nat) (e : Lanes) (g : Group) : Group :=
  if iss.replay then g else
    (lanesOf e).foldl (fun g t => modThread g t fun th =>
      { th with pc := iss.pc + BitVec.ofNat 64 (4 * words),
                clause := if iss.last then none else some (iss.header, iss.headerWord) }) g

/-- Send the threads of E to a target that is a clause header (R340). -/
def jump (e : Lanes) (target : Dword) (g : Group) : Group :=
  (lanesOf e).foldl (fun g t => modThread g t fun th => { th with pc := target, clause := none }) g

/-- Make the threads of E wait (R440). -/
def waitLanes (e : Lanes) (w : Wait) (g : Group) : Group :=
  (lanesOf e).foldl (fun g t => modThread g t fun th => { th with wait := w }) g

/-- Threads that waited in an unfinished instruction go on. -/
def wakeOp (id : Nat) (e : Lanes) (g : Group) : Group :=
  (lanesOf e).foldl (fun g t => modThread g t fun th => if th.wait = .op id then { th with wait := .ready } else th) g

/-! ## The event word (R491) -/

/-- The group of EVWAITs that an event word wakes: each writes the word to its destination and clears it in one event. -/
def wakeEvwait (c : Core) : Core :=
  if c.event = 0#32 then c else
    let waiting := c.groups.filterMap fun p =>
      (p.2.ops.find? fun o => match o.instr with | .evwait _ _ => true | _ => false).map fun o => (p.1, o)
    match waiting with
    | [] => c
    | (slot, o) :: _ =>
      match o.instr with
      | .evwait _ d =>
        { c with event := 0#32,
                 groups := c.groups.map fun p =>
                   if p.1 == slot then
                     let g := (lanesOf o.todo).foldl (fun g t => writeReg g t d.toNat ⟨c.event, 12#4⟩) p.2
                     (p.1, wakeOp o.id o.todo { g with ops := g.ops.filter fun x => !(x.id == o.id) })
                   else p }
      | _ => c

/-- Set bits of a core's event word and serve a waiting EVWAIT. -/
def raiseEvent (s : State) (cid : Nat) (bits : Word) : State :=
  modCore s cid fun c => wakeEvwait { c with event := c.event ||| bits }

/-! ## The counters of R300 -/

/-- Move charges from leaf 0 to another leaf (R302). -/
def moveLeaf (ls : List Nat) (n leaf : Nat) : List Nat := modNth (modNth ls 0 (· - n)) leaf (· + n)

/-- Change the counters of a context's queue (R303); the firmware group's context has none. -/
def modCounters (s : State) (ctx : Nat × Nat) (f : Queue → Queue) : State :=
  if 4096 ≤ ctx.2 then s else
    match find? s.queues (4096 * ctx.1 + ctx.2) with
    | some x => { s with queues := place s.queues (4096 * ctx.1 + ctx.2) (f x) }
    | none => s

/-- Move charges of a core and of the context they were made for from leaf 0 to another leaf (R302, R303). -/
def moveCharges (s : State) (cid : Nat) (ctx : Nat × Nat) (n leaf : Nat) : State :=
  if n == 0 then s else
    modCounters (modCore s cid fun c => { c with leaves := moveLeaf c.leaves n leaf }) ctx fun x =>
      { x with leaves := moveLeaf x.leaves n leaf }

/-! ## Active and pending sets (R128) -/

/-- The slot that a store buffer entry names once its group is gone (R222). -/
def noSlot : Nat := 99

/-- Active user groups of a core. -/
def activeCount (c : Core) : Nat := (c.groups.filter fun p => p.1 < 15 && p.2.active).length

/-- A thread is blocked: it waits for something that another step ends; a wait for room ends when the group tries again (R440). -/
def blockedThread (th : Thread) : Bool :=
  match th.wait with
  | .op _ => true
  | .barrier .. => true
  | .cv _ => true
  | .commit => true
  | .reorder => true
  | _ => false

/-- The whole group waits: a signing found the reservation table or the latches of its pier full, a transfer stream was full, or REGGROW has not
been granted (R126, R131, R259, R261, R380). -/
def groupHeld (g : Group) : Bool :=
  (g.threads.any fun th => match th.wait with
    | .matrixTable => true
    | .latch => true
    | .stream .. => true
    | .tileTable .. => true
    | _ => false) ||
  g.ops.any fun o => match o.instr with
    | .reggrow .. => true
    | _ => false

/-- A user group that could issue as far as stops, exits and blocked threads go (R126). -/
def runnable (g : Group) : Bool :=
  g.stop.isNone && !g.exitedWhole && !(groupHeld g) && (!g.replayQ.isEmpty || g.threads.any fun th => !th.exited && !(blockedThread th))

/-- A group leaves the active set; before the core issues again, the oldest ready pending group takes its place (R128). -/
def leaveActive (s : State) (cid slot : Nat) : State := modGroup s cid slot fun g => { g with active := false }

/-! ## Stores of a group that are not yet performed -/

/-- One lane's store of an instruction has been performed or discarded: when it was the last, the instruction completes (R256). -/
def storeDone (op : Nat) (g : Group) : Group :=
  match g.storesOut.find? fun x => x.1 == op with
  | none => g
  | some (o, f, n) =>
    if n ≤ 1 then completeFlag { g with storesOut := g.storesOut.filter fun x => !(x.1 == op) } f
    else { g with storesOut := g.storesOut.map fun x => if x.1 == op then (o, f, n - 1) else x }

/-! ## Try regions (R441 to R450) -/

/-- The thread is in a region (R441). -/
def inRegion (g : Group) (t : Nat) : Bool := (threadOf g t).region.isSome

/-- The lanes of E that are in a region. -/
def regionLanes (g : Group) (e : Lanes) : Lanes := laneSet ((lanesOf e).filter (inRegion g))

/-- Lines in the group's speculative load set (R442). -/
def loadLines (g : Group) : List Nat := dedup (g.threads.flatMap fun th => match th.region with | some r => r.loads | none => [])

/-- Lines and scratchpad spans in the group's buffered write set (R442). -/
def writeLines (g : Group) : List (Bool × Nat) :=
  dedup (g.threads.flatMap fun th => match th.region with | some r => r.writes.map (fun w => (w.scratch, w.addr / 128)) | none => [])

/-- The word an abort quad receives (R448). -/
def abortWord (code detail depth : Nat) (isGroup : Bool) (lane : Nat) : Word :=
  BitVec.ofNat 32 (code + 256 * detail + 65536 * depth + (if isGroup then 524288 else 0) + 16777216 * lane)

/-- Take one lane out of an unfinished instruction; an instruction without lanes left is gone and its flag completes. -/
def dropLane (g : Group) (op t : Nat) : Group :=
  match g.ops.find? fun o => o.id == op with
  | none => g
  | some o =>
    let todo := o.todo &&& ~~~(oneLane t)
    if todo = 0#32 then completeFlag { g with ops := g.ops.filter fun x => !(x.id == op) } o.flag
    else { g with ops := g.ops.map fun x => if x.id == op then { x with todo := todo, lanes := x.lanes &&& ~~~(oneLane t) } else x }

/-- The effect of an abort on one thread (R449): log restored, stores discarded, quad written, PC at the handler. -/
def abortLane (g : Group) (t code detail cause : Nat) (extra : Dword) : Group :=
  let th := threadOf g t
  match th.region with
  | none => g
  | some r =>
    let mine := (g.ops.filter fun (o : Op) => o.inTry.getLsbD t && o.todo.getLsbD t).map (·.id)
    let g := mine.foldl (fun g op => dropLane g op t) g
    let g := r.log.foldl (fun g e => setReg g t e.1 e.2) g
    let g := r.ops.foldl (fun g op => storeDone op g) g
    let q := r.quad
    let g := setReg g t q ⟨abortWord code detail r.depth r.isGroup cause, 12#4⟩
    let g := setReg g t (q + 1) ⟨0#32, 12#4⟩
    let g := setReg g t (q + 2) ⟨loWord extra, 12#4⟩
    let g := setReg g t (q + 3) ⟨hiWord extra, 12#4⟩
    modThread g t fun th => { th with region := none, pc := r.handler, clause := none, wait := .ready }

/-- Bookkeeping of R302 when a lane aborts: an issue all of whose threads have aborted moves from leaf 0 to leaf 1. -/
def specAborted (g : Group) (t : Nat) : Nat × Group :=
  let cut := g.specIssues.map fun e => (e, e &&& ~~~(oneLane t))
  ((cut.filter fun p => !(p.1 = 0#32) && p.2 = 0#32).length,
   { g with specIssues := (cut.map (·.2)).filter fun e => !(e = 0#32) })

/-- An abort reaches a group that is already stopped: its frame takes the PCs of the lanes `l`, and loses the lanes from the entries of their
regions; an entry with no lane left becomes DROP (R141, R151, R152). -/
def patchFrame (s : State) (cid slot : Nat) (l : List Nat) : State :=
  match groupOf s cid slot with
  | none => s
  | some g =>
    match g.stop with
    | none => s
    | some st =>
      let gone := laneSet l
      let keep := (st.entries.zip st.tries).map fun p => p.1.1 &&& ~~~(p.2 &&& gone)
      let st1 := { st with
        entries := (st.entries.zip keep).map fun p => (p.2, p.1.2)
        tries := st.tries.map fun x => x &&& ~~~gone }
      let m := l.foldl (fun m t => writeNat m (st.frame + 64 + 8 * t) 8 (threadOf g t).pc.toNat) s.mem
      let cut := (List.range st1.entries.length).filter fun e => !((nth (0#32, 0) st1.entries e).1 = (nth (0#32, 0) st.entries e).1)
      let m1 := cut.foldl (fun m e =>
        let ls := (nth (0#32, 0) st1.entries e).1
        let m := writeNat m (st.frame + 1024 + 640 * e + 16) 4 ls.toNat
        if ls = 0#32 then writeNat m (st.frame + 1024 + 640 * e + 20) 1 3 else m) m
      { setGroup s cid slot { g with stop := some st1 } with mem := m1 }

/-- An abort of thread t with a code and detail; the partners of a .group instance abort with PARTNER (R445, R449). -/
def abortThread (s : State) (cid slot t code detail : Nat) (extra : Dword) : State :=
  match groupOf s cid slot with
  | none => s
  | some g =>
    match (threadOf g t).region with
    | none => s
    | some r =>
      let partners := if r.isGroup then
          (List.range 32).filter fun u => !(u == t) && (match (threadOf g u).region with
            | some q => q.isGroup && q.instance_ == r.instance_ | none => false)
        else []
      let g1 := abortLane g t code detail t extra
      let g2 := partners.foldl (fun g u => abortLane g u 0x0B 0 t 0#64) g1
      let moved := (t :: partners).foldl (fun (p : Nat × Group) u => let q := specAborted p.2 u; (p.1 + q.1, q.2)) (0, g2)
      let s1 := moveCharges (setGroup s cid slot moved.2) cid (contextOf s g) moved.1 1
      if g.stop.isNone then s1 else patchFrame s1 cid slot (t :: partners)

/-- Abort every lane of a set that is in a region, in ascending order. -/
def abortLanes (s : State) (cid slot : Nat) (e : Lanes) (code detail : Nat) (extra : Dword) : State :=
  (lanesOf e).foldl (fun s t => abortThread s cid slot t code detail extra) s

/-! ## The trap frame (R151, R152) -/

/-- Offset, length and value of the fields of one replay entry, with slots 4 and 5 at the end of the frame (R152). -/
def entryFields (e : Nat) (r : Replay) (faulted : Lanes) : List (Nat × Nat × Nat) :=
  let b := 1024 + 640 * e
  let tagOf := fun (k : Nat) => (nth Reg.zero (nth [] r.slots k) (lowestLane r.lanes)).tag.toNat
  [(b, 8, r.pc.toNat), (b + 8, 4, r.word.toNat), (b + 12, 4, r.lit.toNat), (b + 16, 4, r.lanes.toNat), (b + 20, 1, r.status),
   (b + 21, 1, r.slots.length), (b + 22, 2, tagOf 0 + 16 * tagOf 1 + 256 * tagOf 2 + 4096 * tagOf 3), (b + 24, 4, faulted.toNat),
   (b + 28, 1, r.resultTag.toNat), (b + 29, 1, r.flag), (b + 30, 1, tagOf 4 + 16 * tagOf 5)] ++
  (List.range (min r.slots.length 6)).flatMap fun k =>
    (lanesOf r.lanes).map fun t =>
      (if k < 4 then b + 64 + 128 * k + 4 * t else 6144 + 256 * e + 128 * (k - 4) + 4 * t, 4, (nth Reg.zero (nth [] r.slots k) t).val.toNat)

/-- Offset, length and value of the fields of a trap frame that say why the group stopped (R151). -/
def stopFields (st : Stop) : List (Nat × Nat × Nat) :=
  [(0, 4, st.causes), (4, 1, st.code), (5, 1, st.subtype), (6, 1, st.level), (8, 8, st.va % 2 ^ 57), (16, 4, st.lanes.toNat),
   (20, 4, st.ordinal.toNat)]

/-- Offset, length and value of the fields of a trap frame (R151). -/
def frameFields (g : Group) (st : Stop) (entries : List (Replay × Lanes)) : List (Nat × Nat × Nat) :=
  let th := fun t => threadOf g t
  let lanesWhere := fun (p : Thread → Bool) => (laneSet ((List.range 32).filter fun t => p (th t))).toNat
  let errs := (List.range 12).map fun n => ((nth ⟨0, none⟩ g.flags n).error, n)
  let errs := errs ++ [(g.unattached, 12)]
  stopFields st ++ [(24, 4, entries.length)] ++
  ((List.range 32).map fun t => (64 + 8 * t, 8, (th t).pc.toNat)) ++
  ((List.range 32).map fun t => (320 + t, 1, min 64 (th t).passed)) ++
  [(352, 4, lanesWhere (·.yielded)), (356, 4, lanesWhere (·.exited)),
   (360, 2, ((List.range 12).map fun f => if flagSet g f then 2 ^ f else 0).sum), (362, 1, g.granules),
   (364, 2, (errs.map fun p => if p.1.isSome then 2 ^ p.2 else 0).sum),
   (366, 2, (errs.map fun p => match p.1 with | some (1, _) => 2 ^ p.2 | _ => 0).sum)] ++
  ((List.range 8).map fun m => (368 + 8 * m, 8, (nth (0, 0) g.modulo m).1 + 2 ^ 32 * (nth (0, 0) g.modulo m).2)) ++
  ((List.range 8).flatMap fun c =>
    match g.cv[c]? with
    | some v => [(432 + 8 * c, 4, v.members.toNat), (436 + 8 * c, 4, v.signed.toNat)]
    | none => []) ++
  (errs.map fun p => (496 + 8 * p.2, 8, match p.1 with | some (_, va) => va % 2 ^ 57 | none => 0)) ++
  ((List.range entries.length).flatMap fun e =>
    match entries[e]? with
    | some (r, f) => entryFields e r f
    | none => [])

/-- Write fields (offset, length, value) into memory at a base; zero values need no byte. -/
def writeFields (m : Memory) (base : Nat) (fs : List (Nat × Nat × Nat)) : Memory :=
  (fs.filter fun f => !(f.2.2 == 0)).foldl (fun m f => writeNat m (base + f.1) f.2.1 f.2.2) m

/-- The frame slot of a group in the save area (R150). -/
def frameAddr (s : State) (cid slot : Nat) : Nat := s.saveArea + 8192 * (16 * cid + slot)

/-- An unfinished instruction as a replay entry: its lanes still to do (R140). -/
def opReplay (o : Op) : Replay := ⟨o.pc, o.word, o.lit, o.todo, 1, o.slots, 0#4, o.flag, o.seq⟩

/-- The word of BAR.WAIT on a barrier (R459, R462). -/
def barWaitWord (n : Nat) : Word := mkWord false 0x253#10 0#7 0#7 (BitVec.ofNat 7 n)

/-- The replay entries of threads that wait at a barrier: BAR.WAIT with slot 0 the phase awaited, one for each instruction that began the
wait (R462). -/
def barrierReplays (g : Group) : List (Nat × Replay) :=
  let ids := dedup (g.threads.filterMap fun th => match th.wait with | .barrier n _ id pc => some (id, n, pc) | _ => none)
  ids.map fun x =>
    let ls := (List.range 32).filter fun t => match (threadOf g t).wait with | .barrier n _ id _ => id == x.1 && n == x.2.1 | _ => false
    let phases := (List.range 32).map fun t => match (threadOf g t).wait with | .barrier _ p _ _ => (⟨p, 12#4⟩ : Reg) | _ => Reg.zero
    (x.1, ⟨x.2.2, barWaitWord x.2.1, 0#32, laneSet ls, 1, [phases], 0#4, noFlag, x.1⟩)

/-- The replay entries of threads that wait in REORDER: each arrival is discarded and the instruction runs again (R391). -/
def reorderReplays (g : Group) : List (Nat × Replay) :=
  let ls := (List.range 32).filter fun t => (threadOf g t).wait = .reorder
  match g.ops.find? fun o => match o.instr with | .reorder _ _ _ => true | _ => false with
  | some o => if ls.isEmpty then [] else
      let r : Replay := opReplay o
      [(o.id, { r with lanes := laneSet ls })]
  | none => []

/-- An entry a stop puts into a frame: when it was issued, the entry, the lanes in which it faulted, and those in a region. -/
structure StopEntry where
  id : Nat
  replay : Replay
  faulted : Lanes
  inTry : Lanes
  deriving DecidableEq, Repr

/-- The replay entries a stopped group has, in issue order, at most 8: unfinished instructions that no engine holds and waits at barriers by
their identifiers, then what is left of a replay queue, all of which issued after them (R140, R152, R462). -/
def stopEntries (g : Group) : List StopEntry :=
  let queued := g.ops.filter fun o => !o.sent && !(o.todo = 0#32) && (match o.instr with | .reorder _ _ _ => false | _ => true)
  let re := reorderReplays g
  let waits := (barrierReplays g).take (8 - (queued.length + re.length + g.replayQ.length))
  let ops : List StopEntry := queued.map fun o => ⟨o.id, opReplay o, o.faulted, o.inTry &&& o.todo⟩
  let others : List StopEntry := (re ++ waits).map fun r => ⟨r.1, r.2, 0#32, 0#32⟩
  let left : List StopEntry := g.replayQ.map fun r => ⟨0, r, 0#32, 0#32⟩
  (sortBy (fun (a b : StopEntry) => a.id ≤ b.id) (ops ++ others) ++ left).take 8

/-- A stop joins one that a group has already: the causes add up; a trap names its lanes; and what the frame has not said yet it says now
(R151, R161). -/
def joinStops (old st : Stop) : Stop :=
  { old with
    causes := old.causes ||| st.causes
    code := if old.code == 0 then st.code else old.code
    halted := old.halted || st.halted
    faults := old.faults ++ st.faults
    drops := old.drops ++ st.drops
    subtype := if old.subtype == 0 then st.subtype else old.subtype
    level := if old.subtype == 0 then st.level else old.level
    va := if old.causes % 4 == 0 then st.va else old.va
    lanes := if old.causes % 2 == 0 && st.causes % 4 != 0 && (st.causes % 2 == 1 || old.causes / 2 % 2 == 0) then st.lanes else old.lanes
    ordinal := if st.ordinal = 0xFFFFFFFF#32 then old.ordinal else st.ordinal }

/-- A queued store goes back to the replay queue: the lanes it has not sent leave the count of stores that are out; when other lanes are
out, the flag waits for both (R140, R256). -/
def unsend (g : Group) (o : Op) : Group :=
  match g.storesOut.find? fun x => x.1 == o.id with
  | none => g
  | some (id, f, n) =>
    let left := n - (lanesOf o.todo).length
    if left == 0 then { g with storesOut := g.storesOut.filter fun x => !(x.1 == id) }
    else attachFlag { g with storesOut := g.storesOut.map fun x => if x.1 == id then (id, f, left) else x } f

/-- Lanes of an unfinished instruction that its engine has not accepted go back to the group: they are to be replayed, and the flag waits for them apart
from the others (R256, R492). -/
def splitOp (id : Nat) (o : Op) (back : Lanes) (g : Group) : Group :=
  if back = 0#32 then g
  else if back = o.todo then { g with ops := g.ops.map fun x => if x.id == o.id then { x with sent := false } else x }
  else attachFlag { g with
    ops := (g.ops.map fun x => if x.id == o.id then { x with todo := x.todo &&& ~~~back } else x) ++ [{ o with id := id, todo := back, sent := false }] } o.flag

/-- Rays and builder commands of a group that their unit has not accepted leave the unit (R288, R485, R492); what a page fault holds stays there
(R156). -/
def takeBack (s : State) (cid slot : Nat) (g : Group) : State × Group :=
  let mine := fun (r : Ray) => r.cid == cid && r.slot == slot && !r.accepted && r.result.isNone && r.faults.isEmpty
  let rays := (pierOf s (pierNo cid)).rays.filter mine
  let cmds := s.builds.filter fun b => b.2.cid == cid && b.2.slot == slot && b.2.phase == 0 && b.2.faults.isEmpty && g.ops.any fun o => o.id == b.2.op
  if rays.isEmpty && cmds.isEmpty then (s, g) else
    let s1 := modPier s (pierNo cid) fun p => { p with rays := p.rays.filter fun r => !(mine r) }
    let back := fun (o : Op) =>
      if cmds.any fun b => b.2.op == o.id then o.todo else laneSet ((rays.filter fun r => r.op == o.id).map (·.lane))
    ({ s1 with builds := s1.builds.filter fun b => !(cmds.any fun c => c.1 == b.1), ids := s1.ids + g.ops.length },
     ((List.range g.ops.length).zip g.ops).foldl (fun h x => splitOp (s1.ids + x.1) x.2 (back x.2) h) g)

/-- A command that a full stream has not accepted, or an MRD, MWR or MZERO that a full table has not, becomes an unfinished instruction of the group, its
operands captured, so that a stop puts it into the replay queue (R438, R492). -/
def queueCommand (s : State) (g : Group) : State × Group :=
  let waiting := fun (t : Nat) => match (threadOf g t).wait with
    | .stream _ w l f => some (w, l, f)
    | .tileTable w l f => some (w, l, f)
    | _ => none
  match (List.range 32).findSome? waiting with
  | none => (s, g)
  | some (w, l, f) =>
    match decode w l with
    | .ok i =>
      let words := wordCount w
      let e := laneSet ((List.range 32).filter fun t => (waiting t).isSome)
      let th := threadOf g (lowestLane e)
      let last := match th.clause with | some (h, hw) => (th.pc.toNat - h.toNat) / 4 + words - 1 == (hw.extractLsb' 28 4).toNat | none => true
      let o : Op := { id := s.ids, instr := i, word := w, lit := l, pc := th.pc, lanes := e, todo := e, flag := f,
                      slots := (captured i).map fun v => (List.range 32).map fun t => regOf g t v,
                      addrs := [], inTry := 0#32, faulted := 0#32, sent := false, isWalked := false, phase := 0#32, aux := 0, seq := s.ids }
      ({ s with ids := s.ids + 1 }, attachFlag { (lanesOf e).foldl (fun g t => modThread g t fun th =>
        { th with pc := th.pc + BitVec.ofNat 64 (4 * words), wait := .ready, clause := if last then none else th.clause }) g with
        ops := g.ops ++ [o] } f)
    | _ => (s, g)

/-- A stop of a group (R150, R161): its unfinished instructions that no engine holds go into the replay queue, the frame is written, the
group leaves the active set and the core's STOPPED bit rises. A group already stopped records the further causes in its frame.  Barrier waits for
which the frame has no entry left stay as they are (log entry 43). -/
def stopGroup (s : State) (cid slot : Nat) (st : Stop) : State :=
  match groupOf s cid slot with
  | none => s
  | some g =>
    let base := frameAddr s cid slot
    match g.stop with
    | some old =>
      let both := joinStops old st
      let s1 := setGroup s cid slot { g with stop := some both }
      { s1 with mem := writeFields (blank s1.mem old.frame 24) old.frame (stopFields both) }
    | none =>
      let (s, g) := queueCommand s g
      let (s, g) := takeBack s cid slot g
      let rs := stopEntries g
      let waits := fun (th : Thread) => match th.wait with
        | .barrier _ _ id _ => if rs.any fun r => r.id == id && !(id == 0) then Wait.ready else th.wait
        | .reorder => Wait.ready
        | .op id => if g.ops.any (fun o => o.id == id && o.sent) then th.wait else Wait.ready
        | w => w
      let threads : List Thread := g.threads.map fun th => { th with wait := waits th }
      let queued := g.ops.filter fun o => !o.sent && !(o.todo = 0#32) && (match o.instr with | .reorder _ _ _ => false | _ => true)
      let g0 := queued.foldl unsend g
      let g1 : Group := { g0 with ops := g0.ops.filter (fun (o : Op) => o.sent), replayQ := [], active := false, threads := threads }
      let st1 := { st with frame := base, entries := rs.map (fun r => (r.replay.lanes, r.replay.flag)), tries := rs.map (·.inTry),
                           seqs := rs.map (·.replay.seq) }
      let g2 := { g1 with stop := some st1 }
      let s1 := setGroup s cid slot g2
      let s2 := { s1 with mem := writeFields (blank s1.mem base 8192) base (frameFields g2 st1 (rs.map fun r => (r.replay, r.faulted))) }
      raiseEvent (leaveActive s2 cid slot) cid (if slot < 15 then 1#32 <<< slot else 0#32)

/-- Change what a stop says, in the frame too (R151). -/
def restateStop (s : State) (cid slot : Nat) (f : Stop → Stop) : State :=
  match groupOf s cid slot with
  | none => s
  | some g =>
    match g.stop with
    | none => s
    | some st =>
      let s1 := setGroup s cid slot { g with stop := some (f st) }
      { s1 with mem := writeFields (blank s1.mem st.frame 24) st.frame (stopFields (f st)) }

/-- The stop a page fault makes (R156). -/
def faultStop (subtype level va : Nat) (lanes : Lanes) : Stop :=
  ⟨2, 0, subtype, level, va, lanes, 0xFFFFFFFF#32, [], 0, [], [], [], [], false, false⟩

/-- The stop a pre-emption makes (R143). -/
def preemptStop : Stop := ⟨8, 0, 0, 0, 0, 0#32, 0xFFFFFFFF#32, [], 0, [], [], [], [], false, false⟩

/-- The stop a trap makes. -/
def trapStop (code subtype level va : Nat) (lanes : Lanes) : Stop :=
  ⟨1, code, subtype, level, va, lanes, 0xFFFFFFFF#32, [], 0, [], [], [], [], false, false⟩

/-- Taking a trap (R150): the group stops at the boundary of the trapping instruction, which has no effect; the frame names the code and the
lanes, and Soliracor is handed the trap.  Threads of those lanes inside a region first abort with FAULT and the code as detail (R447). -/
def takeTrap (s : State) (cid slot : Nat) (code : Nat) (va : Nat) (lanes : Lanes) : State :=
  match groupOf s cid slot with
  | none => s
  | some g =>
    let s1 := abortLanes s cid slot (regionLanes g lanes) 6 code s.iss.pc
    let s2 := stopGroup s1 cid slot (trapStop code 0 0 va lanes)
    if slot < 15 then due s2 .trapResolution { n0 := cid, n1 := slot } else s2

/-! ## Resuming a group (R154, R489) -/

/-- One replay entry read back from a frame (R152). -/
def readEntry (m : Memory) (base e : Nat) : Replay :=
  let b := base + 1024 + 640 * e
  let n := readNat m (b + 21) 1
  let tags := readNat m (b + 22) 2 + 65536 * readNat m (b + 30) 1
  let slot := fun (k : Nat) => (List.range 32).map fun t =>
    (⟨BitVec.ofNat 32 (readNat m (if k < 4 then b + 64 + 128 * k + 4 * t else base + 6144 + 256 * e + 128 * (k - 4) + 4 * t) 4),
      BitVec.ofNat 4 (tags / 16 ^ k)⟩ : Reg)
  ⟨BitVec.ofNat 64 (readNat m b 8), BitVec.ofNat 32 (readNat m (b + 8) 4), BitVec.ofNat 32 (readNat m (b + 12) 4),
   BitVec.ofNat 32 (readNat m (b + 16) 4), readNat m (b + 20) 1, (List.range (min n 6)).map slot,
   BitVec.ofNat 4 (readNat m (b + 28) 1), readNat m (b + 29) 1, 0⟩

/-- A PC after a stop keeps its clause when it still names a word of it (R334). -/
def keepClause (c : Option (Dword × Word)) (pc : Dword) : Option (Dword × Word) :=
  match c with
  | none => none
  | some (h, w) => if h.toNat < pc.toNat && pc.toNat ≤ h.toNat + 4 * (w.extractLsb' 28 4).toNat then c else none

/-- The debugger is attached to the context of a group (R293). -/
def attachedTo (s : State) (g : Group) : Bool := s.dbg.enabled && contextOf s g = (s.dbg.fn, s.dbg.q)

/-- The context of a group is being pre-empted: a group that is stopped stays so until it has been saved (R143, R161). -/
def preempting (s : State) (g : Group) : Bool :=
  match find? s.queues (4096 * (contextOf s g).1 + (contextOf s g).2) with
  | some x => x.preempt.isSome
  | none => false

/-- RETT's status for a slot: 0 can resume, 1 no stopped group, 2 the frame's lanes, flags or count changed, 3 a cause is unserved (R489). -/
def resumeStatus (s : State) (cid slot : Nat) : Nat :=
  match groupOf s cid slot with
  | none => 1
  | some g =>
    match g.stop with
    | none => 1
    | some st =>
      let n := readNat s.mem (st.frame + 24) 4
      if !(n == st.entries.length) ||
         !((List.range n).all fun e => (st.entries[e]?) = some ((readEntry s.mem st.frame e).lanes, (readEntry s.mem st.frame e).flag)) then 2
      else if (st.halted && s.dbg.halt && attachedTo s g) || !st.faults.isEmpty || preempting s g then 3
      else 0

/-- Resume a stopped group through its frame (R154): PCs, marks and modulo registers come back from the frame, and the entries wait to run
before any thread issues; a COMMIT that had waited is tried again.  Nothing happens unless `resumeStatus` is 0. -/
def resumeGroup (s : State) (cid slot : Nat) : State :=
  if !(resumeStatus s cid slot == 0) then s else
    match groupOf s cid slot with
    | none => s
    | some g =>
      match g.stop with
      | none => s
      | some st =>
        let m := s.mem
        let b := st.frame
        let yields := BitVec.ofNat 32 (readNat m (b + 352) 4)
        let q := (List.range (readNat m (b + 24) 4)).map fun e => { readEntry m b e with seq := nth 0 st.seqs e }
        let g1 := { g with
          threads := (List.range 32).map fun t =>
            let th := threadOf g t
            let pc := BitVec.ofNat 64 (readNat m (b + 64 + 8 * t) 8)
            { th with pc := pc, clause := keepClause th.clause pc, passed := readNat m (b + 320 + t) 1,
                      yielded := yields.getLsbD t, held := false }
          modulo := (List.range 8).map fun k => (readNat m (b + 368 + 8 * k) 4 % 2 ^ 19, readNat m (b + 372 + 8 * k) 4 % 2 ^ 19)
          replayQ := q
          stop := none }
        ((List.range 32).filter fun t => (threadOf g1 t).wait = .commit).foldl
          (fun s t => dueOnce s .commitPoint { n0 := cid, n1 := slot, n2 := t }) (setGroup s cid slot g1)

/-! ## The checks of an instruction (R351, R446, R450) -/

/-- Instructions that abort a region with FORBIDDEN, which the opcode alone decides (R390, R437, R446). -/
def forbidden : Instr → Bool
  | .reggrow .. => true
  | .regshrink .. => true
  | .reorder .. => true
  | .exit .. => true
  | .ldsWait .. => true
  | .ldsWaitLit .. => true
  | .ldsWaitClr .. => true
  | .ldsWaitClrLit .. => true
  | .ldsWaitFmt .. => true
  | .stsSet .. => true
  | .stsSetLit .. => true
  | .modset .. => true
  | .copyG2s .. => true
  | .copyS2g .. => true
  | .copyG2g .. => true
  | .gather .. => true
  | .scatter .. => true
  | .barSync .. => true
  | .barArrive .. => true
  | .barWait .. => true
  | .barInit .. => true
  | .cvset .. => true
  | .cvsetMask .. => true
  | .cvwait .. => true
  | .cvrd .. => true
  | .pipePut .. => true
  | .pipeGet .. => true
  | .qsig .. => true
  | .qwait .. => true
  | .mma .. => true
  | .mmaSp .. => true
  | .mrsv .. => true
  | .mrel .. => true
  | .mrdF32 .. => true
  | .mrdS32 .. => true
  | .mwr .. => true
  | .mzero .. => true
  | .trace .. => true
  | .traceEmit .. => true
  | .asbuild .. => true
  | .asbuildUpdate .. => true
  | .asrefit .. => true
  | .asretire .. => true
  | .launch .. => true
  | .emit .. => true
  | .trap .. => true
  | .bkpt .. => true
  | .rett .. => true
  | .grd .. => true
  | .gwr .. => true
  | .evwait .. => true
  | _ => false

/-- Privileged instructions (R346). -/
def privileged : Instr → Bool
  | .rett .. => true
  | .grd .. => true
  | .gwr .. => true
  | .evwait .. => true
  | _ => false

/-- Instructions that name a traversal unit or a builder (R346). -/
def needsRays : Instr → Bool
  | .trace .. => true
  | .traceEmit .. => true
  | .asbuild .. => true
  | .asbuildUpdate .. => true
  | .asrefit .. => true
  | .asretire .. => true
  | _ => false

/-- Words an instruction takes in its clause. -/
def lengthOf (i : Instr) : Nat := (encode i).length

/-- Steps 5 to 7 of R351: the trap they raise, if any. -/
def staticTrap (s : State) (g : Group) (i : Instr) : Option Nat :=
  if privileged i && !g.supervisor then some 0x0A
  else if needsRays i && !hasRays s then some 0x09
  else if (namedRegs i).any fun v => regBound g ≤ v then some 0x04
  else none

/-- Entries of the register-write log an instruction would add for a thread (R442). -/
def logNeed (g : Group) (i : Instr) (t : Nat) : Nat :=
  match (threadOf g t).region with
  | none => 0
  | some r => ((dedup (destRegs i)).filter fun v => !(r.quad ≤ v && v < r.quad + 4) && !(r.log.any fun e => e.1 == v)).length

/-- The lanes in a region whose log would pass its 32 entries (R442). -/
def logFull (g : Group) (i : Instr) (e : Lanes) : Lanes :=
  laneSet ((lanesOf (regionLanes g e)).filter fun t =>
    match (threadOf g t).region with
    | some r => 32 < r.log.length + logNeed g i t
    | none => false)

/-- Lanes of E whose thread still stands at the issue's instruction: an abort takes a partner away from it (R449). -/
def stillThere (s : State) (e : Lanes) : Lanes :=
  if s.iss.replay then e else
    match issGroup s with
    | none => 0#32
    | some g => if g.stop.isSome then 0#32 else laneSet ((lanesOf e).filter fun t => (threadOf g t).pc = s.iss.pc)

/-- The checks before step 8 (R351 steps 5 to 7, R450 parts 2 to 4): the state after any abort or trap, and the lanes that go on.  `scope` makes the
aborts with SCOPE, which come before REGLOG. -/
def screenWith (scope : State × Lanes → State × Lanes) (i : Instr) (s : State) (g : Group) : State × Lanes :=
  let e := s.iss.lanes
  let cid := s.iss.cid
  let slot := s.iss.slot
  let bad := if forbidden i then regionLanes g e else 0#32
  let s1 := abortLanes s cid slot bad 0x0A 0 0#64
  let e1 := stillThere s1 (e &&& ~~~bad)
  if e1 = 0#32 then (s1, 0#32) else
    match staticTrap s1 g i with
    | some code => (takeTrap s1 cid slot code 0 e1, 0#32)
    | none =>
      let p := scope (s1, e1)
      let full := logFull g i p.2
      let s2 := abortLanes p.1 cid slot full 0x05 0 0#64
      (s2, stillThere s2 (p.2 &&& ~~~full))

/-- The checks before step 8 of an instruction that has no cause for SCOPE. -/
def screen (i : Instr) (s : State) (g : Group) : State × Lanes := screenWith (fun p => p) i s g

/-- An operand check of step 8: lanes that fail it either abort their region with FAULT or trap (R413, R447). `soft` marks the traps that
inside a region abort without being taken: MISALIGN, PAGE_FAULT, ECC_UNCORRECTABLE and ENGINE_FAULT. -/
def operandCheck (code : Nat) (soft : Bool) (bad : Group → Nat → Option Nat) (p : State × Lanes) : State × Lanes :=
  let s := p.1
  if p.2 = 0#32 then p else
    match issGroup s with
    | none => (s, 0#32)
    | some g =>
      let failing := (lanesOf p.2).filter fun t => (bad g t).isSome
      if failing.isEmpty then p else
        let hard := failing.filter fun t => !(soft && inRegion g t)
        if hard.isEmpty then
          let s1 := failing.foldl (fun s t => abortThread s s.iss.cid s.iss.slot t 6 code (BitVec.ofNat 64 ((bad g t).getD 0))) s
          (s1, stillThere s1 (p.2 &&& ~~~(laneSet failing)))
        else (takeTrap s s.iss.cid s.iss.slot code ((bad g (hard.headD 0)).getD 0) (laneSet hard), 0#32)

/-- Remember an issue made by threads inside regions (R302). -/
def noteSpec (e : Lanes) (g : Group) : Group :=
  if regionLanes g e = e && !(e = 0#32) then { g with specIssues := g.specIssues ++ [e] } else g

/-- The frame of every instruction: no group is a fault of the model; otherwise the checks run, and `k` acts on the lanes that pass. -/
def issueOn (i : Instr) (s : State) (k : State → Lanes → State) : Out :=
  match issGroup s with
  | none => .fault .noGroup
  | some g =>
    let p := screen i s g
    .next (if p.2 = 0#32 then p.1 else k p.1 p.2)

/-- The same for an instruction that a region may abort with SCOPE. -/
def issueScoped (scope : State × Lanes → State × Lanes) (i : Instr) (s : State) (k : State → Lanes → State) : Out :=
  match issGroup s with
  | none => .fault .noGroup
  | some g =>
    let p := screenWith scope i s g
    .next (if p.2 = 0#32 then p.1 else k p.1 p.2)

/-- Change the issuing group. -/
def onGroup (s : State) (f : Group → Group) : State := modGroup s s.iss.cid s.iss.slot f

/-- Write, for each lane of E, the registers that `f` gives from the group as it stood before (R365), and move on. -/
def writeBack (iss : Issue) (words : Nat) (e : Lanes) (f : Group → Nat → List (Nat × Reg)) (g : Group) : Group :=
  advance iss words e ((lanesOf e).foldl (fun h t => (f g t).foldl (fun h w => writeReg h t w.1 w.2) h) (noteSpec e g))

/-- An instruction that computes registers from registers at issue (R365, R392): every source is read before any destination is written, each register
written in a region counts in the thread's log (R411), and nothing goes into a replay queue. -/
def compute (i : Instr) (s : State) (f : Group → Nat → List (Nat × Reg)) : Out :=
  issueOn i s fun s e => onGroup s (writeBack s.iss (lengthOf i) e f)

/-! ## Unfinished instructions -/

/-- Log the registers an instruction will write later, for the lanes in a region (R442, R443). -/
def logDests (i : Instr) (e : Lanes) (g : Group) : Group :=
  (lanesOf (regionLanes g e)).foldl (fun g t => (destRegs i).foldl (fun g v => writeReg g t v (regOf g t v)) g) g

/-- Begin an unfinished instruction over E (R140): capture its sources (R152), attach its flag, and keep the effective addresses. -/
def beginOp (i : Instr) (s : State) (e : Lanes) (addr : Nat → Dword) : Nat × State :=
  let (id, s) := takeId s
  let iss := s.iss
  (id, onGroup s fun g =>
    let o : Op := { id := id, instr := i, word := iss.word, lit := iss.lit, pc := iss.pc, lanes := e, todo := e, flag := iss.flag,
                    slots := (captured i).map fun v => (List.range 32).map fun t => srcReg iss g t v,
                    addrs := (List.range 32).map addr, inTry := regionLanes g e, faulted := 0#32, sent := false, isWalked := false,
                    phase := iss.phase, aux := 0, seq := if iss.replay then iss.seq else id }
    let g := logDests i e (noteSpec e g)
    let g := { g with ops := g.ops ++ [o] }
    attachIssue iss g)

/-- The unfinished instruction of an identifier. -/
def opOf (g : Group) (id : Nat) : Option Op := g.ops.find? fun o => o.id == id

/-- Change an unfinished instruction. -/
def modOp (g : Group) (id : Nat) (f : Op → Op) : Group := { g with ops := g.ops.map fun o => if o.id == id then f o else o }

/-- Lanes of an unfinished instruction are done; with none left it is finished and its flag completes when `complete` says so. -/
def finishLanes (g : Group) (id : Nat) (e : Lanes) (complete : Bool) : Group :=
  match opOf g id with
  | none => g
  | some o =>
    let todo := o.todo &&& ~~~e
    let g := wakeOp id e g
    if todo = 0#32 then
      let g := { g with ops := g.ops.filter fun x => !(x.id == id) }
      if complete then completeFlag g o.flag else g
    else modOp g id fun o => { o with todo := todo }

/-- What an unfinished instruction reads of register v in lane t: its captured slot, or the register when it captured none (R152). -/
def opReg (g : Group) (o : Op) (t v : Nat) : Reg :=
  if o.slots.isEmpty then regOf g t v else
    match ((captured o.instr).zip o.slots).find? fun p => p.1 == v with
    | some p => nth Reg.zero p.2 t
    | none => regOf g t v

/-- Write a result of an unfinished instruction in one lane; the log of a region took the old value at issue. -/
def writeResult (g : Group) (t : Nat) (rs : List (Nat × Reg)) : Group := rs.foldl (fun g w => setReg g t w.1 w.2) g

end Sys2Proof.Machine
end

