-- ==== Sys2Proof/Machine/Tokens.lean ====
section
/-! DEFINITION.  Token coherence (R164, R165, R190 to R218): physical ranges, agents, token messages, transient and persistent requests,
the token-out table, drain writes, partial tokens, the census, and the host's part. -/

namespace Sys2Proof.Machine

/-! ## The physical map (R164, R165) -/

/-- Tier of a physical address: 0 near, 1 far, 2 host window, 3 peer window; none when no range lists it (R164). -/
def tierOf (s : State) (pa : Nat) : Option Nat :=
  if pa < 0x1000000000 then some 0
  else if pa < 0x2000000000 then (if dieCount s == 2 then some 0 else none)
  else if pa < 0x6000000000 then some 1
  else if pa < 0xA000000000 then (if dieCount s == 2 then some 1 else none)
  else if 0x4000000000000 ≤ pa && pa < 0x8000000000000 then some 2
  else if 0x8000000000000 ≤ pa && pa < 0x10000000000000 then some 3
  else none

/-- The peer device a peer-window address names (R164). -/
def peerDevice (pa : Nat) : Nat := pa / 2 ^ 43 % 256

/-- Peer ports of the variant (R1, R23). -/
def portCount (s : State) : Nat := if s.variant = .k480 then 6 else 12

/-- The port that reaches a peer device. -/
def portFor (s : State) (dev : Nat) : Nat := Config.peerPort dev % portCount s

/-- A peer port is up: state 1 (R36). -/
def portUp (s : State) (port : Nat) : Bool := look 0 s.platform.ports port == 1

/-- Home die of a physical address (R165). -/
def homeDie (s : State) (pa : Nat) : Nat :=
  match tierOf s pa with
  | some 0 => if pa < 0x1000000000 then 0 else 1
  | some 1 => if pa < 0x6000000000 then 0 else 1
  | some 3 => if portFor s (peerDevice pa) < 6 then 0 else 1
  | _ => 0

/-- The line is in the host window. -/
def hostLine (s : State) (line : Nat) : Bool := tierOf s (128 * line) == some 2

/-! ## Agents (R194) -/

/-- The L1 of a core. -/
def l1Agent (cid : Nat) : Nat := 512 * (cid / 128) + cid % 128
/-- The L1 TLB of a core. -/
def tlbAgent (cid : Nat) : Nat := 512 * (cid / 128) + 128 + cid % 128
/-- The matrix engine of a pier. -/
def matrixAgent (p : Nat) : Nat := 512 * (p / 32) + 256 + p % 32
/-- The traversal unit of a pier. -/
def rayAgent (p : Nat) : Nat := 512 * (p / 32) + 288 + p % 32
/-- The transfer engine of a pier. -/
def transferAgent (p : Nat) : Nat := 512 * (p / 32) + 320 + p % 32
/-- The L2 TLB of a pier. -/
def tlb2Agent (p : Nat) : Nat := 512 * (p / 32) + 352 + p % 32
/-- The walk cache of a pier. -/
def walkAgent (p : Nat) : Nat := 512 * (p / 32) + 384 + p % 32
/-- A builder of a die. -/
def builderAgent (die k : Nat) : Nat := 512 * die + 416 + k % 4
/-- The swap engine of a die. -/
def swapAgent (die : Nat) : Nat := 512 * die + 420
/-- The compactor of a die. -/
def compactorAgent (die : Nat) : Nat := 512 * die + 421
/-- The pool front end of a die. -/
def poolAgent (die : Nat) : Nat := 512 * die + 422
/-- The placement unit of a die. -/
def placerAgent (die : Nat) : Nat := 512 * die + 423
/-- The host gateway of a die (R22). -/
def gateway (die : Nat) : Nat := 512 * die + 424
/-- The peer gateway of a die. -/
def peerGateway (die : Nat) : Nat := 512 * die + 425
/-- The home slice of a line (R165). -/
def homeAgent (s : State) (line : Nat) : Nat := 512 * homeDie s (128 * line) + 426 + line % 48
/-- An L2 slice, as home. -/
def isHome (a : Nat) : Bool := 426 ≤ a % 512 && a % 512 < 474
/-- An L1 TLB, an L2 TLB or a walk cache. -/
def isTranslation (a : Nat) : Bool := (128 ≤ a % 512 && a % 512 < 256) || (352 ≤ a % 512 && a % 512 < 416)
/-- An engine that gathers destination lines: matrix and transfer engines, builders, swap engine, compactor, pool front end and placement
unit (R210). -/
def isEngine (a : Nat) : Bool :=
  (256 ≤ a % 512 && a % 512 < 288) || (320 ≤ a % 512 && a % 512 < 352) || (416 ≤ a % 512 && a % 512 < 424)
/-- The die of an agent. -/
def agentDie (a : Nat) : Nat := a / 512
/-- The core of an L1 agent. -/
def l1Core (a : Nat) : Option Nat := if a % 512 < 128 then some (128 * agentDie a + a % 512) else none

/-! ## Lines and holders -/

/-- The token state of a line. -/
def lineOf (s : State) (line : Nat) : LineRec := look LineRec.atHome s.coherence.lines line

/-- Set the token state of a line. -/
def setLine (s : State) (line : Nat) (r : LineRec) : State :=
  { s with coherence := { s.coherence with lines := store LineRec.atHome s.coherence.lines line r } }

/-- What an agent holds of a line. -/
def holderOf (r : LineRec) (a : Nat) : Holder := (r.holders.find? fun h => h.agent == a).getD ⟨a, 0, false, false, false, none⟩

/-- Set what an agent holds. -/
def setHolder (r : LineRec) (h : Holder) : LineRec :=
  let rest := r.holders.filter fun x => !(x.agent == h.agent)
  { r with holders := if h.count == 0 && h.part.isNone then rest else insertBy (fun a b => a.agent ≤ b.agent) h rest }

/-- An agent may read a line (R191). -/
def mayRead (s : State) (a line : Nat) : Bool := let h := holderOf (lineOf s line) a; 1 ≤ h.count && h.valid && h.part.isNone

/-- An agent may write a line (R191). -/
def mayWrite (s : State) (a line : Nat) : Bool := let h := holderOf (lineOf s line) a; h.count == 1024 && h.part.isNone

/-- The wrong symbols of a line in memory, as a mask of its 64 symbols of 16 bits (R19). -/
def wrongSymbols (s : State) (line : Nat) : Nat := look 0 s.coherence.symbols line

/-- ECC detects an error that it cannot correct: two or more symbols of the line are wrong (R19). -/
def uncorrectable (s : State) (line : Nat) : Bool :=
  2 ≤ ((List.range 64).filter fun k => (wrongSymbols s line).testBit k).length

/-- A line that delivers ECC_UNCORRECTABLE to whoever reads it: its memory data are uncorrectable, or it is poisoned (R19, R217). -/
def poisoned (s : State) (line : Nat) : Bool := (find? s.coherence.poison line).isSome || uncorrectable s line

/-- Set the poison of a line: none, or the mask of the bytes written since. -/
def setMask (s : State) (line : Nat) (m : Option Nat) : State :=
  { s with coherence := { s.coherence with poison := match m with | some x => place s.coherence.poison line x | none => erase s.coherence.poison line } }

/-- Write anew the ECC of a line: its symbols are right again (R19). -/
def clearSymbols (s : State) (line : Nat) : State := { s with coherence := { s.coherence with symbols := erase s.coherence.symbols line } }

/-- A whole-line write clears the poison (R217). -/
def clearPoison (s : State) (line : Nat) : State := clearSymbols (setMask s line none) line

/-- Mark a line poisoned: none of its bytes has been written since. -/
def setPoison (s : State) (line : Nat) : State := setMask s line (some 0)

/-- Bytes of a line have been written: one wrong symbol is corrected as the line is written back (R19); a poisoned line stays so until
every byte of it has been written (R217). -/
def noteWritten (s : State) (pa n : Nat) : State :=
  let line := pa / 128
  if !(poisoned s line) then (if wrongSymbols s line == 0 then s else clearSymbols s line)
  else
    let m := look 0 s.coherence.poison line ||| ((2 ^ n - 1) <<< (pa % 128)) % 2 ^ 128
    if m == 2 ^ 128 - 1 then clearPoison s line else clearSymbols (setMask s line (some m)) line

/-- Write bytes of one line of memory. -/
def writeLineBytes (s : State) (pa : Nat) (b : List Byte) : State := noteWritten { s with mem := writeBytes s.mem pa b } pa b.length

/-! ## Token messages (R192, R193) -/

/-- Send a token message: it is in flight until its TOKEN_MESSAGE step. -/
def sendMsg (s : State) (m : TokenMsg) : State :=
  let (id, s) := takeId s
  due { s with coherence := { s.coherence with net := s.coherence.net ++ [{ m with id := id }] } } .tokenMessage { n0 := id }

/-- An agent sends some of its tokens; the keystone, with data and dirty bit, goes when `key` says so (R193). -/
def sendSome (s : State) (a line toward n : Nat) (key : Bool) : State :=
  let r := lineOf s line
  let h := holderOf r a
  let key := key && h.keystone
  let h1 := { h with count := h.count - n, keystone := h.keystone && !key, dirty := h.dirty && !key,
                     valid := h.valid && !(h.count - n == 0), part := none }
  sendMsg (setLine s line (setHolder r h1))
    ⟨0, line, a, toward, n, key, h.valid && (key || !(isHome toward)), key && h.dirty, h.part.isSome, h.part.getD []⟩

/-- An agent sends every token it holds of a line. -/
def sendAll (s : State) (a line toward : Nat) : State :=
  let h := holderOf (lineOf s line) a
  if h.count == 0 then s else sendSome s a line toward h.count true

/-- The home sends some of its tokens; the data goes with the keystone, and with every answer the home can give data for. -/
def homeSend (s : State) (line toward n : Nat) (key part : Bool) : State :=
  let r := lineOf s line
  if n == 0 then s else
    let key := key && r.homeKey
    sendMsg (setLine s line { r with home := r.home - n, homeKey := r.homeKey && !key, dirty := r.dirty && !key })
      ⟨0, line, homeAgent s line, toward, n, key, r.homeKey && !part, key && r.dirty, part, []⟩

/-! ## Losing tokens: translation caches (R180) and try regions (R453) -/

/-- Lines that some entry of a TLB depends on. -/
def tlbDeps (es : List TlbEntry) : List Nat := dedup (es.flatMap (·.deps))
/-- Lines that some entry of a walk cache depends on. -/
def walkDeps (es : List WalkEntry) : List Nat := dedup (es.flatMap (·.deps))

/-- Lines of the tables through which a core has translated the stores that wait in its store buffer; a store to a table line does not wait for
itself (R180). -/
def sbDeps (c : Core) : List Nat := dedup (c.sb.flatMap fun e => e.deps.filter fun l => !(l == e.addr / 128))

/-- Stores already translated through a line by the core of an L1 TLB are still to be performed (R180). -/
def sbNeeds (s : State) (a line : Nat) : Bool :=
  128 ≤ a % 512 && a % 512 < 256 && (sbDeps (coreOf s (128 * agentDie a + a % 512 - 128))).contains line

/-- Return the tokens of the lines that no remaining entry needs (R180, R182). -/
def returnTokens (s : State) (a : Nat) (before after : List Nat) : State :=
  (before.filter fun l => !(after.contains l)).foldl (fun s l => sendAll s a l (homeAgent s l)) s

/-- Lines that an L1 TLB needs: those of its entries, and those of the translations its core's buffered stores have had. -/
def tlbNeeds (c : Core) : List Nat := tlbDeps c.tlb ++ sbDeps c

/-- Change the entries of a core's L1 TLB, and return the tokens that nothing needs any more. -/
def setTlb (s : State) (cid : Nat) (es : List TlbEntry) : State :=
  let before := tlbNeeds (coreOf s cid)
  let s1 := modCore s cid fun c => { c with tlb := es }
  returnTokens s1 (tlbAgent cid) before (tlbNeeds (coreOf s1 cid))

/-- An entry leaves the store buffer of a core, and the core's L1 TLB returns the tokens that nothing needs any more (R180, R222). -/
def dropStore (s : State) (cid id : Nat) : State :=
  let before := tlbNeeds (coreOf s cid)
  let s1 := modCore s cid fun c => { c with sb := c.sb.filter fun e => !(e.id == id) }
  returnTokens s1 (tlbAgent cid) before (tlbNeeds (coreOf s1 cid))

/-- A core's L1 TLB keeps only the entries that `keep` names. -/
def keepTlb (s : State) (cid : Nat) (keep : TlbEntry → Bool) : State := setTlb s cid ((coreOf s cid).tlb.filter keep)

/-- A pier's L2 TLB keeps only the entries that `keep` names. -/
def keepTlb2 (s : State) (p : Nat) (keep : TlbEntry → Bool) : State :=
  let es := (pierOf s p).tlb
  let es' := es.filter keep
  returnTokens (modPier s p fun x => { x with tlb := es' }) (tlb2Agent p) (tlbDeps es) (tlbDeps es')

/-- A pier's walk cache keeps only the entries that `keep` names. -/
def keepWalks (s : State) (p : Nat) (keep : WalkEntry → Bool) : State :=
  let es := (pierOf s p).walks
  let es' := es.filter keep
  returnTokens (modPier s p fun x => { x with walks := es' }) (walkAgent p) (walkDeps es) (walkDeps es')

/-- The regions of the instance that a region belongs to (R445). -/
def instanceOf (g : Group) (r : Region) : List Region :=
  if r.isGroup then g.threads.filterMap fun th => th.region.bind fun q => if q.isGroup && q.instance_ == r.instance_ then some q else none
  else [r]

/-- The lines of the write set of a region's instance, in ascending order (R442, R455). -/
def instanceLines (g : Group) (r : Region) : List Nat :=
  sortBy (· ≤ ·) (dedup ((instanceOf g r).flatMap fun q => (q.writes.filter fun w => !w.scratch).map fun w => w.addr / 128))

/-- The instance of a region gathers its write set: every member has executed its outermost COMMIT, and the release wait is over (R455). -/
def gathersSet (g : Group) (r : Region) : Bool := (instanceOf g r).all fun q => q.committing && q.rel.isNone

/-- The write sets that the groups of an L1's core are committing. -/
def committing (s : State) (a : Nat) : List (List Nat) :=
  match l1Core a with
  | none => []
  | some cid => (coreOf s cid).groups.flatMap fun p => p.2.threads.filterMap fun th =>
      th.region.bind fun r => if gathersSet p.2 r then some (instanceLines p.2 r) else none

/-- A COMMIT of the core whose group holds every token of its write set is about to write the line: it defers a request (R205, R455). -/
def commitHolds (s : State) (a line : Nat) : Bool := (committing s a).any fun ls => ls.contains line && ls.all (mayWrite s a)

/-- An agent may put off giving up a line for an active request: a translation cache until the accesses translated through the line are performed,
a group that publishes its write set, a core whose drain write the home has (R180, R205). -/
def defersLoss (s : State) (a line toward : Nat) : Bool :=
  commitHolds s a line || sbNeeds s a line ||
  (!(isHome toward) && s.coherence.drains.any fun d => l1Agent d.1 == a && d.2.1 / 128 == line)

/-- A COMMIT of the core has gathered the line, and every lower one of its set: it keeps them against transient requests (R214). -/
def commitGathers (s : State) (a line : Nat) : Bool := (committing s a).any fun ls => (ls.takeWhile (mayWrite s a)).contains line

/-- The regions of a core whose load set holds a line abort with CONFLICT, except those of the threads `spare` names (R453). -/
def conflict (s : State) (cid line : Nat) (spare : Nat → Nat → Bool) : State :=
  ((coreOf s cid).groups.flatMap fun p => (List.range 32).filterMap fun t =>
      match (threadOf p.2 t).region with
      | some r => if r.loads.contains line && !(spare p.1 t) then some (p.1, t) else none
      | none => none).foldl
    (fun s q => match (groupOf s cid q.1).bind fun g => (threadOf g q.2).region with
      | some r => if r.loads.contains line then abortThread s cid q.1 q.2 2 0 0#64 else s
      | none => s) s

/-- The load set of some region of the core holds the line (R452). -/
def inLoadSet (s : State) (a line : Nat) : Bool :=
  match l1Core a with
  | none => false
  | some cid => (coreOf s cid).groups.any fun p => (loadLines p.2).contains line

/-- The WAIT_TOKENs whose agent held a token of a line on a core read their value again (R87). -/
def recheckTokens (s : State) (cid line : Nat) : State :=
  s.queues.foldl (fun s q =>
    (q.2.recs.filter fun r => r.cid == cid && r.watch == some line).foldl
      (fun s r => dueOnce s .waitTokenRecheck { n0 := q.1 / 4096, n1 := q.1 % 4096, n2 := r.n }) s) s

/-- What follows when an agent has lost every token of a line. -/
def onLoss (s : State) (a line : Nat) : State :=
  let i := a % 512
  let d := agentDie a
  if i < 128 then recheckTokens (conflict s (128 * d + i) line fun _ _ => false) (128 * d + i) line
  else if i < 256 then keepTlb s (128 * d + i - 128) fun e => !(e.deps.contains line)
  else if 288 ≤ i && i < 320 then
    ((pierOf s (32 * d + i - 288)).rays.filter fun r => r.watch.contains line).foldl
      (fun s r => dueOnce s .fenceRecheck { n0 := 32 * d + i - 288, n1 := r.id }) s
  else if 352 ≤ i && i < 384 then keepTlb2 s (32 * d + i - 352) fun e => !(e.deps.contains line)
  else if 384 ≤ i && i < 416 then keepWalks s (32 * d + i - 384) fun e => !(e.deps.contains line)
  else s

/-- An agent gives up every token of a line to another agent, with what follows from the loss (R180, R198, R453). -/
def giveAll (s : State) (a line toward : Nat) : State :=
  if (holderOf (lineOf s line) a).count == 0 then s else onLoss (sendAll s a line toward) a line

/-! ## The tables of persistent requests (R203, R204) -/

/-- The persistent-request table of a die (R203). -/
def tableOf (s : State) (die : Nat) : List PReq := look [] s.coherence.tables die
/-- Set a table. -/
def setTable (s : State) (die : Nat) (t : List PReq) : State :=
  { s with coherence := { s.coherence with tables := place s.coherence.tables die t } }
/-- The mirror of active requests that the agents of a die keep. -/
def mirrorOf (s : State) (die line : Nat) : Option Mirror := (look [] s.coherence.mirrors die).find? fun m => m.line == line
/-- Set the mirror entry of a line on a die. -/
def setMirror (s : State) (die : Nat) (m : Mirror) : State :=
  { s with coherence := { s.coherence with
      mirrors := place s.coherence.mirrors die ((look [] s.coherence.mirrors die).filter (fun x => !(x.line == m.line)) ++ [m]) } }
/-- Requests ordered by age, then agent (R203). -/
def olderReq (a b : PReq) : Bool := a.age < b.age || (a.age == b.age && a.requester < b.requester)
/-- The oldest waiting request of a die's table for a line. -/
def oldestFor (s : State) (die line : Nat) : Option PReq :=
  (sortBy (fun a b => olderReq a b) ((tableOf s die).filter fun p => p.line == line && !p.active)).head?
/-- A request for the line is active in a die's table. -/
def activeIn (s : State) (die line : Nat) : Option PReq := (tableOf s die).find? fun p => p.line == line && p.active

/-- Activation number a is higher than b (R204). -/
def higher (a b : Nat) : Bool := let d := (a + 256 - b) % 256; 1 ≤ d && d ≤ 127

/-- The active request for a line is this agent's (R203, R204). -/
def activeFor (s : State) (a line : Nat) : Bool := (tableOf s (agentDie a)).any fun p => p.line == line && p.requester == a && p.active

/-- The agent to which an active request calls the tokens: a PARTIAL gathers them at the home, which then gives out a partial one (R215). -/
def callsTo (s : State) (p : PReq) : Nat := if p.kind = .part then homeAgent s p.line else p.requester

/-- Make a request of a die's table active: the next activation number, and activate to every agent of both dies (R204). -/
def activateReq (s : State) (die : Nat) (p : PReq) : State :=
  let r := lineOf s p.line
  let n := (r.number + 1) % 256
  let s1 := setLine s p.line { r with number := n }
  let s2 := setTable s1 die ((tableOf s1 die).map fun q =>
    if q.line == p.line && q.requester == p.requester then { q with active := true, number := n } else q)
  (List.range (dieCount s)).foldl (fun s d => due s .activate { n0 := d, n1 := p.line, n2 := callsTo s p, n3 := n }) s2

/-! ## Requests (R201, R202) -/

/-- The outstanding request of an agent for a line. -/
def reqOf (s : State) (a line : Nat) : Option Req := s.coherence.reqs.find? fun r => r.agent == a && r.line == line

/-- Set the requests. -/
def setReqs (s : State) (rs : List Req) : State := { s with coherence := { s.coherence with reqs := rs } }

/-- Ask for tokens of a line: a transient request, and the 400 ns in which it may succeed (R201, R202).  An outstanding request of the
agent for the line takes the greater of the two kinds. -/
def request (s : State) (a line : Nat) (k : ReqKind) : State :=
  match reqOf s a line with
  | some r =>
    if r.kind = .write || r.kind = k then s
    else setReqs s (s.coherence.reqs.map fun x => if x.agent == a && x.line == line then { x with kind := k } else x)
  | none =>
    let s1 := setReqs s (s.coherence.reqs ++ [⟨a, line, k, now s, 0, false⟩])
    later (due s1 .transientRequest { n0 := line, n1 := a, kind := k }) 400 .attemptTimeout { n0 := a, n1 := line }

/-- A request has what it needs. -/
def satisfied (s : State) (r : Req) : Bool :=
  if isHome r.agent then (lineOf s r.line).home == 1024 else
    match r.kind with
    | .read => if r.persistent && activeFor s r.agent r.line then mayWrite s r.agent r.line else mayRead s r.agent r.line
    | .write => mayWrite s r.agent r.line
    | .part => (holderOf (lineOf s r.line) r.agent).part.isSome

/-- Drop the satisfied requests for a line; a persistent one reports (R204). -/
def settle (s : State) (line : Nat) : State :=
  let doneOnes := s.coherence.reqs.filter fun r => r.line == line && satisfied s r
  let s1 := setReqs s (s.coherence.reqs.filter fun r => !(r.line == line && satisfied s r))
  doneOnes.foldl (fun s r => if r.persistent then due s .persistentReport { n0 := r.agent, n1 := line } else s) s1

/-- Send the outstanding requests for a line again, when what held them back has ended. -/
def resend (s : State) (line : Nat) : State :=
  (s.coherence.reqs.filter fun r => r.line == line).foldl
    (fun s r => dueOnce s .transientRequest { n0 := line, n1 := r.agent, kind := r.kind }) s

/-- Free bytes: what the outside world puts into a line (log entry 3). -/
def freeBytes (s : State) : Nat → List Byte × State
  | 0 => ([], s)
  | n + 1 =>
    let (v, s) := takeFree s
    let (r, s) := freeBytes s n
    (BitVec.ofNat 8 v :: r, s)

/-- Put a persistent request of an agent into its die's table at once: a home recalls a line, a gateway answers a snoop (R197, R203, R211).  A full
table is met as R207 says. -/
def persist (s : State) (a line : Nat) (k : ReqKind) : State :=
  let die := agentDie a
  if (tableOf s die).any fun p => p.line == line && p.requester == a then s
  else if 64 ≤ (tableOf s die).length then request s a line k
  else
    let s1 := setReqs s ((s.coherence.reqs.filter fun x => !(x.agent == a && x.line == line)) ++ [⟨a, line, k, now s, 2, true⟩])
    due (setTable s1 die (tableOf s1 die ++ [⟨line, a, k, now s, 0, false, false⟩])) .arb { n0 := die, n1 := line, n2 := now s, n3 := a }

/-- The requests for the partial tokens of a line, to be recalled (R216, R240). -/
def recallPartials (s : State) (line : Nat) : State :=
  let r := lineOf s line
  let ps := r.holders.filter fun h => h.part.isSome && !(h.count == 0)
  let s1 := setLine s line { r with recalling := true }
  let s2 := ps.foldl (fun s h => dueOnce s .forwardedRequest { n0 := line, n1 := h.agent, n2 := homeAgent s line, kind := .part }) s1
  if ps.isEmpty && r.home == 1024 then dueOnce s2 .partialCombine { n0 := line } else s2

/-- The line has been used: it is the most recently used one of its token-out table (R197). -/
def noteUse (s : State) (line : Nat) : State :=
  { s with coherence := { s.coherence with recent := line :: s.coherence.recent.filter fun l => !(l == line) && (find? s.coherence.lines l).isSome } }

/-- Bind a line to the set of its home slice's token-out table: the slice takes every 48th line, and its 1,024 sets hold the lines of the
slice in turn (R197; which set a line takes is a choice of the model, log entry 13). -/
def tokenOutSet (line : Nat) : Nat := line / 48 % 1024

/-- Lines of the same slice and set that are not whole at their home, with their keys in the order of the table. -/
def tokenOutRivals (s : State) (line : Nat) : List Nat :=
  (s.coherence.lines.filter fun p =>
    homeAgent s p.1 == homeAgent s line && tokenOutSet p.1 == tokenOutSet line && !(p.2.home == 1024) && !(p.1 == line)).map (·.1)

/-- A line about to leave its home while its set holds 8 other lines waits until the home has recalled all tokens of the least recently used
of them, by a persistent request of its own (R197). -/
def tokenOutWait (s : State) (line a : Nat) : Option State :=
  let rivals := tokenOutRivals s line
  if isHome a || !((lineOf s line).home == 1024) || rivals.length < 8 then none
  else
    let idle := rivals.filter fun l => !(s.coherence.recent.contains l)
    let victim := (idle ++ (s.coherence.recent.filter fun l => rivals.contains l).reverse).headD 0
    some (persist s (homeAgent s victim) victim .write)

/-- SAFE or FATAL: host reads are poisoned, host writes dropped, and no CXL.cache request is made (R41, R52). -/
def memoryClosed (s : State) : Bool := s.trust.life = .safe || s.trust.life = .fatal

/-- What must happen before tokens of a line can be given: a census ends (R217), a partial line is combined (R216), the host gives up a device line it
caches (R212), a host line is obtained for the die of the requester or recalled from the other die (R211), and the line has its entry of the
token-out table (R197).  `none` when nothing is in the way. -/
def obstacle (s : State) (line a : Nat) (forPart : Bool) : Option State :=
  let r := lineOf s line
  if s.coherence.census.contains line && !(isHome a) then some s
  else if r.isPart && !forPart then some (recallPartials s line)
  else if r.isPart && r.recalling then some s
  else if hostLine s line then
    if isHome a || r.hostState == 1 + agentDie a then tokenOutWait s line a
    else if r.hostState == 0 then
      if memoryClosed s || s.agenda.any fun d => d.step = .hostLineObtained && d.args.n1 == line then some s
      else
        let (b, s) := freeBytes s 128
        some (dueOnce s .hostLineObtained { n0 := agentDie a, n1 := line, bytes := b })
    else some (persist s (homeAgent s line) line .write)
  else if r.hostState == 1 then
    if s.out.bisnp.contains line then some s
    else
      let (b, s) := freeBytes s 128
      some (due { s with out := { s.out with bisnp := s.out.bisnp ++ [line] } } .bisnpResponse { n0 := line, bytes := b })
  else tokenOutWait s line a

/-- The home adds a requester to the hint of at most four names (R201). -/
def addHint (hint : List Nat) (a : Nat) : List Nat :=
  if hint.contains a then hint else
    let h := hint ++ [a]
    h.drop (h.length - 4)

/-- An agent has a partial token of a line, or one is on its way to it (R215). -/
def hasPartial (s : State) (line a : Nat) : Bool :=
  (holderOf (lineOf s line) a).part.isSome || s.coherence.net.any fun m => m.line == line && m.toward == a && m.isPart

/-- The home gives a partial token to an agent that has none: of a line in the partial state, or of one whose tokens it has all, which it marks
partial (R215). -/
def grantPartial (s : State) (line a : Nat) : State :=
  let r := lineOf s line
  if r.recalling || hasPartial s line a then s
  else if r.isPart then (if 2 ≤ r.home then homeSend s line a 1 false true else s)
  else if r.home == 1024 then homeSend (setLine s line { r with isPart := true, parts := [] }) line a 1 false true
  else s

/-- The active PARTIAL request for a line (R204, R215). -/
def activePart (s : State) (line : Nat) : Option PReq :=
  (List.range 2).findSome? fun d => (activeIn s d line).bind fun p => if p.kind = .part then some p else none

/-- TRANSIENT_REQUEST: the request of `n1` for line `n0`, of the kind in `kind`, reaches the home (R201, R197, R211, R212, R215). -/
def execTransientRequest (s : State) : Out :=
  let line := s.args.n0
  let a := s.args.n1
  match reqOf s a line with
  | none => .next s
  | some q =>
    if satisfied s q then .next (settle s line) else
      match obstacle s line a (q.kind = .part) with
      | some s' => .next s'
      | none =>
        let s := noteUse s line
        let r := lineOf s line
        let s1 := setLine s line { r with hint := if isHome a then r.hint else addHint r.hint a }
        let forwardTo := fun (s : State) (k : ReqKind) (toward : Nat) =>
          (r.hint.filter fun h => !(h == a)).foldl
            (fun s h => due s .forwardedRequest { n0 := line, n1 := h, n2 := toward, kind := k }) s
        match q.kind with
        | .read =>
          let s2 := if 2 ≤ r.home && r.homeKey && !(isHome a) then homeSend s1 line a 1 false false else s1
          .next (forwardTo s2 .read a)
        | .write =>
          let s2 := if isHome a then s1 else homeSend s1 line a r.home true false
          .next (settle (forwardTo s2 .write a) line)
        | .part =>
          if r.isPart || r.home == 1024 then .next (grantPartial s1 line a)
          else .next (request (forwardTo s1 .write (homeAgent s line)) (homeAgent s line) line .write)

/-- FORWARDED_REQUEST: holder `n1` of line `n0` answers the request of `n2`, of the kind in `kind` (R201, R210, R214, R216, R452). -/
def execForwardedRequest (s : State) : Out :=
  let line := s.args.n0
  let h := s.args.n1
  let toward := s.args.n2
  let r := lineOf s line
  let x := holderOf r h
  if x.count == 0 then .next s
  else if x.part.isSome then
    .next (if s.args.kind = .part then sendAll s h line (homeAgent s line) else s)
  else
    let keeps := commitGathers s h line || (isEngine h && x.count == 1024)
    match s.args.kind with
    | .read =>
      if !x.keystone || !x.valid || keeps then .next s
      else if 2 ≤ x.count then .next (sendSome s h line toward 1 false)
      else if inLoadSet s h line then .next s
      else if sbNeeds s h line then .next (due s .forwardedRequest s.args)
      else .next (giveAll s h line toward)
    | .write =>
      if keeps then .next s
      else if sbNeeds s h line then .next (due s .forwardedRequest s.args)
      else .next (giveAll s h line toward)
    | .part => .next s

/-! ## Persistent requests (R202 to R208) -/

/-- ATTEMPT_TIMEOUT: the attempt of agent `n0` for line `n1` has had its 400 ns: it is sent again, or becomes persistent (R202, R203, R207). -/
def execAttemptTimeout (s : State) : Out :=
  let a := s.args.n0
  let line := s.args.n1
  match reqOf s a line with
  | none => .next s
  | some q =>
    if q.persistent then .next s
    else if satisfied s q then .next (settle s line)
    else
      let q1 := { q with fails := q.fails + 1 }
      let s1 := setReqs s (s.coherence.reqs.map fun x => if x.agent == a && x.line == line then q1 else x)
      let die := agentDie a
      let ripe := fun (x : Req) => 2 ≤ x.fails || 1000 ≤ now s - x.first
      let first := s1.coherence.reqs.all fun x =>
        !(ripe x && !x.persistent && agentDie x.agent == die) || (x.agent == a && x.line == line) || q.first ≤ x.first
      if ripe q1 && first && (tableOf s die).length < 64 then
        let s2 := setReqs s1 (s1.coherence.reqs.map fun x => if x.agent == a && x.line == line then { x with persistent := true } else x)
        let s3 := setTable s2 die (tableOf s2 die ++ [⟨line, a, q.kind, q.first, 0, false, false⟩])
        .next (due s3 .arb { n0 := die, n1 := line, n2 := q.first, n3 := a })
      else .next (later (due s1 .transientRequest { n0 := line, n1 := a, kind := q.kind }) 400 .attemptTimeout { n0 := a, n1 := line })

/-- ARB: the table of die `n0` asks for line `n1`, with its oldest request's age `n2` and requester `n3`; the other table answers GRANT,
or owes it until its own request has finished (R204). -/
def execArb (s : State) : Out :=
  let die := s.args.n0
  let line := s.args.n1
  let other := 1 - die
  if (activeIn s die line).isSome || (oldestFor s die line).isNone then .next s
  else if dieCount s == 1 then .next (due s .grant { n0 := die, n1 := line })
  else
    let busy := (activeIn s other line).isSome ||
      (match oldestFor s other line with
       | some p => p.age < s.args.n2 || (p.age == s.args.n2 && p.requester < s.args.n3)
       | none => false)
    if busy then
      .next { s with coherence := { s.coherence with
        granted := if s.coherence.granted.contains (die, line) then s.coherence.granted else s.coherence.granted ++ [(die, line)] } }
    else .next (due s .grant { n0 := die, n1 := line })

/-- Make the oldest request of a die's table for a line active, unless one is active in either table (R204). -/
def grantTo (s : State) (die line : Nat) : State :=
  if (activeIn s die line).isSome || (activeIn s (1 - die) line).isSome then s else
    match oldestFor s die line with
    | some p => activateReq s die p
    | none => s

/-- GRANT: the table of die `n0` activates its oldest request for line `n1` (R204). -/
def execGrant (s : State) : Out := .next (grantTo s s.args.n0 s.args.n1)

/-- HANDOFF: acts as GRANT for the table of die `n0` and line `n1` (R204). -/
def execHandoff (s : State) : Out := .next (grantTo s s.args.n0 s.args.n1)

/-- The agents of a die send their tokens of a line to the requester of the active request, those that defer aside (R204, R205): the tokens
sent, and whether some agent deferred. -/
def forwardDie (s : State) (die line toward : Nat) : State × Bool :=
  let r := lineOf s line
  let mine := r.holders.filter fun h => agentDie h.agent == die && !(h.agent == toward) && !(h.count == 0) && h.part.isNone
  let defers := mine.filter fun h => defersLoss s h.agent line toward
  let s1 := (mine.filter fun h => !(defersLoss s h.agent line toward)).foldl (fun s h => giveAll s h.agent line toward) s
  let r1 := lineOf s1 line
  let s2 := if homeDie s (128 * line) == die && !(isHome toward) then homeSend s1 line toward r1.home true false else s1
  (s2, !defers.isEmpty)

/-- ACTIVATE: the activate of line `n1` for requester `n2` with number `n3` reaches the agents of die `n0` (R204, R205). -/
def execActivate (s : State) : Out :=
  let die := s.args.n0
  let line := s.args.n1
  let toward := s.args.n2
  let n := s.args.n3
  let stale := match mirrorOf s die line with
    | some m => higher m.number n || (m.number == n && !m.active)
    | none => false
  if stale then .next s else
    let s1 := setMirror s die ⟨line, toward, n, true⟩
    let part := activePart s1 line
    match obstacle s1 line toward part.isSome with
    | some s2 => .next (due s2 .activate s.args)
    | none =>
      let (s2, deferred) := forwardDie s1 die line toward
      let s3 := settle (match part with | some p => grantPartial s2 line p.requester | none => s2) line
      .next (if deferred then due s3 .activate s.args else s3)

/-- A translation cache keeps exactly one token of a line (R179): it returns the others to the home, unless its own request is active. -/
def trimCache (s : State) (a line : Nat) : State :=
  let h := holderOf (lineOf s line) a
  if !(isTranslation a) || h.count < 2 || activeFor s a line then s else sendSome s a line (homeAgent s line) (h.count - 1) true

/-- The translation caches of a die keep one token each of a line (R179). -/
def trimDie (s : State) (die line : Nat) : State :=
  ((lineOf s line).holders.filter fun h => agentDie h.agent == die).foldl (fun s h => trimCache s h.agent line) s

/-- DEACTIVATE: the deactivate of line `n1` with number `n2` reaches the agents of die `n0` (R204). -/
def execDeactivate (s : State) : Out :=
  let die := s.args.n0
  let line := s.args.n1
  let n := s.args.n2
  match mirrorOf s die line with
  | some m =>
    if m.number == n then .next (trimDie (setMirror s die { m with active := false }) die line)
    else if higher n m.number then .next (trimDie (setMirror s die { m with number := n, active := false }) die line)
    else .next s
  | none => .next (setMirror s die ⟨line, 0, n, false⟩)

/-- Deactivate to both dies. -/
def deactivateAll (s : State) (line n : Nat) : State :=
  (List.range (dieCount s)).foldl (fun s d => due s .deactivate { n0 := d, n1 := line, n2 := n }) s

/-- A table's request for a line has finished: the table activates its next one, or hands the line to the other table (R204). -/
def finishReq (s : State) (die line requester number : Nat) : State :=
  let s1 := setTable s die ((tableOf s die).filter fun p => !(p.line == line && p.requester == requester))
  let s2 := deactivateAll s1 line number
  let other := 1 - die
  let s3 := { s2 with coherence := { s2.coherence with granted := s2.coherence.granted.filter fun g => !(g == (other, line)) } }
  match oldestFor s3 die line, oldestFor s3 other line with
  | some p, some q => if olderReq p q then due s3 .grant { n0 := die, n1 := line } else due s3 .handoff { n0 := other, n1 := line }
  | some _, none => due s3 .grant { n0 := die, n1 := line }
  | none, some _ => due s3 .handoff { n0 := other, n1 := line }
  | none, none => s3

/-- The table of a die pays a GRANT it owes, once no request of its own for the line is active or older (R204). -/
def payGrant (s : State) (die line : Nat) : State :=
  let other := 1 - die
  if !(s.coherence.granted.contains (other, line)) || (activeIn s die line).isSome then s
  else
    let paid := { s with coherence := { s.coherence with granted := s.coherence.granted.filter fun g => !(g == (other, line)) } }
    match oldestFor s die line, oldestFor s other line with
    | some p, some q => if olderReq p q then s else due paid .grant { n0 := other, n1 := line }
    | none, some _ => due paid .grant { n0 := other, n1 := line }
    | _, none => paid

/-- The table of a die asks for its oldest request for a line, while none of the line is active in it (R204). -/
def askAgain (s : State) (die line : Nat) : State :=
  match activeIn s die line, oldestFor s die line with
  | none, some p => dueOnce s .arb { n0 := die, n1 := line, n2 := p.age, n3 := p.requester }
  | _, _ => s

/-- PERSISTENT_REPORT: the requester `n0` of line `n1` reports to its table (R204). -/
def execPersistentReport (s : State) : Out :=
  let a := s.args.n0
  let line := s.args.n1
  let die := agentDie a
  match (tableOf s die).find? fun p => p.line == line && p.requester == a with
  | none => .next s
  | some p =>
    if p.active then .next (finishReq s die line a p.number)
    else .next (askAgain (payGrant (setTable s die ((tableOf s die).filter fun q => !(q.line == line && q.requester == a))) die line) die line)

/-! ## Drain writes (R209) -/

/-- The home applies the drain writes it holds for a line: ascending core number, then the order of the store buffer; and acknowledges each to
its core, where the store then counts as performed.  A store to a host line that no die has obtained goes on to the host. -/
def applyDrains (s : State) (line : Nat) : State :=
  let toHost := hostLine s line && (lineOf s line).hostState == 0
  let ds := sortBy (fun a b => a.1 < b.1 || (a.1 == b.1 && a.2.2.1 ≤ b.2.2.1)) (s.coherence.drains.filter fun d => d.2.1 / 128 == line)
  let s1 := { s with coherence := { s.coherence with drains := s.coherence.drains.filter fun d => !(d.2.1 / 128 == line) } }
  let s2 := ds.foldl (fun s d =>
    let entry := (coreOf s d.1).sb.find? fun e => e.id == d.2.2.1
    let s0 := if toHost then { s with out := { s.out with peerWrites := s.out.peerWrites ++ [(d.2.1, d.2.2.2)] } } else writeLineBytes s d.2.1 d.2.2.2
    let s1 := dropStore s0 d.1 d.2.2.1
    match entry with
    | some e => modGroup s1 d.1 e.slot (storeDone e.op)
    | none => s1) s1
  let r := lineOf s2 line
  if toHost then s2 else setLine s2 line { r with dirty := true }

/-- Another request than a drain activation is active for a line. -/
def otherActive (s : State) (line : Nat) : Bool :=
  (List.range (dieCount s)).any fun d => (tableOf s d).any fun p => p.line == line && p.active && !p.drain

/-- Holding every token, the home serves the drain activation of a line and ends it (R209). -/
def serveDrain (s : State) (line : Nat) : State :=
  let die := homeDie s (128 * line)
  if (lineOf s line).home == 1024 && !(otherActive s line) && s.coherence.drains.any fun d => d.2.1 / 128 == line then
    let s1 := applyDrains s line
    match (tableOf s1 die).find? fun p => p.line == line && p.drain with
    | some p =>
      if p.active then finishReq s1 die line p.requester p.number
      else setTable s1 die ((tableOf s1 die).filter fun q => !(q.line == line && q.drain))
    | none => s1
  else s

/-! ## Elements of commutative ranges (R215) -/

/-- Element size of a COMM format: 1 FP32, 2 BF16, 3 INT32, 4 INT64. -/
def commBytes (f : Nat) : Nat := if f == 2 then 2 else if f == 4 then 8 else 4

/-- What every element of a fresh partial accumulator starts at: -0.0 for float formats, 0 for integer formats (R215). -/
def commZero (f : Nat) : Nat := if f == 1 then 2 ^ 31 else if f == 2 then 2 ^ 15 else 0

/-- Add two elements of a COMM format: RNE for floats, wrapping for integers (R215). -/
def commAdd (f a b : Nat) : Nat :=
  if f == 1 then faddEnc fp32 .rne a b
  else if f == 2 then faddEnc bf16 .rne a b
  else (a + b) % 2 ^ (8 * commBytes f)

/-- A fresh accumulator for a line. -/
def freshPart (f : Nat) : List Byte := (List.range (128 / commBytes f)).flatMap fun _ => leBytes (commBytes f) (commZero f)

/-! ## Token messages arriving -/

/-- All tokens of a host line are at its home: it passes, with its data, to the die of the oldest request for it; without one it is given back to the
host, written back when dirty (R193, R211). -/
def hostLeaves (s : State) (line : Nat) : State :=
  let r := lineOf s line
  if !(hostLine s line) || r.hostState == 0 || !(r.home == 1024) then s
  else match s.coherence.reqs.find? fun q => q.line == line && !(isHome q.agent) with
    | some q => setLine s line { r with hostState := 1 + agentDie q.agent }
    | none =>
      let s1 := setLine s line { r with hostState := 0, dirty := false, hint := [] }
      if r.dirty then { s1 with out := { s1.out with peerWrites := s1.out.peerWrites ++ [(128 * line, readBytes s.mem (128 * line) 128)] } } else s1

/-- What a home does with the tokens of a line it has: it serves the active request, or, when it has them all, the requests that wait (R201, R204). -/
def homeNext (s : State) (line : Nat) : State :=
  let die := homeDie s (128 * line)
  let s := hostLeaves s line
  match activePart s line with
  | some p => settle (grantPartial s line p.requester) line
  | none =>
    let again := if (lineOf s line).home == 1024 then resend s line else s
    match mirrorOf s die line with
    | some a =>
      if a.active && !(isHome a.requester) && !(lineOf s line).isPart then
        match obstacle s line a.requester false with
        | none => settle (homeSend s line a.requester (lineOf s line).home true false) line
        | some s1 => dueOnce s1 .activate { n0 := die, n1 := line, n2 := a.requester, n3 := a.number }
      else again
    | none => again

/-- Tokens come home: the home adds them up, keeps a returned partial value by its agent, and writes dirty data of a device line to memory once it has
them all (R192, R193, R196, R216). -/
def homeTakes (s : State) (m : TokenMsg) : State :=
  let line := m.line
  let r := lineOf s line
  let r1 := { r with home := r.home + m.count, homeKey := r.homeKey || m.keystone, dirty := r.dirty || m.dirty,
                     parts := if m.isPart then insertBy (fun a b => a.1 ≤ b.1) (m.sender, m.part) r.parts else r.parts }
  let r2 := if r1.home == 1024 && !r1.isPart then { r1 with dirty := hostLine s line && r1.dirty, hint := [] } else r1
  let s1 := noteUse (setLine s line r2) line
  let s2 := if r2.isPart && !r2.recalling && m.isPart then recallPartials s1 line
            else if r2.isPart && r2.home == 1024 then dueOnce s1 .partialCombine { n0 := line } else s1
  homeNext (settle (serveDrain s2 line) line) line

/-- Tokens come to an agent: it adds them up; it passes them on to an active request, unless it may put that off, and a partial token of a line that is
being recalled goes back at once (R192, R193, R204, R205, R215, R216). -/
def agentTakes (s : State) (m : TokenMsg) : State :=
  let line := m.line
  let a := m.toward
  let r := lineOf s line
  let h := holderOf r a
  let h1 : Holder := ⟨a, h.count + m.count, h.keystone || m.keystone, h.valid || m.data, h.dirty || m.dirty,
    if m.isPart then some (h.part.getD (freshPart r.format)) else h.part⟩
  let s1 := settle (setLine s line (setHolder r h1)) line
  if m.isPart then
    if r.recalling then dueOnce s1 .forwardedRequest { n0 := line, n1 := a, n2 := homeAgent s line, kind := .part } else s1
  else match mirrorOf s1 (agentDie a) line with
    | some q =>
      if q.active && !(q.requester == a) then
        if defersLoss s1 a line q.requester then
          dueOnce s1 .activate { n0 := agentDie a, n1 := line, n2 := q.requester, n3 := q.number }
        else giveAll s1 a line q.requester
      else trimCache s1 a line
    | none => trimCache s1 a line

/-- The token message of an identifier arrives (R192, R193). -/
def tokenArrives (s : State) (id : Nat) : State :=
  match s.coherence.net.find? fun m => m.id == id with
  | none => s
  | some m =>
    let s0 := { s with coherence := { s.coherence with net := s.coherence.net.filter fun x => !(x.id == m.id) } }
    if isHome m.toward then homeTakes s0 m else agentTakes s0 m

/-- TOKEN_MESSAGE: the token message `n0` reaches its receiver (R192, R193, R196, R216, R204). -/
def execTokenMessage (s : State) : Out := .next (tokenArrives s s.args.n0)

/-- EVICTION: agent `n0` sends every token it holds of line `n1` to the home (R198), a translation cache after the accesses translated through it are
performed (R180); an evicted partial token recalls every other (R216), and a region of the core that has the line in its load set aborts (R453). -/
def execEviction (s : State) : Out :=
  let a := s.args.n0
  let line := s.args.n1
  let h := holderOf (lineOf s line) a
  if h.part.isSome && !(h.count == 0) then .next (recallPartials s line)
  else if sbNeeds s a line || (s.args.flag && a % 512 < 128 && (coreOf s (128 * agentDie a + a % 512)).sb.any fun e => e.addr / 128 == line) then
    .next (due s .eviction s.args)
  else .next (giveAll s a line (homeAgent s line))

/-! ## Partial tokens (R215, R216) -/

/-- Add an accumulator into the bytes of a line, element by element. -/
def addLine (f : Nat) (value part : List Byte) : List Byte :=
  let n := commBytes f
  (List.range (128 / n)).flatMap fun e =>
    leBytes n (commAdd f (leNat ((value.drop (n * e)).take n)) (leNat ((part.drop (n * e)).take n)))

/-- PARTIAL_COMBINE: the home, with every token of the partial line `n0` and the values returned with them, combines the line in ascending agent
number and returns it to the ordinary state (R216). -/
def execPartialCombine (s : State) : Out :=
  let line := s.args.n0
  let r := lineOf s line
  if !r.isPart || !(r.home == 1024) then .next s else
    let value := r.parts.foldl (fun v p => if p.2.isEmpty then v else addLine r.format v p.2) (readBytes s.mem (128 * line) 128)
    let s1 := { s with mem := writeBytes s.mem (128 * line) value }
    .next (homeNext (setLine s1 line { r with isPart := false, recalling := false, dirty := true, parts := [], hint := [] }) line)

/-! ## The census (R217, R218) -/

/-- The soft-error log of a die (R218). -/
def errlogOf (s : State) (die : Nat) : Dword := look 0#64 s.coherence.errlog die

/-- A corrected error of token state is counted in the log of a die, up to 2,047 (R217, R218). -/
def countCorrected (s : State) (die : Nat) : State :=
  let e := errlogOf s die
  let n := e.toNat / 2 ^ 52 % 2 ^ 11
  { s with coherence := { s.coherence with
      errlog := place s.coherence.errlog die (if n == 2047 then e else e + 0x0010000000000000#64) } }

/-- The home of a line begins a census: it activates a request of its own, and holds what reaches it for 1 us (R217). -/
def startCensus (s : State) (line : Nat) : State :=
  if s.coherence.census.contains line then s else
    let r := lineOf s line
    let n := (r.number + 1) % 256
    let s0 := setLine s line { r with number := n }
    let s1 := { s0 with coherence := { s0.coherence with census := s.coherence.census ++ [line] } }
    let s2 := (List.range (dieCount s)).foldl (fun s d => due s .activate { n0 := d, n1 := line, n2 := homeAgent s line, n3 := n }) s1
    later s2 1000 .censusHoldExpiry { n0 := line }

/-- CENSUS: a soft error at line `n0`.  With `n1` 0 it is in the token state: with `flag` a single-bit error, corrected and counted; else uncorrectable, and
the home of the line carries out a census (R217).  With `n1` 1 the memory devices give a wrong symbol `n2` of the line, whose data are there: one is
corrected; with two the line cannot be read, nor its tokens-home bit, and a census follows (R19; log entry 97). -/
def execCensus (s : State) : Out :=
  let line := s.args.n0
  if s.args.n1 == 1 then
    if !((lineOf s line).home == 1024) || hostLine s line then .next s else
      let s1 := { s with coherence := { s.coherence with
        symbols := place s.coherence.symbols line (wrongSymbols s line ||| 2 ^ (s.args.n2 % 64)) } }
      .next (if uncorrectable s1 line then startCensus s1 line else s1)
  else if s.args.flag then .next (countCorrected s (homeDie s (128 * line)))
  else .next (startCensus s line)

/-- CENSUS_HOLD_EXPIRY: 1 us after the activation, the home of line `n0` has 1,024 tokens and the keystone again, and the line is
poisoned (R217); the log of the home's die names it (R218). -/
def execCensusHoldExpiry (s : State) : Out :=
  let line := s.args.n0
  if !(s.coherence.census.contains line) then .next s else
    let r := lineOf s line
    let s1 := r.holders.foldl (fun s h => onLoss s h.agent line) s
    let die := homeDie s (128 * line)
    let log := (errlogOf s1 die &&& 0x7FFFE00000000000#64) ||| 0x8000000000000000#64 ||| BitVec.ofNat 64 (line % 2 ^ 45)
    let s2 := setLine s1 line { LineRec.atHome with number := (lineOf s1 line).number }
    let c := s2.coherence
    let s3 := { s2 with coherence := { c with net := c.net.filter (fun m => !(m.line == line)), census := c.census.filter (fun l => !(l == line)),
                                               errlog := place c.errlog die log } }
    .next (resend (deactivateAll (setPoison s3 line) line r.number) line)

/-! ## Tokens for an access of an engine or a gateway (R195, R210 to R213) -/

/-- Tokens on their way to the home of a line have arrived. -/
def flushHome (s : State) (line : Nat) : State :=
  ((s.coherence.net.filter fun m => m.line == line && isHome m.toward).map (·.id)).foldl tokenArrives s

/-- The active request of another agent calls the tokens of a line away (R204). -/
def calledAway (s : State) (a line : Nat) : Bool :=
  match mirrorOf s (agentDie a) line with
  | some m => m.active && !(m.requester == a)
  | none => false

/-- Take one token with data for an agent, if it can be had at once; none when the agent must ask for it. -/
def grabOne (s : State) (a line : Nat) : Option State :=
  let r := lineOf s line
  let h := holderOf r a
  if mayRead s a line then some s
  else if (obstacle s line a false).isSome || calledAway s a line then none
  else if 2 ≤ r.home && r.homeKey then
    some (setLine (noteUse s line) line
      (setHolder { r with home := r.home - 1, hint := addHint r.hint a } { h with agent := a, count := h.count + 1, valid := true }))
  else
    match r.holders.find? fun x => x.keystone && x.valid && 2 ≤ x.count && x.part.isNone && !(commitGathers s x.agent line) &&
        !(isEngine x.agent && x.count == 1024) with
    | some x =>
      some (setLine (noteUse s line) line (setHolder (setHolder { r with hint := addHint r.hint a } { x with count := x.count - 1 })
        { h with agent := a, count := h.count + 1, valid := true }))
    | none => none

/-- An agent takes all that the home has of a line. -/
def takeAll (s : State) (a line : Nat) : State :=
  let r := lineOf s line
  let h := holderOf r a
  setLine (noteUse s line) line (setHolder { r with home := 0, homeKey := false, dirty := false, hint := addHint r.hint a }
    ⟨a, h.count + r.home, true, true, h.dirty || r.dirty, none⟩)

/-- An agent has the tokens that an access to a line needs: the state with them; otherwise the state in which it has asked for them.  Tokens that the
home has and that would return to it in the same step stay there, unless `keep` says that the agent takes them. -/
def gather (s : State) (a line : Nat) (k : ReqKind) (keep : Bool := false) : Option State × State :=
  let s := flushHome s line
  let r := lineOf s line
  if (if k = .read then mayRead s a line else mayWrite s a line) then (some s, s)
  else match obstacle s line a false with
    | some s1 => (none, request s1 a line k)
    | none =>
      if calledAway s a line then (none, request s a line k)
      else if k = .read then
        if 2 ≤ r.home && r.homeKey && !keep then (some s, s) else
          match grabOne s a line with
          | some s1 => (some s1, s1)
          | none => (none, request s a line .read)
      else if r.home == 1024 && !keep && !(hostLine s line) then (some s, s)
      else if r.home + (holderOf r a).count == 1024 then (some (takeAll s a line), takeAll s a line)
      else (none, request s a line .write)

/-- An engine, a gateway or a unit that keeps no copies sends the tokens it has of a line home, with the data and the dirty bit when it has
written (R210, R213). -/
def giveBack (s : State) (a line : Nat) (wrote : Bool) : State :=
  let r := lineOf s line
  let h := holderOf r a
  if h.count == 0 then s else
    sendAll (if wrote then setLine s line (setHolder r { h with dirty := true, valid := true }) else s) a line (homeAgent s line)

/-- An agent sends home every line it has gathered: nothing of its commands is under way any more (R210). -/
def releaseEngine (s : State) (a : Nat) : State :=
  (s.coherence.lines.filter fun p => !((holderOf p.2 a).count == 0)).foldl (fun s p => giveBack s a p.1 false) s

/-- The home holds every token of a line, as it does at all times of one that it performs the accesses of (R199); otherwise the state in which it
has asked for them. -/
def homeWhole (s : State) (line : Nat) : Option State × State :=
  let s := flushHome s line
  match obstacle s line (homeAgent s line) false with
  | some s1 => (none, s1)
  | none => if (lineOf s line).home == 1024 then (some s, s) else (none, request s (homeAgent s line) line .write)

/-- An engine next to a core may read a line now (R195, R222): the store buffer of the core has no store to it but those that `spare` names, and
the engine has a token of it. -/
def readableBy (s : State) (a line cid : Nat) (spare : SbEntry → Bool) : Option State × State :=
  if (coreOf s cid).sb.any fun e => e.addr / 128 == line && !(spare e) then (none, s) else gather s a line .read

/-! ## The host and peers (R211 to R213) -/

/-- HOST_LINE_OBTAINED: the gateway of die `n0` obtains host line `n1` over CXL.cache with the data in `bytes`, and receives all its tokens
from the home (R211). -/
def execHostLineObtained (s : State) : Out :=
  let die := s.args.n0
  let line := s.args.n1
  let r := lineOf s line
  if !(r.hostState == 0) || !(hostLine s line) || !(r.home == 1024) then .next s
  else match tokenOutWait s line (gateway die) with
    | some s1 => .next (due s1 .hostLineObtained s.args)
    | none =>
      let s1 := { noteUse s line with mem := writeBytes s.mem (128 * line) (s.args.bytes.take 128) }
      let r1 := setHolder { r with home := 0, homeKey := false, dirty := false, hostState := 1 + die, hint := [gateway die] }
        ⟨gateway die, 1024, true, true, false, none⟩
      .next (resend (setLine s1 line r1) line)

/-- HOST_SNOOP: the host snoops host line `n0`: the gateway recalls every token by a persistent request, answers with the current data, and
returns the tokens to the home (R211). -/
def execHostSnoop (s : State) : Out :=
  let line := s.args.n0
  let r := lineOf s line
  if r.hostState == 0 || !(hostLine s line) then .next s else
    let gw := gateway (r.hostState - 1)
    let h := holderOf r gw
    let answer := fun (s : State) => { s with out := { s.out with hostData := s.out.hostData ++
      [(128 * line, if poisoned s line then none else some (readBytes s.mem (128 * line) 128))] } }
    if r.home == 1024 then .next (answer (setLine s line { r with hostState := 0, dirty := false, hint := [] }))
    else if h.count == 1024 then
      .next (answer (sendAll (setLine s line (setHolder { r with hostState := 0 } { h with dirty := false })) gw line (homeAgent s line)))
    else .next (due (persist s gw line .write) .hostSnoop s.args)

/-- The host gives up a device line it caches: the home has every token again, no back-invalidate of the line is under way, and the requests that
wait go on (R212). -/
def hostReturns (s : State) (line : Nat) : State :=
  let s1 := { s with out := { s.out with bisnp := s.out.bisnp.filter fun l => !(l == line) } }
  homeNext (setLine s1 line { lineOf s line with hostState := 0, home := 1024, homeKey := true, holders := [], hint := [] }) line

/-- BISNP_RESPONSE: the host answers the back-invalidate of line `n0` with the data in `bytes`; the gateway forwards the tokens (R212). -/
def execBisnpResponse (s : State) : Out :=
  let line := s.args.n0
  if !((lineOf s line).hostState == 1) || hostLine s line then .next s
  else .next (hostReturns (writeLineBytes s (128 * line) (s.args.bytes.take 128)) line)

end Sys2Proof.Machine
end

