-- ==== Sys2Proof/Machine/Walk.lean ====
section
/-! DEFINITION.  Translation: page-table entries, the walk, permissions, contiguous groups and the translation caches (R166 to R182). -/

namespace Sys2Proof.Machine

/-! ## Page-table entries (R172, R173) -/

/-- Kinds of access for permissions and fault entries (R158, R176): read, write, execute, atomic. -/
inductive AccKind where
  | read
  | write
  | execute
  | atomic
  deriving DecidableEq, Repr

/-- The access byte of a fault entry (R158). -/
def AccKind.code : AccKind → Nat
  | .read => 0
  | .write => 1
  | .execute => 2
  | .atomic => 3

/-- A field of an entry. -/
def pteField (p : Dword) (lo n : Nat) : Nat := p.toNat / 2 ^ lo % 2 ^ n
/-- V. -/
def pteV (p : Dword) : Bool := p.getLsbD 0
/-- LEAF. -/
def pteLeaf (p : Dword) : Bool := p.getLsbD 1
/-- READ. -/
def pteRead (p : Dword) : Bool := p.getLsbD 2
/-- W. -/
def pteW (p : Dword) : Bool := p.getLsbD 3
/-- X. -/
def pteX (p : Dword) : Bool := p.getLsbD 4
/-- USER. -/
def pteUser (p : Dword) : Bool := p.getLsbD 5
/-- GLOBAL. -/
def pteGlobal (p : Dword) : Bool := p.getLsbD 6
/-- CONTIG. -/
def pteContig (p : Dword) : Bool := p.getLsbD 7
/-- HOME: 0 CACHED, 1 L2_PIN, 2 CORE_PIN, 3 UNCACHED. -/
def pteHome (p : Dword) : Nat := pteField p 8 2
/-- TIER. -/
def pteTier (p : Dword) : Nat := pteField p 10 2
/-- COMM. -/
def pteComm (p : Dword) : Nat := pteField p 12 3
/-- MIG. -/
def pteMig (p : Dword) : Bool := p.getLsbD 15
/-- FRAME, as a physical address. -/
def pteFrame (p : Dword) : Nat := 4096 * pteField p 16 40

/-- The page size of a leaf at a level. -/
def pageSize (lvl : Nat) : Nat := if lvl == 1 then 4096 else if lvl == 2 then 2 ^ 21 else 2 ^ 30

/-- A valid entry that faults RESERVED_BIT at a level (R174). -/
def reservedSet (p : Dword) (lvl : Nat) : Bool :=
  let leaf := pteLeaf p
  !(pteField p 56 8 == 0) || (!leaf && !(pteField p 2 14 == 0)) || (!leaf && lvl == 1) || (leaf && (lvl == 4 || lvl == 5)) ||
  (leaf && lvl == 2 && !(pteField p 16 9 == 0)) || (leaf && lvl == 3 && !(pteField p 16 18 == 0)) ||
  (leaf && pteContig p && (lvl == 2 || lvl == 3)) ||
  (leaf && (5 ≤ pteComm p || (!(pteComm p == 0) && (pteHome p == 3 || 2 ≤ pteTier p)))) ||
  (leaf && (pteHome p == 1 || pteHome p == 2) && 2 ≤ pteTier p)

/-- A leaf whose frame does not lie wholly in the ranges of its TIER (R175). -/
def frameOutside (s : State) (p : Dword) (lvl : Nat) : Bool :=
  !(tierOf s (pteFrame p) == some (pteTier p) && tierOf s (pteFrame p + pageSize lvl - 1) == some (pteTier p))

/-- The access is permitted (R176). -/
def permitted (p : Dword) (k : AccKind) (supervisor : Bool) : Bool :=
  (supervisor || pteUser p) &&
  (match k with
   | .read => pteRead p
   | .write => pteW p
   | .execute => pteX p
   | .atomic => pteRead p && pteW p)

/-- The doubleword at a physical address (R168). -/
def readEntry8 (s : State) (pa : Nat) : Dword := BitVec.ofNat 64 (readNat s.mem pa 8)

/-- The 16 entries of a line form a contiguous group: the frame of its first entry (R177). -/
def contiguous (s : State) (pa : Nat) : Option Nat :=
  let base := 128 * (pa / 128)
  let es := (List.range 16).map fun k => readEntry8 s (base + 8 * k)
  let e0 := es.headD 0#64
  let f := pteField e0 16 40
  if f % 16 == 0 && (List.range 16).all (fun k =>
      let e := nth 0#64 es k
      pteV e && pteLeaf e && pteContig e && e.toNat % 2 ^ 16 == e0.toNat % 2 ^ 16 && pteField e 16 40 == f + k &&
      !(reservedSet e 1) && !(frameOutside s e 1)) then some (4096 * f) else none

/-! ## The walk (R170) -/

/-- How a walk ends: an entry for the caches with the tables found on its way, a fault with its subtype and level, a table line whose data are
uncorrectable, or one that the walker has no token of yet. -/
inductive WalkEnd where
  | leaf (e : TlbEntry) (path : List WalkEntry)
  | fault (subtype level : Nat)
  | unreadable
  | lack (line : Nat)
  deriving DecidableEq, Repr

/-- The tag of a walk-cache entry whose table serves a level. -/
def walkTag (lvl va : Nat) : Nat := va / 2 ^ (12 + 9 * lvl)

/-- Index of a virtual address at a level (R167). -/
def vaIndex (lvl va : Nat) : Nat := va / 2 ^ (12 + 9 * (lvl - 1)) % 512

/-- The entry of the caches that a leaf makes. -/
def leafEntry (s : State) (asid fn va lvl pa : Nat) (p : Dword) (deps : List Nat) : TlbEntry :=
  match (if lvl == 1 && pteContig p then contiguous s pa else none) with
  | some f => ⟨asid, fn, pteGlobal p, 65536 * (va / 65536), 65536, p, f, deps⟩
  | none => ⟨asid, fn, pteGlobal p, pageSize lvl * (va / pageSize lvl), pageSize lvl, p, pteFrame p, deps⟩

/-- The walker of a pier has a token of a table line, or can have one at once (R179, R191). -/
def canWalk (s : State) (p line : Nat) : Bool := (grabOne s (walkAgent p) line).isSome

/-- The walk from the table `t` that serves a level.  `deps` are the lines read so far, `path` the tables found. -/
def walkFrom (s : State) (p asid fn va : Nat) (k : AccKind) (supervisor : Bool) : Nat → Nat → List Nat → List WalkEntry → WalkEnd
  | 0, _, _, _ => .fault 1 0
  | lvl + 1, t, deps, path =>
    let pa := t + 8 * vaIndex (lvl + 1) va
    let deps := deps ++ [pa / 128]
    if !(canWalk s p (pa / 128)) then .lack (pa / 128)
    else if poisoned s (pa / 128) then .unreadable else
      let e := readEntry8 s pa
      if !(pteV e) then .fault 1 0
      else if reservedSet e (lvl + 1) then .fault 3 (lvl + 1)
      else if !(pteLeaf e) then
        let t' := pteFrame e
        match tierOf s t' with
        | some 0 => walkFrom s p asid fn va k supervisor lvl t' deps (path ++ [⟨asid, lvl, walkTag lvl va, t', deps⟩])
        | some 1 => walkFrom s p asid fn va k supervisor lvl t' deps (path ++ [⟨asid, lvl, walkTag lvl va, t', deps⟩])
        | _ => .fault 4 0
      else if frameOutside s e (lvl + 1) then .fault 4 0
      else if !(permitted e k supervisor) then .fault 2 0
      else .leaf (leafEntry s asid fn va (lvl + 1) pa e deps) path

/-- The deepest table that a walk cache provides for an address. -/
def walkStart (ws : List WalkEntry) (asid va : Nat) : Option WalkEntry :=
  (sortBy (fun a b => a.level ≤ b.level) (ws.filter fun w => w.asid == asid && w.tag == walkTag w.level va)).head?

/-- The walk of R170, from the deepest level the walk cache of a pier provides (R178). -/
def walk (s : State) (p asid fn va : Nat) (k : AccKind) (supervisor : Bool) : WalkEnd :=
  if 2 ^ 57 ≤ va then .fault 1 0 else
    match walkStart (pierOf s p).walks asid va with
    | some w => walkFrom s p asid fn va k supervisor w.level w.table w.deps []
    | none =>
      let pa := s.rootTable + 8 * asid
      if !(canWalk s p (pa / 128)) then .lack (pa / 128)
      else if poisoned s (pa / 128) then .unreadable else
        let e := readEntry8 s pa
        if !(e.getLsbD 0) then .fault 1 0 else
          let t := e.toNat % 2 ^ 52 / 4096 * 4096
          walkFrom s p asid fn va k supervisor 5 t [pa / 128] [⟨asid, 5, walkTag 5 va, t, [pa / 128]⟩]

/-! ## The translation caches (R178, R179, R182) -/

/-- An entry serves an address of an identifier. -/
def TlbEntry.serves (e : TlbEntry) (asid fn va : Nat) : Bool :=
  (if e.isGlobal then e.fn == fn else e.asid == asid) && e.base ≤ va && va < e.base + e.size

/-- The physical address an entry gives. -/
def TlbEntry.pa (e : TlbEntry) (va : Nat) : Nat := e.frame + (va - e.base)

/-- Take one token of every line of a list for an agent that can have them all at once; otherwise the first line that it lacks. -/
def grabLines (s : State) (a : Nat) : List Nat → State ⊕ Nat
  | [] => .inl s
  | l :: r =>
    match grabOne s a l with
    | some s1 => grabLines s1 a r
    | none => .inr l

/-- Take one token of every line of a list for an agent; otherwise ask for the first that cannot be had (R179). -/
def grabAll (s : State) (a : Nat) (ls : List Nat) : Option State × State :=
  match grabLines s a ls with
  | .inl s1 => (some s1, s1)
  | .inr l => (none, request s a l .read)

/-- An agent returns the tokens it has of the lines of a list, those that it needs or still asks for aside (R179, R182). -/
def returnUnneeded (s : State) (a : Nat) (needs ls : List Nat) : State :=
  (ls.filter fun l => !(needs.contains l) && (reqOf s a l).isNone).foldl (fun s l => sendAll s a l (homeAgent s l)) s

/-- Put an entry at the front of a list of at most `n`, and drop the least recently used beyond. -/
def pushFront {α : Type} [BEq α] (x : α) (l : List α) (n : Nat) : List α := ((x :: l.filter fun y => !(y == x))).take n

/-- The set of the L2 TLB that an entry takes (R178; which set is a choice of the model, log entry 13). -/
def tlbSet (e : TlbEntry) : Nat := e.base / e.size % 256

/-- Insert an entry into a core's L1 TLB, holding a token of each line it depends on. -/
def fillTlb (s : State) (cid : Nat) (e : TlbEntry) : Option State × State :=
  match grabAll s (tlbAgent cid) e.deps with
  | (none, s') => (none, s')
  | (some s1, _) =>
    let s2 := setTlb s1 cid (pushFront e (coreOf s1 cid).tlb 64)
    (some s2, s2)

/-- Make an entry the most recently used one of its set of an L2 TLB; the set keeps 8 (R178, R182). -/
def useInSet (e : TlbEntry) (es : List TlbEntry) : List TlbEntry :=
  pushFront e (es.filter fun x => tlbSet x == tlbSet e) 8 ++ es.filter fun x => !(tlbSet x == tlbSet e)

/-- Insert an entry into a pier's L2 TLB. -/
def fillTlb2 (s : State) (p : Nat) (e : TlbEntry) : Option State × State :=
  match grabAll s (tlb2Agent p) e.deps with
  | (none, s') => (none, s')
  | (some s1, _) =>
    let es := (pierOf s1 p).tlb
    let es' := useInSet e es
    let s2 := returnTokens (modPier s1 p fun x => { x with tlb := es' }) (tlb2Agent p) (tlbDeps es) (tlbDeps es')
    (some s2, s2)

/-- Insert the tables of a walk into a pier's walk cache. -/
def fillWalks (s : State) (p : Nat) (ws : List WalkEntry) : Option State × State :=
  match grabAll s (walkAgent p) (dedup (ws.flatMap (·.deps))) with
  | (none, s') => (none, s')
  | (some s1, _) =>
    let es := (pierOf s1 p).walks
    let es' := ws.foldl (fun es w => pushFront w es 256) es
    let s2 := returnTokens (modPier s1 p fun x => { x with walks := es' }) (walkAgent p) (walkDeps es) (walkDeps es')
    (some s2, s2)

/-- How a translation ends: an entry (held by the caches, or `direct` when its leaf has MIG and no cache may keep it), a miss, a fault, or
unreadable tables. -/
inductive Xlat where
  | hit (e : TlbEntry)
  | direct (e : TlbEntry)
  | miss
  | fault (subtype level : Nat)
  | unreadable
  deriving DecidableEq, Repr

/-- Look an address up in a core's L1 TLB (R178), with the permission check (R176). -/
def lookTlb (s : State) (cid asid fn va : Nat) (k : AccKind) (supervisor : Bool) : Xlat :=
  if 2 ^ 57 ≤ va then .fault 1 0 else
    match (coreOf s cid).tlb.find? fun e => e.serves asid fn va with
    | some e => if permitted e.leaf k supervisor then .hit e else .fault 2 0
    | none => .miss

/-- Use an entry: it is now the most recently used one of the L1 TLB. -/
def touchTlb (s : State) (cid : Nat) (e : TlbEntry) : State := modCore s cid fun c => { c with tlb := pushFront e c.tlb 64 }

/-- The lines of the tables that a walk for an address reads, as the tables stand. -/
def walkLines (s : State) (va : Nat) : Nat → Nat → List Nat
  | 0, _ => []
  | lvl + 1, t =>
    let pa := t + 8 * vaIndex (lvl + 1) va
    pa / 128 :: walkLines s va lvl (pteFrame (readEntry8 s pa))

/-- A walk has ended: the walk cache returns the tokens that its walker gathered and no entry needs (R179). -/
def endWalk (s : State) (p asid va : Nat) : State :=
  let root := s.rootTable + 8 * asid
  let t := (readEntry8 s root).toNat % 2 ^ 52 / 4096 * 4096
  returnUnneeded s (walkAgent p) (walkDeps (pierOf s p).walks) (root / 128 :: walkLines s va 5 t)

/-- Use the walk-cache entry from which a walk starts: it is now the most recently used one (R178, R182). -/
def touchWalk (s : State) (p asid va : Nat) : State :=
  match walkStart (pierOf s p).walks asid va with
  | some w => modPier s p fun x => { x with walks := pushFront w x.walks 256 }
  | none => s

/-- A translation by a pier: from its L2 TLB, else by a walk, which fills the walk cache and the L2 TLB (R170, R178).  `miss` in the answer says
that a token is still awaited. -/
def pierFill (s : State) (p asid fn va : Nat) (k : AccKind) (supervisor : Bool) : Xlat × State :=
  if 2 ^ 57 ≤ va then (.fault 1 0, s) else
  match (pierOf s p).tlb.find? fun e => e.serves asid fn va with
  | some e =>
    if permitted e.leaf k supervisor then (.hit e, modPier s p fun x => { x with tlb := useInSet e x.tlb }) else (.fault 2 0, s)
  | none =>
    let s := touchWalk s p asid va
    match walk s p asid fn va k supervisor with
    | .fault a b => (.fault a b, endWalk s p asid va)
    | .unreadable => (.unreadable, endWalk s p asid va)
    | .lack l => (.miss, request s (walkAgent p) l .read)
    | .leaf e path =>
      if pteMig e.leaf then (.direct e, endWalk s p asid va) else
        match fillWalks s p path with
        | (none, s1) => (.miss, s1)
        | (some s1, _) =>
          match fillTlb2 s1 p e with
          | (none, s2) => (.miss, s2)
          | (some s2, _) => (.hit e, endWalk s2 p asid va)

/-- A walker's translation for a core access: from its pier, into the core's L1 TLB (R170, R178).  The tokens of a leaf that no cache may keep
are held until the access through it is performed (R180, R188). -/
def walkFill (s : State) (cid asid fn va : Nat) (k : AccKind) (supervisor : Bool) : Xlat × State :=
  match pierFill s (pierNo cid) asid fn va k supervisor with
  | (.hit e, s1) =>
    match fillTlb s1 cid e with
    | (some s2, _) => (.hit e, s2)
    | (none, s2) => (.miss, s2)
  | (.direct e, s1) =>
    match grabAll s1 (tlbAgent cid) e.deps with
    | (some s2, _) => (.direct e, s2)
    | (none, s2) => (.miss, s2)
  | r => r

/-- An access through a leaf that the L1 TLB does not keep is over: the tokens that nothing needs go back (R180). -/
def endDirect (s : State) (cid : Nat) (e : TlbEntry) : State := returnUnneeded s (tlbAgent cid) (tlbNeeds (coreOf s cid)) e.deps

/-- The translation of an address as the tables stand, for a check that makes no access; `miss` says that a table line cannot be read yet. -/
def resolve (s : State) (p asid fn va : Nat) (k : AccKind) (supervisor : Bool) : Xlat :=
  if 2 ^ 57 ≤ va then .fault 1 0 else
    match (pierOf s p).tlb.find? fun e => e.serves asid fn va with
    | some e => if permitted e.leaf k supervisor then .hit e else .fault 2 0
    | none =>
      match walk s p asid fn va k supervisor with
      | .leaf e _ => .hit e
      | .fault a b => .fault a b
      | .unreadable => .unreadable
      | .lack _ => .miss

/-- Bytes of a frame of a SIZE code (R185). -/
def swapBytes (size : Nat) : Nat := if size == 0 then 4096 else if size == 1 then 65536 else 2 ^ 21

/-- The swap engine that is exchanging the frame an address lies in, with the other frame (R188): die, own frame, other frame and LINE. -/
def swapping (s : State) (pa : Nat) : Option (Nat × Nat × Nat × Nat) :=
  (List.range 2).findSome? fun d =>
    let w := look Swap.reset s.swaps d
    let n := swapBytes w.span
    let a := pteFrame w.leafA
    let b := pteFrame w.leafB
    if !(w.status == 1) then none
    else if a ≤ pa && pa < a + n then some (d, a, b, w.line)
    else if b ≤ pa && pa < b + n then some (d, b, a, w.line)
    else none

/-- Where an access through a leaf acts: on the other frame for the lines already exchanged (R188). -/
def placeOf (s : State) (e : TlbEntry) (va : Nat) : Nat :=
  let pa := e.pa va
  if pteMig e.leaf then
    match swapping s pa with
    | some (_, own, other, line) => if (pa - own) / 128 < line then other + (pa - own) else pa
    | none => pa
  else pa

end Sys2Proof.Machine
end

