-- ==== Sys2Proof/Machine/Complete.lean ====
section
/-! DEFINITION.  Virtual accesses of Soliracor and the engines, interrupts (R92), completion entries (R89 to R92), the end of a launch (R155),
and fault entries (R156 to R160). -/

namespace Sys2Proof.Machine

/-! ## Functions and queues -/

/-- A function's registers. -/
def fnOf (s : State) (fn : Nat) : Fn := look Fn.reset s.fns fn
/-- Change a function. -/
def modFn (s : State) (fn : Nat) (f : Fn → Fn) : State := { s with fns := place s.fns fn (f (fnOf s fn)) }
/-- A queue of a function. -/
def queueOf (s : State) (fn q : Nat) : Queue := look Queue.reset s.queues (4096 * fn + q)
/-- Change a queue. -/
def modQueue (s : State) (fn q : Nat) (f : Queue → Queue) : State :=
  { s with queues := store Queue.reset s.queues (4096 * fn + q) (f (queueOf s fn q)) }
/-- A completion queue of a function. -/
def cqOf (s : State) (fn c : Nat) : Cq := look Cq.reset s.cqs (4096 * fn + c)
/-- Change a completion queue. -/
def modCq (s : State) (fn c : Nat) (f : Cq → Cq) : State := { s with cqs := store Cq.reset s.cqs (4096 * fn + c) (f (cqOf s fn c)) }
/-- The absolute identifier of one relative to a function (R62, R169). -/
def absAsid (s : State) (fn rel : Nat) : Nat := ((fnOf s fn).asidBase + rel) % 256

/-- A unit does no work for a context: its stop has reached the unit, or the context is saved (R139, R143). -/
def frozen (s : State) (fn q : Nat) (u : StopUnit) : Bool :=
  let x := queueOf s fn q
  x.saved || (match x.preempt with
    | some p => !(p.toStop.contains u)
    | none => false)

/-! ## Accesses that are not a thread's -/

/-- How a read ends: the bytes, something awaited (in the state given), a fault with subtype and level, uncorrectable data, or a peer port
that is down. -/
inductive Fetch where
  | bytes (b : List Byte) (s : State)
  | wait (s : State)
  | fault (subtype level : Nat)
  | poison
  | down (port : Nat)

/-- How a write ends. -/
inductive Put where
  | done (s : State)
  | wait (s : State)
  | fault (subtype level : Nat)
  | poison
  | down (port : Nat)

/-- The L1 of a core has written a line that it holds: the WAIT_TOKENs that watch it there read again, and the regions of the core whose load set holds it
abort, those of the threads `spare` names aside (R87, R453). -/
def l1Wrote (s : State) (cid line : Nat) (spare : Nat → Nat → Bool) : State := recheckTokens (conflict s cid line spare) cid line

/-- An agent that is no L1 sends home the tokens of a line it has used; a token of a fence line that a ray watches stays (R195, R210, R288). -/
def letGo (s : State) (a line : Nat) (wrote : Bool) : State :=
  match l1Core a with
  | some cid =>
    if !wrote || !(mayWrite s a line) then s else
      let r := lineOf s line
      l1Wrote (setLine s line (setHolder r { holderOf r a with dirty := true, valid := true })) cid line fun _ _ => false
  | none =>
    if 288 ≤ a % 512 && a % 512 < 320 && ((pierOf s (32 * agentDie a + a % 512 - 288)).rays.any fun r => r.watch.contains line) then s
    else giveBack s a line wrote

/-- Read bytes of one line at a physical address for an agent next to core `cid` (R195, R199, R213); it does not wait for the buffered
stores that `spare` names. -/
def readPhys (s : State) (a cid : Nat) (home3 : Bool) (pa n : Nat) (spare : SbEntry → Bool := fun _ => false) : Fetch :=
  let line := pa / 128
  match tierOf s pa with
  | some 3 =>
    let port := portFor s (peerDevice pa)
    if portUp s port then
      let (b, s) := freeBytes s n
      .bytes b s
    else .down port
  | _ =>
    if home3 then
      match homeWhole s line with
      | (none, s1) => .wait s1
      | (some s1, _) =>
        if hostLine s1 line && (lineOf s1 line).hostState == 0 then
          let (b, s2) := freeBytes s1 n
          .bytes b s2
        else if poisoned s1 line then .poison else .bytes (readBytes s1.mem pa n) s1
    else
      match readableBy s a line cid spare with
      | (none, s1) => .wait s1
      | (some s1, _) => if poisoned s1 line then .poison else .bytes (readBytes s1.mem pa n) (letGo s1 a line false)

/-- Write bytes of one line at a physical address for an agent, holding every token (R199, R210, R213). -/
def writePhys (s : State) (a : Nat) (home3 : Bool) (pa : Nat) (b : List Byte) : Put :=
  let line := pa / 128
  let outward := fun (s : State) => { s with out := { s.out with peerWrites := s.out.peerWrites ++ [(pa, b)] } }
  match tierOf s pa with
  | some 3 =>
    let port := portFor s (peerDevice pa)
    if portUp s port then .done (outward s) else .down port
  | _ =>
    if home3 then
      match homeWhole s line with
      | (none, s1) => .wait s1
      | (some s1, _) => .done (if hostLine s1 line && (lineOf s1 line).hostState == 0 then outward s1 else writeLineBytes s1 pa b)
    else
      match gather s a line .write with
      | (none, s1) => .wait s1
      | (some s1, _) => .done (letGo (writeLineBytes s1 pa b) a line true)

/-- Read `n` bytes of one line at a virtual address for an agent of the pier of core `cid`; the read does not wait for the buffered stores that
`spare` names. -/
def readAs (s : State) (a cid asid fn va n : Nat) (k : AccKind) (supervisor : Bool) (spare : SbEntry → Bool := fun _ => false) : Fetch :=
  match pierFill s (pierNo cid) asid fn va k supervisor with
  | (.hit e, s1) => readPhys s1 a cid (pteHome e.leaf == 3) (placeOf s1 e va) n spare
  | (.direct e, s1) => readPhys s1 a cid (pteHome e.leaf == 3) (placeOf s1 e va) n spare
  | (.fault x y, _) => .fault x y
  | (.unreadable, _) => .poison
  | (.miss, s1) => .wait s1

/-- Write bytes of one line at a virtual address for an agent of the pier of core `cid`. -/
def writeAs (s : State) (a cid asid fn va : Nat) (b : List Byte) (supervisor : Bool) : Put :=
  match pierFill s (pierNo cid) asid fn va .write supervisor with
  | (.hit e, s1) => writePhys s1 a (pteHome e.leaf == 3) (placeOf s1 e va) b
  | (.direct e, s1) => writePhys s1 a (pteHome e.leaf == 3) (placeOf s1 e va) b
  | (.fault x y, _) => .fault x y
  | (.unreadable, _) => .poison
  | (.miss, s1) => .wait s1

/-- Soliracor, on a core, reads `n` bytes of one line at a virtual address. -/
def readVirt (s : State) (cid asid fn va n : Nat) (k : AccKind) (supervisor : Bool) : Fetch := readAs s (l1Agent cid) cid asid fn va n k supervisor

/-- Soliracor, on a core, writes bytes of one line at a virtual address. -/
def writeVirt (s : State) (cid asid fn va : Nat) (b : List Byte) (supervisor : Bool) : Put := writeAs s (l1Agent cid) cid asid fn va b supervisor

/-! ## Interrupts -/

/-- Raise an MSI-X vector of a function: a masked vector sets its pending bit (R92). -/
def raiseMsix (s : State) (fn vec : Nat) : State :=
  if (fnOf s fn).masked.contains vec then modFn s fn fun f => { f with pba := f.pba ||| (1#64 <<< vec) }
  else { s with out := { s.out with msix := s.out.msix ++ [(fn, vec)] } }

/-- A completion queue raises its interrupt: the count and the timer start again (R92). -/
def cqRaise (s : State) (fn c : Nat) : State :=
  let q := cqOf s fn c
  let s1 := withdraw s fun d => d.step = .cqTimerExpiry && d.args.n0 == fn && d.args.n1 == c
  raiseMsix (modCq s1 fn c fun q => { q with posted := 0, timerOn := false }) fn q.vector

/-- Entries have posted in one tick: count them, start the timer with the first, and raise the vector once when a condition of R92 holds.  A timer that
runs takes the TIMER of this moment, from its own start. -/
def cqCount (s : State) (fn c n : Nat) (atOnce : Bool) : State :=
  let q := cqOf s fn c
  if !q.irqEn || n == 0 then s else
    let s1 := modCq s fn c fun q => { q with posted := q.posted + n }
    let since := if q.timerOn then q.since else now s
    let at_ := since + 1000 * q.timer
    if atOnce || q.count ≤ q.posted + n || at_ ≤ now s then cqRaise s1 fn c
    else
      let mine := fun (d : Due) => d.step = .cqTimerExpiry && d.args.n0 == fn && d.args.n1 == c
      if q.timerOn && s1.timers.any (fun t => mine t.due && t.at_ == at_) then s1
      else later (modCq (withdraw s1 mine) fn c fun q => { q with timerOn := true, since := since }) (at_ - now s) .cqTimerExpiry { n0 := fn, n1 := c }

/-! ## Completion entries (R89 to R91) -/

/-- Entries a ring of a LOG2_SIZE holds. -/
def ringSize (log2 : Nat) : Nat := 2 ^ (log2 + 6)

/-- PHASE of entry number n: 1 when ⌊n / size⌋ is even (R91). -/
def phaseByte (n size : Nat) : Byte := if n / size % 2 == 0 then 0x80#8 else 0#8

/-- A DRAINING queue whose last claimed record has posted is DISABLED (R69). -/
def queueDrained (s : State) (fn q : Nat) : State :=
  let x := queueOf s fn q
  if x.state == 3 && x.recs.isEmpty && (cqOf s fn x.cq).waiting.all fun w => !(leNat ((w.1.drop 4).take 2) == q) then
    modQueue s fn q fun x => { x with state := 0 }
  else s

/-- Post the oldest entry that waits for a completion queue, if its slot is free and can be written (R77, R91): whether it has posted, and raises the
interrupt at once. -/
def cqPostOne (s : State) (fn c : Nat) : State × Option Bool :=
  let q := cqOf s fn c
  match q.waiting with
  | [] => (s, none)
  | (e, atOnce) :: rest =>
    let size := ringSize q.log2
    let n := q.tail.toNat
    if size ≤ (q.tail - q.head).toNat then (s, none) else
      let bytes := e.take 31 ++ [phaseByte n size]
      match writeVirt s 0 (absAsid s fn q.asid) fn (q.base.toNat + 32 * (n % size)) bytes true with
      | .done s1 =>
        (queueDrained (modCq s1 fn c fun q => { q with waiting := rest, tail := q.tail + 1 }) fn (leNat ((e.drop 4).take 2)), some atOnce)
      | .wait s1 => (s1, none)
      | _ => (s, none)

/-- Post what can be posted, and raise at most one interrupt for it; what remains is tried again within 1 ms (R91, R92).  `k` entries have posted so
far in this tick, one of them to be raised at once when `urgent` says so. -/
def cqPost (s : State) (fn c : Nat) (n : Nat) (k : Nat := 0) (urgent : Bool := false) : State :=
  match n with
  | 0 => cqCount s fn c k urgent
  | n + 1 =>
    match cqPostOne s fn c with
    | (s1, some atOnce) => cqPost s1 fn c n (k + 1) (urgent || atOnce)
    | (s1, none) =>
      let s2 := cqCount s1 fn c k urgent
      if (cqOf s2 fn c).waiting.isEmpty || s2.timers.any (fun t => t.due.step = .completionEntryRetry && t.due.args.n0 == fn && t.due.args.n1 == c)
      then s2 else later s2 1000000 .completionEntryRetry { n0 := fn, n1 := c }

/-- HEAD moves past the leading records that have all completed (R70, R75). -/
def advanceHead (q : Queue) : Nat → Queue
  | 0 => q
  | n + 1 =>
    if q.doneRecs.contains q.head then advanceHead { q with head := q.head + 1, doneRecs := q.doneRecs.filter fun d => !(d = q.head) } n else q

/-- A mapped queue that is no longer runnable calls for a mapping pass (R93). -/
def runnableQueue (q : Queue) : Bool := q.state == 1 && (!(q.tail = q.ticket) || q.recs.any (·.started))

/-- A queue has work for a slot: it is runnable, or its context is saved with claimed records, which run to their end whatever the queue's state
(R69, R93, R95, R145). -/
def wantsSlot (q : Queue) : Bool := runnableQueue q || (q.saved && !(q.state == 0) && !q.recs.isEmpty)

/-- Ask for a mapping pass when a mapped queue has stopped being runnable (R93). -/
def checkMapped (s : State) (fn q : Nat) : State :=
  let x := queueOf s fn q
  if x.mapped && !(wantsSlot x) then dueOnce s .mappingPass {} else s

/-- The 32-byte completion entry (R89), PHASE aside. -/
def completionEntry (s : State) (q : Nat) (r : Rec) (status detail scope dies : Nat) : List Byte :=
  leBytes 4 r.tag ++ leBytes 2 q ++ leBytes 1 r.opcode ++ leBytes 1 status ++ leBytes 4 r.n ++ leBytes 1 scope ++ leBytes 1 dies ++
  leBytes 2 0 ++ leBytes 8 (now s) ++ leBytes 4 detail ++ leBytes 4 0

/-- The steps of a WAIT_TOKEN that has ended are withdrawn: its timeout and its reading again (R87). -/
def endWaitToken (s : State) (fn q n : Nat) : State :=
  withdraw s fun d => (d.step = .waitTokenTimeout || d.step = .waitTokenPoll || d.step = .waitTokenRecheck) &&
    d.args.n0 == fn && d.args.n1 == q && d.args.n2 == n

/-- COMPLETION_POST: a record completes (R89): its entry is handed to the completion queue, and HEAD
moves on (R70, R75). -/
def complete (s : State) (fn q n status detail scope dies : Nat) : State :=
  let x := queueOf s fn q
  match x.recs.find? fun r => r.n == n with
  | none => s
  | some r =>
    let s := if r.opcode == 0x11 then endWaitToken s fn q n else s
    let entry := completionEntry s q r status detail scope dies
    let quiet := r.flags / 2 % 2 == 1 && status == 0
    let urgent := r.flags / 4 % 2 == 1 || !(status == 0)
    let s1 := modQueue s fn q fun x =>
      advanceHead { x with recs := x.recs.filter (fun r => !(r.n == n)), doneRecs := x.doneRecs ++ [BitVec.ofNat 32 n] } (x.doneRecs.length + 1)
    let s2 := if quiet then queueDrained s1 fn q else
      let s := modCq s1 fn x.cq fun c => { c with waiting := c.waiting ++ [(entry, urgent)] }
      cqPost s fn x.cq ((cqOf s fn x.cq).waiting.length)
    checkMapped s2 fn q

/-- A queue that is ENABLED enters ERROR with a status and a record index (R69, R78). -/
def queueError (s : State) (fn q status index : Nat) : State :=
  let x := queueOf s fn q
  if x.state == 1 then
    checkMapped (modQueue s fn q fun x => { x with state := 2, err := BitVec.ofNat 64 (status * 2 ^ 32 + index % 2 ^ 32) }) fn q
  else s

/-! ## The end of a launch (R99, R155) -/

/-- The launch that a queue command made, from one of its descendants (R155). -/
def rootOf (s : State) (id : Nat) : Nat → Nat
  | 0 => id
  | n + 1 =>
    match (launchOf s id).bind (·.parent) with
    | some p => rootOf s p n
    | none => id

/-- The launches that descend from a launch, itself included. -/
def familyOf (s : State) (root : Nat) : List Nat :=
  (s.launches.map (·.1)).filter fun l => rootOf s l s.launches.length == root

/-- The counted dies of a launch (R89): bit n for die n. -/
def diesOf (cores : List Nat) : Nat := (if cores.any (· < 128) then 1 else 0) + (if cores.any (128 ≤ ·) then 2 else 0)

/-- The narrowest scope that encloses cores: code, die and index of a footprint (R85, R86). -/
def enclose (cores : List Nat) : Nat × Nat × Nat :=
  match cores with
  | [] => (0, 0, 0)
  | c :: r =>
    if r.all (· == c) then (0, c / 128, c % 128)
    else if r.all (fun x => pierNo x == pierNo c) then (1, c / 128, pierNo c % 32)
    else if r.all (fun x => x / 128 == c / 128) then (2, c / 128, 0)
    else (3, 0, 0)

/-- The narrowest scope that encloses a footprint and cores (R88, R468).  An invalid footprint counts as device scope. -/
def acquireScope (footprint : Nat) (cores : List Nat) : Nat :=
  let valid := footprint / 32768 % 2 == 1
  let sc := footprint / 4096 % 8
  let die := footprint / 256 % 2
  let ix := footprint % 256
  if !valid then 3
  else if 3 ≤ sc then sc
  else
    let fits := fun (level : Nat) =>
      let inside := fun (c : Nat) =>
        if level == 0 then sc == 0 && c == 128 * die + ix
        else if level == 1 then (sc == 0 && pierNo c == pierNo (128 * die + ix)) || (sc == 1 && pierNo c == 32 * die + ix)
        else c / 128 == die
      sc ≤ level && cores.all inside
    if fits 0 then 0 else if fits 1 then 1 else if fits 2 then 2 else 3

/-- The SCOPE byte of a launch's completion (R88, R89). -/
def launchScope (l : Launch) (cores : List Nat) : Nat :=
  match l.acquire with
  | some fp => acquireScope fp cores
  | none => (enclose cores).1

/-- The SCOPE byte of a record that ends without its launch having placed a team: the footprint's scope that a WAIT_TOKEN has read, the scope of the
footprint alone under which a launch was handed over, otherwise 0 (R88, R89). -/
def bareScope (r : Rec) : Nat :=
  if r.opcode == 0x11 then r.footprint / 4096 % 8
  else if r.launch.isSome then (match r.acquire with | some fp => acquireScope fp [] | none => 0)
  else 0

/-- A record fails: its completion posts, and the queue enters ERROR (R78). -/
def failRecord (s : State) (fn q n status detail : Nat) : State :=
  let scope := match (queueOf s fn q).recs.find? fun r => r.n == n with | some r => bareScope r | none => 0
  queueError (complete s fn q n status detail scope 0) fn q status n

/-- The stores of groups that are gone leave their slot, so that no later group there counts them as its own (R222). -/
def orphanStores (slots : List Nat) (c : Core) : Core := { c with sb := c.sb.map fun e => if slots.contains e.slot then { e with slot := noSlot } else e }

/-- Take a team off its core: its groups are gone and everything it held is free again (R99); groups blocked in REGGROW are looked at anew (R247,
R248). -/
def removeTeam (s : State) (id : Nat) : State :=
  match teamOf s id with
  | none => s
  | some t =>
    let p := pierNo t.cid
    let slots := ((coreOf s t.cid).groups.filter fun g => g.2.team == id).map (·.1)
    let s1 := modCore s t.cid fun c => orphanStores slots { c with groups := c.groups.filter fun g => !(g.2.team == id) }
    let s2 := modPier s1 p fun x => { x with
      table := x.table.filter fun e => !(e.team == id), copies := x.copies.filter fun e => !(e.team == id && e.kind != 5),
      gathers := x.gathers.filter fun e => !(e.team == id) }
    let grows := (coreOf s2 t.cid).groups.any fun p => p.2.ops.any fun o => match o.instr with | .reggrow .. => true | _ => false
    let s3 := releaseEngine { s2 with teams := erase s2.teams id } (transferAgent p)
    if grows then dueOnce s3 .reggrowGrant { n0 := t.cid } else s3

/-- The dies there are. -/
def diesHere (s : State) : List Nat := List.range (dieCount s)

/-- The placement unit of a die. -/
def placerOf (s : State) (die : Nat) : Placer := look Placer.reset s.placers die

/-- Change a placement unit. -/
def modPlacer (s : State) (die : Nat) (f : Placer → Placer) : State := { s with placers := place s.placers die (f (placerOf s die)) }

/-- A record of a launch would find an entry in a die's list: 16 of the 64 are kept for child grids (R105). -/
def listRoom (s : State) (die : Nat) (child : Bool) : Bool :=
  let l := (placerOf s die).list
  let children := (l.filter fun e => !e.2 && (match launchOf s e.1 with | some x => x.parent.isSome | none => false)).length
  if child then l.length < 64 else l.length < 64 && (l.length - children) + (children - 16) < 48

/-- The context of a launch is being pre-empted or is saved. -/
def contextAway (s : State) (l : Launch) : Bool := let q := queueOf s l.fn l.q; q.saved || q.preempt.isSome

/-- The first of the records that wait for room in a die's list and now have it goes on, unless one is on its way already; the next follows when it
has entered (R105). -/
def admitWaiting (s : State) (die : Nat) : State :=
  let p := placerOf s die
  let fits := fun (w : Nat) => match launchOf s w with | some l => listRoom s die l.parent.isSome && !(contextAway s l) | none => true
  match p.waiting.find? fits with
  | none => s
  | some w =>
    if s.agenda.any fun d => d.step = .placementRecordArrival && !d.args.flag && d.args.n0 == die && d.args.n2 == 1 then s
    else due (modPlacer s die fun p => { p with waiting := p.waiting.filter fun x => !(x == w) }) .placementRecordArrival { n0 := die, n1 := w, n2 := 1 }

/-- Records leave a placement unit: with the head its pass count ends (R108). -/
def Placer.drop (p : Placer) (gone : Nat × Bool → Bool) : Placer :=
  let q := { p with list := p.list.filter fun e => !(gone e), waiting := p.waiting.filter fun w => !(gone (w, false)) }
  match p.head with
  | some h => if gone h then { q with head := none, headPass := 0 } else q
  | none => q

/-- Records leave the placement lists of both dies, and what waited for room enters (R105, R108). -/
def dropRecords (s : State) (gone : Nat × Bool → Bool) : State :=
  (diesHere s).foldl (fun s d => admitWaiting s d) { s with placers := s.placers.map fun p => (p.1, p.2.drop gone) }

/-- The key under which the rays of a generation are counted: the physical address of its descriptor, the slot and the number (R289). -/
def generationKey (at_ target generation : Nat) : Nat := (at_ * 2 + target) * 2 ^ 32 + generation

/-- The generation of a ray. -/
def rayKey (r : Ray) : Nat := generationKey r.place r.target r.generation

/-- A ray that has been counted leaves the count (R289). -/
def uncountRay (s : State) (r : Ray) : State :=
  if r.accepted && (find? s.rayCounts (rayKey r)).isSome then { s with rayCounts := place s.rayCounts (rayKey r) (look 0 s.rayCounts (rayKey r) - 1) } else s

/-- The slot of a structure descriptor (R265, R266). -/
def slotAddr (desc target : Nat) : Nat := desc + 64 + 64 * target

/-- A build in progress is retired with error RETIRED: its slot becomes RETIRING with the extent m nodes and ⌊m / 2⌋ + 2 fences, its unsignalled fences
are to be failed, and the compactor follows (R266, R268, R290).  The work outlives the launch. -/
def retireBuild (s : State) (b : Build) : State :=
  let nodes := b.clusters
  let fences := b.clusters / 2 + 2
  let (id, s) := takeId s
  let c : Compact := ⟨b.die, b.cid, b.asid, b.fn, b.q, b.supervisor, b.desc, b.target, b.generation,
    [(slotAddr b.desc b.target + 28, leBytes 4 nodes ++ leBytes 4 fences ++ leBytes 1 3 ++ leBytes 1 5)],
    ((List.range (max 1 b.fences)).filter fun n => !(b.signalled.contains n)).map fun n => b.fenceBase + 8 * n,
    [(b.pool, 128 * nodes), (b.fenceBase, 8 * fences)], [], noSlot, 0#32, id, b.place⟩
  due { s with compacts := place s.compacts id c } .compactorBlock { n0 := id }

/-- The builder commands of launches that end: builds that have begun are retired, refits stop at the end of their node, commands not yet
accepted are gone, and an ASRETIRE that waits for an update goes on (R155, R268). -/
def retireBuilds (s : State) (ls : List Nat) : State :=
  (s.builds.filter fun b => ls.contains b.2.launch).foldl (fun s b =>
    if b.2.kind == 3 && 1 ≤ b.2.phase then s else
      let s1 := { s with builds := erase s.builds b.1 }
      if b.2.kind ≤ 1 && 1 ≤ b.2.phase then retireBuild s1 b.2 else s1) s

/-- Bins or on-chip space of a die have come free: records return from the rings (R121). -/
def ringsReturn (s : State) (die : Nat) : State :=
  s.launches.foldl (fun s l => match l.2.pool.bind fun p => find? p.dies die with
    | some d => if d.ringHead == d.ringTail then s else dueOnce s .overflowRingReturn { n0 := die, n1 := l.1 }
    | none => s) s

/-- Discard launches: their teams, gangs, records in the placement lists, rays, engine commands and faults (R155).  Builder and compactor
work runs on under R268 and R290. -/
def discardLaunches (s : State) (ls : List Nat) : State :=
  let ts := s.teams.filter fun t => ls.contains t.2.launch
  let s1 := ts.foldl (fun s t => removeTeam s t.1) s
  let s2 := retireBuilds s1 ls
  let s3 := { s2 with
    gangs := s2.gangs.filter (fun g => !(ls.contains g.2.launch))
    piers := s2.piers.map (fun p => (p.1, { p.2 with rays := p.2.rays.filter (fun r => !(ls.contains r.launch)) }))
    launches := s2.launches.filter (fun l => !(ls.contains l.1))
    fns := s2.fns.map (fun f => (f.1, { f.2 with faults := f.2.faults.filter (fun x => match x.launch with | some l => !(ls.contains l) | none => true) })) }
  let gone := s2.piers.flatMap fun p => p.2.rays.filter fun r => ls.contains r.launch
  let s4 := gone.foldl uncountRay s3
  let s5 := withdraw s4 fun d =>
    (d.step = .watchdogExpiry && ls.contains d.args.n0) || (d.step = .poolOverflowExpiry && ls.contains d.args.n0) ||
    (d.step = .binAgeExpiry && ls.contains d.args.n1) || (d.step = .launchComplete && ls.contains d.args.n0) ||
    (d.step = .poolRecordDeliver && ls.contains d.args.n1) || (d.step = .overflowRingReturn && ls.contains d.args.n1) ||
    (d.step = .placementRecordArrival && ls.contains d.args.n1)
  let s6 := dropRecords s5 fun e => !e.2 && ls.contains e.1
  (diesHere s).foldl (fun s d => dueOnce (ringsReturn s d) .placementPass { n0 := d }) s6

/-- Stores of groups that are gone are still to be performed on some core of a list (R222). -/
def orphansOn (s : State) (cores : List Nat) : Bool := cores.any fun c => (coreOf s c).sb.any fun e => e.slot == noSlot

/-- A launch ends with a status before its teams have retired: it, its children and their groups are discarded, and its one completion
posts once the stores that its groups had buffered are performed (R155, R231).  The queue stays as it is. -/
def endLaunch (s : State) (id status detail : Nat) : State :=
  let root := rootOf s id s.launches.length
  match launchOf s root with
  | none => s
  | some l =>
    if l.doomed.isSome then s else
      let fam := familyOf s root
      let cores := dedup (fam.flatMap fun x => ((launchOf s x).map (·.cores)).getD [])
      let s1 := discardLaunches s fam
      let s2 := modQueue s1 l.fn l.q fun x => { x with cores := dedup (x.cores ++ cores) }
      if orphansOn s2 cores then
        due { s2 with launches := place s2.launches root { l with cores := cores, teams := [], pool := none, since := none, doomed := some (status, detail) } }
          .launchComplete { n0 := root }
      else complete s2 l.fn l.q l.rec_ status detail (launchScope l cores) (diesOf cores)

/-! ## Fault entries (R156 to R160) -/

/-- Post the faults of a function that wait on chip, in order, while the ring has room and its slots can be written (R158, R159). -/
def postFault (s : State) (fn : Nat) : State × Bool :=
  let f := fnOf s fn
  match f.faults.find? fun x => !x.written with
  | none => (s, false)
  | some x =>
    let size := ringSize f.frLog2
    let n := f.frTail.toNat
    if !f.frEnabled || size ≤ (f.frTail - f.frHead).toNat then (s, false) else
      match writeVirt s 0 (absAsid s fn f.frAsid) fn (f.frBase.toNat + 32 * (n % size)) (x.entry.take 31 ++ [phaseByte n size]) true with
      | .done s1 =>
        let s2 := modFn s1 fn fun f => { f with frTail := f.frTail + 1, faults := f.faults.map fun y => if y.id = x.id then { y with written := true } else y }
        (if f.frIrq then raiseMsix s2 fn f.frVector else s2, true)
      | .wait s1 => (s1, false)
      | _ => (s, false)

/-- Post what can be posted; what remains is tried again within 1 ms (R159). -/
def postFaults (s : State) (fn : Nat) : Nat → State
  | 0 => s
  | n + 1 =>
    match postFault s fn with
    | (s1, true) => postFaults s1 fn n
    | (s1, false) =>
      if (fnOf s1 fn).faults.all (·.written) || s1.timers.any (fun t => t.due.step = .faultEntryRetry && t.due.args.n0 == fn) then s1
      else later s1 1000000 .faultEntryRetry { n0 := fn }

/-- The address a fault entry names. -/
def faultVa (x : Fault_) : Nat := leNat (x.entry.take 8)

/-- A fault treated as ABORT (R159): it ends its launch with status FAULT; the fault of a queue COPY ends the COPY instead (R83), and a
compaction, which outlives its launch, tries again 1 ms later.  While the
context is saved the action waits for its restore (R160). -/
def abortFault (s : State) (fn id : Nat) : State :=
  match (fnOf s fn).faults.find? fun x => x.id.toNat == id with
  | none => s
  | some x =>
    if (queueOf s fn x.q).saved then
      modFn s fn fun f => { f with faults := f.faults.map fun y => if y.id = x.id then { y with aborted := true } else y }
    else
      let s1 := modFn s fn fun f => { f with faults := f.faults.filter fun y => !(y.id = x.id) }
      let detail := faultVa x % 2 ^ 32
      match x.launch with
      | some l => endLaunch s1 l 6 detail
      | none =>
        let cmds := s1.piers.flatMap fun p => (p.2.copies.filter fun c => c.kind == 5 && c.faults.contains id && c.fn == fn).map fun c => (p.1, c)
        let s2 := cmds.foldl (fun s c =>
          let gone := modPier s c.1 fun p => { p with copies := p.copies.filter fun y => !(y.id == c.2.id) }
          complete (releaseEngine gone (transferAgent c.1)) fn x.q c.2.rec_ 6 detail 0 (2 ^ (c.1 / 32))) s1
        (s2.compacts.filter fun c => c.2.fn == fn && c.2.faults.contains id).foldl (fun s c =>
          later { s with compacts := place s.compacts c.1 { c.2 with faults := c.2.faults.filter fun y => !(y == id) } } 1000000 .compactorBlock
            { n0 := c.1 }) s2

/-- FAULT_ENTRY_POST: raise a fault (R158): the identifier it has, its entry, and its timeout.  Without a fault ring it is an ABORT, which
the caller makes when the answer says so. -/
def raiseFault (s : State) (fn q asid va subtype level : Nat) (k : AccKind) (agent : Nat) (launch : Option Nat) : Nat × State × Bool :=
  let f := fnOf s fn
  let id := f.nextFault
  let entry := leBytes 8 (va % 2 ^ 57) ++ leBytes 4 id ++ leBytes 1 subtype ++ leBytes 1 level ++ leBytes 1 k.code ++ leBytes 1 agent ++
    leBytes 8 (now s) ++ leBytes 2 q ++ leBytes 1 asid ++ leBytes 5 0
  let x : Fault_ := ⟨BitVec.ofNat 32 id, entry, false, false, false, q, launch, now s⟩
  let s1 := modFn s fn fun f => { f with faults := f.faults ++ [x], nextFault := (f.nextFault + 1) % 2 ^ 32 }
  if f.frEnabled then
    let s2 := later (postFaults s1 fn (f.faults.length + 1)) (1000000 * f.frTimeout) .faultTimeout { n0 := fn, n1 := id }
    (id, s2, true)
  else (id, s1, false)

end Sys2Proof.Machine
end

