-- ==== Sys2Proof/Machine/Flags.lean ====
section
/-! DEFINITION.  Completion-flag attachment (R335, R470) and the conditions of compares (R372). -/

namespace Sys2Proof.Machine

/-- Which header field an instruction is attached to (R335). -/
inductive FlagUse where
  | setA
  | setB
  | unattached
  deriving DecidableEq, Repr

/-- The attachment of an instruction (R335, R439, R470). -/
def flagUse : Instr → FlagUse
  | .ld .. => .setA
  | .ldLit .. => .setA
  | .ldSpec .. => .setA
  | .ldSpecLit .. => .setA
  | .ldFmt .. => .setA
  | .ldAcq .. => .setA
  | .lds .. => .setA
  | .ldsLit .. => .setA
  | .ldsWait .. => .setA
  | .ldsWaitLit .. => .setA
  | .ldsWaitClr .. => .setA
  | .ldsWaitClrLit .. => .setA
  | .ldsFmt .. => .setA
  | .ldsWaitFmt .. => .setA
  | .atom32 .. => .setA
  | .atomCasB32 .. => .setA
  | .atom64 .. => .setA
  | .atomCasB64 .. => .setA
  | .qwait .. => .setA
  | .mrdF32 .. => .setA
  | .mrdS32 .. => .setA
  | .trace .. => .setA
  | .asbuild .. => .setA
  | .asbuildUpdate .. => .setA
  | .asrefit .. => .setA
  | .launch .. => .setA
  | .st .. => .setB
  | .stLit .. => .setB
  | .stRel .. => .setB
  | .sts .. => .setB
  | .stsLit .. => .setB
  | .stsSet .. => .setB
  | .stsSetLit .. => .setB
  | .redAddS32 .. => .setB
  | .redAddS64 .. => .setB
  | .redAddF32 .. => .setB
  | .redAddBf16x2 .. => .setB
  | .redAtomic .. => .setB
  | .copyG2s .. => .setB
  | .copyS2g .. => .setB
  | .copyG2g .. => .setB
  | .gather .. => .setB
  | .scatter .. => .setB
  | .qsig .. => .setB
  | .mma .. => .setB
  | .mmaSp .. => .setB
  | .mwr .. => .setB
  | .mzero .. => .setB
  | .traceEmit .. => .setB
  | .emit .. => .setB
  | _ => .unattached

/-- SET_A of a clause header (R333). -/
def headerSetA (h : Word) : Nat := (h.extractLsb' 9 4).toNat
/-- SET_B of a clause header (R333). -/
def headerSetB (h : Word) : Nat := (h.extractLsb' 5 4).toNat
/-- WAIT of a clause header, bit n for flag fn (R333). -/
def headerWait (h : Word) : BitVec 12 := h.extractLsb' 13 12
/-- COUNT of a clause header (R333). -/
def headerCount (h : Word) : Nat := (h.extractLsb' 28 4).toNat
/-- CLASS of a clause header (R333). -/
def headerClass (h : Word) : Nat := (h.extractLsb' 25 3).toNat

/-- The flag an instruction of a clause is attached to; 12 to 15 attach nothing (R335). -/
def flagFor (i : Instr) (header : Word) : Nat :=
  match flagUse i with
  | .setA => headerSetA header
  | .setB => headerSetB header
  | .unattached => noFlag

/-- The condition codes of R372 on exact integers. -/
def condition (c : Nat) (x y : Int) : Bool :=
  if c == 0 then x == y else if c == 1 then !(x == y) else if c == 2 then x < y
  else if c == 3 then x ≤ y else if c == 4 then y < x else y ≤ x

/-- A truth value as a register value, tagged INT32 (R372). -/
def boolReg (b : Bool) : Reg := ⟨if b then 1#32 else 0#32, 12#4⟩

end Sys2Proof.Machine
end

