-- ==== Sys2Proof/Machine/Trace.lean ====
section
/-! DEFINITION.  Trace and profiling: the trace buffers with their GAP records, STOP, LOG and SAMPLE records (R304 to R308), and the top-down
counters (R300 to R303). -/

namespace Sys2Proof.Machine

/-! ## The trace buffers (R304, R307) -/

/-- The trace buffer of a die. -/
def bufOf (s : State) (die : Nat) : TraceBuf := look TraceBuf.reset s.dbg.buffers die

/-- Set the trace buffer of a die. -/
def setBuf (s : State) (die : Nat) (b : TraceBuf) : State := { s with dbg := { s.dbg with buffers := place s.dbg.buffers die b } }

/-- Records a buffer of 64 KiB holds (R304, R307). -/
def bufRoom : Nat := 2048

/-- A record: kind, die, core, slot, ordinal, time and payload (R304). -/
def traceRecord (kind die core slot : Nat) (ordinal : Word) (time : Dword) (payload : Nat) : List Byte :=
  leBytes 1 kind ++ leBytes 1 die ++ leBytes 1 core ++ leBytes 1 slot ++ leBytes 4 ordinal.toNat ++ leBytes 8 time.toNat ++ leBytes 16 payload

/-- The GAP record of a buffer (R307): count, kinds and first lost LOG number. -/
def gapRecord (s : State) (die : Nat) (b : TraceBuf) : List Byte :=
  traceRecord 4 die 0 0 0xFFFFFFFF#32 s.time (b.lost % 2 ^ 32 + 2 ^ 32 * b.kinds + 2 ^ 64 * (match b.firstLog with | some n => n % 2 ^ 64 | none => 2 ^ 64 - 1))

/-- The Trestle takes some records of a die, a free number of them, and with space again the GAP record comes before any other (R307). -/
def drainTrace (s : State) (die : Nat) : State :=
  let (v, s) := takeFree s
  let b := bufOf s die
  let n := v % (b.records.length + 1)
  let s1 := { s with out := { s.out with trace := s.out.trace ++ (b.records.take n).map fun r => (die, r) } }
  let b1 := { b with records := b.records.drop n }
  if 0 < b1.lost && b1.records.length < bufRoom then
    setBuf s1 die ⟨b1.records ++ [gapRecord s1 die b1], 0, 0, none⟩
  else setBuf s1 die b1

/-- Send a record on a die's trace lanes; one that finds the buffer full is discarded (R307).  `ordinal` is its ordinal and `log` its log
sequence number; the first LOG record lost marks the run as not replayable (R308). -/
def sendTrace (s : State) (die kind : Nat) (r : List Byte) (ordinal : Word) (log : Option Nat) : State :=
  let s1 := drainTrace s die
  let b := bufOf s1 die
  if b.records.length < bufRoom then setBuf s1 die { b with records := b.records ++ [r] }
  else
    let kinds := if b.kinds / 2 ^ kind % 2 == 1 then b.kinds else b.kinds + 2 ^ kind
    let s2 := dueOnce (setBuf s1 die { b with lost := b.lost + 1, kinds := kinds, firstLog := b.firstLog <|> log }) .gapRecord { n0 := die }
    if log.isSome && !s2.dbg.notReplayable then { s2 with dbg := { s2.dbg with notReplayable := true, firstOrdinal := ordinal } } else s2

/-- GAP_RECORD: space returns in the trace buffer of die `n0` after discards (R307). -/
def execGapRecord (s : State) : Out :=
  let die := s.args.n0
  if (bufOf s die).lost == 0 then .next s else
    let s1 := drainTrace s die
    .next (if (bufOf s1 die).lost == 0 then s1 else dueOnce s1 .gapRecord s.args)

/-- A STOP record for a frame written at a halt or a breakpoint (R305). -/
def sendStop (s : State) (cid slot : Nat) (ordinal : Word) : State :=
  sendTrace s (cid / 128) 2 (traceRecord 2 (cid / 128) (cid % 128) slot ordinal s.time 0) ordinal none

/-- A LOG record of a context, when the debugger is attached to it and logging is on (R306); which safe point it names is a free value. -/
def sendLog (s : State) (ctx : Nat × Nat) (cid slot : Nat) : State :=
  if !(s.dbg.logEn && s.dbg.enabled && ctx = (s.dbg.fn, s.dbg.q)) then s else
    let (v, s0) := takeFree s
    let (w, s1) := takeFree s0
    let n := s1.dbg.logSeq
    let o := BitVec.ofNat 32 w
    let r := traceRecord 3 (cid / 128) (cid % 128) slot o s1.time (n % 2 ^ 64 + 2 ^ 64 * (Config.logPayload v % 2 ^ 64))
    sendTrace { s1 with dbg := { s1.dbg with logSeq := n + 1 } } (cid / 128) 3 r o (some n)

/-- A LOG record of the context of a group. -/
def logGroup (s : State) (cid slot : Nat) : State :=
  match groupOf s cid slot with
  | some g => sendLog s (contextOf s g) cid slot
  | none => s

/-- A LOG record for a load, when it returned another agent's store: a free value says whether it did (R306). -/
def logLoad (s : State) (cid slot : Nat) : State :=
  if !(s.dbg.logEn && s.dbg.enabled) then s else
    let (v, s1) := takeFree s
    if v % 2 == 0 then s1 else logGroup s1 cid slot

/-! ## The counters (R300 to R303) -/

/-- The leaves that a group may be charged to that no blocked thread decides (R300, R301): a fetch miss; a flag that an operation within the core holds;
a level of memory for an unfinished access; a matrix or another engine for a flag with more attached than the core's own instructions. -/
def flagLeaves (g : Group) : List Nat :=
  let access := g.ops.any fun o => o.flag < 12
  let engine := (List.range 12).any fun f => (g.ops.filter fun o => o.flag == f).length < (nth ⟨0, none⟩ g.flags f).count
  [3, 4] ++ (if access || !g.storesOut.isEmpty then [5, 6, 7, 8, 9] else []) ++ (if engine then [10, 11] else [])

/-- The leaf a stalled group is charged to (R300, R301); which level of memory an access has reached, and which unit a flag waits for, a free
value says. -/
def stallLeaf (free : Nat) (g : Group) : Nat :=
  let waiting := fun (p : Wait → Bool) => g.threads.any fun th => !th.exited && p th.wait
  let some_ := fun (p : Instr → Bool) => g.ops.any fun o => p o.instr
  if waiting fun w => match w with | .barrier .. => true | .reorder => true | _ => false then 12
  else if some_ fun i => match i with | .pipePut .. => true | .pipeGet .. => true | _ => false then 13
  else if some_ fun i => match i with
      | .ldsWait .. => true | .ldsWaitLit .. => true | .ldsWaitClr .. => true | .ldsWaitClrLit .. => true | .ldsWaitFmt .. => true
      | _ => false then 14
  else if waiting fun w => match w with | .cv _ => true | _ => false then 15
  else if some_ fun i => match i with | .reggrow .. => true | _ => false then 16
  else if waiting fun w => match w with | .matrixTable => true | .tileTable .. => true | .latch => true | _ => false then 10
  else if waiting fun w => match w with | .stream .. => true | _ => false then 11
  else nth 3 (flagLeaves g) (Config.freeNat free % (flagLeaves g).length)

/-- The oldest resident user group that could be charged for an idle slot: the given one aside, not stopped (R301). -/
def oldestStalled (c : Core) (not_ : Option Nat) : Option (Nat × Group) :=
  (sortBy (fun (a b : Nat × Group) => a.2.age < b.2.age || (a.2.age == b.2.age && a.1 ≤ b.1))
    (c.groups.filter fun p => p.1 < 15 && !(some p.1 == not_) && p.2.stop.isNone && !p.2.exitedWhole)).head?

/-- Charge slots to a leaf of a core and of a context's queue (R303). -/
def chargeSlots (s : State) (cid : Nat) (ctx : Nat × Nat) (leaf n : Nat) : State :=
  modCounters (modCore s cid fun c => { c with leaves := modNth c.leaves leaf (· + n) }) ctx fun x =>
    { x with leaves := modNth (if x.leaves.isEmpty then List.replicate 18 0 else x.leaves) leaf (· + n) }

/-- The context and leaf an idle slot of a core is charged to (R301); with no group to charge it is leaf 17 of the core alone. -/
def idleCharge (s : State) (cid : Nat) (not_ : Option Nat) : (Nat × Nat) × Nat :=
  match oldestStalled (coreOf s cid) not_ with
  | none => ((0, 4096), 17)
  | some (_, g) => (contextOf s g, stallLeaf s.free g)

/-- Charge slots of a core that issued nothing. -/
def chargeIdle (s : State) (cid n : Nat) : State :=
  let x := idleCharge s cid none
  chargeSlots { s with free := s.free + 1 } cid x.1 x.2 n

/-- Cycles pass for the contexts with a resident group (R303). -/
def contextCycles (s : State) (n : Nat) : State :=
  (dedup (s.teams.filterMap fun (t : Nat × Team) => (launchOf s t.2.launch).map fun l => (l.fn, l.q))).foldl
    (fun s k => modCounters s k fun x => { x with cycles := x.cycles + n }) s

/-- The charges of an issue (R301, R302): leaf 0 for the issuing group.  The first issue of a cycle charges the other slot to what holds the next
group back, and a second issue (`again`) takes that charge back. -/
def chargeIssue (s : State) (cid slot : Nat) (again : Bool) : State :=
  let ctx := match groupOf s cid slot with | some g => contextOf s g | none => (0, 4096)
  let s1 := chargeSlots s cid ctx 0 1
  if again then
    match (coreOf s1 cid).second with
    | none => s1
    | some (fn, q, leaf) =>
      let s2 := modCore s1 cid fun c => { c with leaves := modNth c.leaves leaf (· - 1), second := none }
      modCounters s2 (fn, q) fun x => { x with leaves := modNth x.leaves leaf (· - 1) }
  else
    let x := idleCharge s1 cid (some slot)
    let s2 := chargeSlots { s1 with free := s1.free + 1 } cid x.1 x.2 1
    contextCycles (modCore s2 cid fun c => { c with cycles := c.cycles + 1, second := some (x.1.1, x.1.2, x.2) }) 1

/-- Cycles in which a core issued nothing have passed, a free number of them. -/
def idleCycles (s : State) (cid : Nat) : State :=
  let (v, s) := takeFree s
  chargeIdle (contextCycles (modCore s cid fun c => { c with cycles := c.cycles + v }) v) cid (2 * v)

/-- CYCLES_READ: CYCLES of core `n1` is read through the physical function, or, with `flag`, of the context of queue `n1` of function `n0`: the 18
leaves go to the shadows in the same cycle (R303). -/
def execCyclesRead (s : State) : Out :=
  if s.args.flag then .next (modCounters s (s.args.n0, s.args.n1) fun x => { x with shadows := x.leaves })
  else if 128 * dieCount s ≤ s.args.n1 then .next s
  else .next (modCore (idleCycles s s.args.n1) s.args.n1 fun c => { c with shadows := c.leaves })

/-- The SAMPLE payload of a core: 7 bits for each leaf's share of the interval's issue slots (R305). -/
def samplePayload (c : Core) : Nat :=
  let d := (List.range 18).map fun k => nth 0 c.leaves k - nth 0 c.sampled k
  let total := d.sum
  if total == 0 then 0 else ((List.range 18).map fun k => 127 * nth 0 d k / total * 2 ^ (7 * k)).sum

/-- The oldest issuing user group of a core (R305). -/
def oldestUser (c : Core) : Option Nat := (oldestStalled c none).map (·.1)

/-- TRACE_SAMPLE: the sampling interval has passed; each core with a user group sends its SAMPLE record, and the next interval begins (R305). -/
def execTraceSample (s : State) : Out :=
  let d := s.dbg
  if !d.sampleEn || d.interval == 0 then .next s else
    let s1 := (s.cores.map (·.1)).foldl (fun s cid =>
      let s := idleCycles s cid
      let c := coreOf s cid
      let s' := match oldestUser c with
        | some slot =>
          let (v, s) := takeFree s
          let o := BitVec.ofNat 32 v
          sendTrace s (cid / 128) 1 (traceRecord 1 (cid / 128) (cid % 128) slot o s.time (samplePayload c)) o none
        | none => s
      modCore s' cid fun c => { c with sampled := c.leaves }) s
    .next (later s1 d.interval .traceSample {})

/-- A write to DBG_TRACE_CFG (R305): a sampling that begins starts its first interval. -/
def writeTraceCfg (s : State) (v : Dword) : State :=
  let n := (v.extractLsb' 0 32).toNat
  let s1 := { s with dbg := { s.dbg with sampleEn := v.getLsbD 63, logEn := v.getLsbD 62, interval := n } }
  let s2 := withdraw s1 fun d => d.step = .traceSample
  if v.getLsbD 63 && !(n == 0) then later s2 n .traceSample {} else s2

/-- TRACE_STATUS_CLEAR: 1 is written to NOT_REPLAYABLE; the bit clears and FIRST_ORDINAL reads all ones (R308). -/
def execTraceStatusClear (s : State) : Out :=
  .next { s with dbg := { s.dbg with notReplayable := false, firstOrdinal := 0xFFFFFFFF#32 } }

end Sys2Proof.Machine
end

