-- ==== Sys2Proof/Machine/Access.lean ====
section
/-! DEFINITION.  Performing the accesses of threads: loads, stores, atomics and reductions of memory and scratchpad (R219 to R232, R412 to
R426), their faults (R140, R156), and the steps LOAD_COMPLETE, STORE_PERFORM, PAGE_WALK, SWAP_MIG_ACCESS and QWAIT_REREAD. -/

namespace Sys2Proof.Machine

/-- What kind of access an instruction makes for each thread: its size, the registers it loads or stores, the tag of its destination, and
its qualifiers. -/
structure Access where
  scratch : Bool := false
  size : Nat
  kind : AccKind
  reg : Nat := 0
  tag : BitVec 4 := 0#4
  spec : Bool := false
  acq : Option Nat := none
  rel : Option Nat := none
  waits : Bool := false
  clears : Bool := false
  sets : Bool := false
  noResult : Bool := false
  deriving DecidableEq, Repr

/-- The access of a memory instruction (R414, R415, R422, R425, R467, R468). -/
def accessOf : Instr → Option Access
  | .ld _ d _ z => some { size := zBytes z, kind := .read, reg := d.toNat }
  | .ldLit _ d _ _ _ z _ => some { size := zBytes z, kind := .read, reg := d.toNat }
  | .ldSpec _ d _ z => some { size := zBytes z, kind := .read, reg := d.toNat, spec := true }
  | .ldSpecLit _ d _ _ _ z _ => some { size := zBytes z, kind := .read, reg := d.toNat, spec := true }
  | .st _ d _ z => some { size := zBytes z, kind := .write, reg := d.toNat }
  | .stLit _ d _ _ _ z _ => some { size := zBytes z, kind := .write, reg := d.toNat }
  | .ldFmt _ d _ k z => some { size := zBytes z, kind := .read, reg := d.toNat, tag := k }
  | .ldAcq _ d _ c z => some { size := zBytes z, kind := .read, reg := d.toNat, acq := some c.toNat }
  | .stRel _ d _ c z => some { size := zBytes z, kind := .write, reg := d.toNat, rel := some c.toNat }
  | .lds _ d _ z => some { scratch := true, size := zBytes z, kind := .read, reg := d.toNat }
  | .ldsLit _ d _ _ _ z _ => some { scratch := true, size := zBytes z, kind := .read, reg := d.toNat }
  | .ldsWait _ d _ z => some { scratch := true, size := zBytes z, kind := .read, reg := d.toNat, waits := true }
  | .ldsWaitLit _ d _ _ _ z _ => some { scratch := true, size := zBytes z, kind := .read, reg := d.toNat, waits := true }
  | .ldsWaitClr _ d _ z => some { scratch := true, size := zBytes z, kind := .read, reg := d.toNat, waits := true, clears := true }
  | .ldsWaitClrLit _ d _ _ _ z _ => some { scratch := true, size := zBytes z, kind := .read, reg := d.toNat, waits := true, clears := true }
  | .sts _ d _ z => some { scratch := true, size := zBytes z, kind := .write, reg := d.toNat }
  | .stsLit _ d _ _ _ z _ => some { scratch := true, size := zBytes z, kind := .write, reg := d.toNat }
  | .stsSet _ d _ z => some { scratch := true, size := zBytes z, kind := .write, reg := d.toNat, sets := true }
  | .stsSetLit _ d _ _ _ z _ => some { scratch := true, size := zBytes z, kind := .write, reg := d.toNat, sets := true }
  | .ldsFmt _ d _ k z => some { scratch := true, size := zBytes z, kind := .read, reg := d.toNat, tag := k }
  | .ldsWaitFmt _ d _ k z => some { scratch := true, size := zBytes z, kind := .read, reg := d.toNat, tag := k, waits := true }
  | .atom32 _ o d _ _ =>
    some { size := 4, kind := .atomic, reg := d.toNat, tag := if o.toNat == 10 then 1#4 else if o.toNat == 8 then 0#4 else 12#4 }
  | .atomCasB32 _ d _ _ => some { size := 4, kind := .atomic, reg := d.toNat }
  | .atom64 _ o d _ _ => some { size := 8, kind := .atomic, reg := d.toNat, tag := if o.toNat == 8 then 0#4 else 12#4 }
  | .atomCasB64 _ d _ _ => some { size := 8, kind := .atomic, reg := d.toNat }
  | .redAddS32 _ _ _ => some { size := 4, kind := .atomic, noResult := true }
  | .redAddS64 _ _ _ => some { size := 8, kind := .atomic, noResult := true }
  | .redAddF32 _ _ _ => some { size := 4, kind := .atomic, noResult := true }
  | .redAddBf16x2 _ _ _ => some { size := 4, kind := .atomic, noResult := true }
  | .redAtomic _ _ _ _ => some { size := 4, kind := .atomic, noResult := true }
  | .qsig _ c _ b => some { size := 16, kind := .write, reg := b.toNat, rel := some c.toNat }
  | .qwait _ d _ _ => some { size := 16, kind := .read, reg := d.toNat, acq := some 1 }
  | _ => none

/-- The alignment a global access must have: its size, and 32 bytes for a token record (R413, R467, R468). -/
def alignOf (i : Instr) (a : Access) : Nat :=
  match i with
  | .qsig .. => 32
  | .qwait .. => 32
  | _ => a.size

/-- The COMM format a reduce-add is made in (R425, R426): 0 for every other instruction. -/
def redFormat : Instr → Nat
  | .redAddF32 .. => 1
  | .redAddBf16x2 .. => 2
  | .redAddS32 .. => 3
  | .redAddS64 .. => 4
  | _ => 0

/-- A number of `n` bytes read as signed. -/
def signedOf (n v : Nat) : Int := if v < 2 ^ (8 * n - 1) then v else (v : Int) - 2 ^ (8 * n)

/-- The operations of R422 on `n` bytes: new value from the old value m and operand b. -/
def atomValue (op n m b : Nat) : Nat :=
  if op == 0 then (m + b) % 2 ^ (8 * n)
  else if op == 1 then (if signedOf n b < signedOf n m then b else m)
  else if op == 2 then (if signedOf n m < signedOf n b then b else m)
  else if op == 3 then min m b
  else if op == 4 then max m b
  else if op == 5 then m &&& b
  else if op == 6 then m ||| b
  else if op == 7 then m ^^^ b
  else if op == 8 then b
  else faddEnc fp32 .rne m b

/-- The new value an atomic or a reduction writes (R422 to R426): `b` is the operand, `c` the new value of a CAS. -/
def newValue (i : Instr) (m b c : Nat) : Nat :=
  match i with
  | .atom32 _ o _ _ _ => atomValue o.toNat 4 m b
  | .atom64 _ o _ _ _ => atomValue o.toNat 8 m b
  | .atomCasB32 .. => if m == b then c else m
  | .atomCasB64 .. => if m == b then c else m
  | .redAddS32 .. => commAdd 3 m b
  | .redAddS64 .. => commAdd 4 m b
  | .redAddF32 .. => commAdd 1 m b
  | .redAddBf16x2 .. => commAdd 2 (m % 65536) (b % 65536) + 65536 * commAdd 2 (m / 65536) (b / 65536)
  | .redAtomic _ o _ _ => atomValue (o.toNat - 3) 4 m b
  | _ => m

/-- The footprint QSIG writes (R467): VALID 1, the scope, and the die and core or pier of the thread. -/
def qsigFootprint (scope cid : Nat) : Nat :=
  32768 + 4096 * scope +
  (if scope ≤ 2 then 256 * (cid / 128) else 0) +
  (if scope == 0 then cid % 128 else if scope == 1 then pierNo cid % 32 else 0)

/-- The operand register and the register of a CAS's new value, of `n` bytes each, from what `r` reads. -/
def operandOf (i : Instr) (r : Nat → Reg) : Nat × Nat :=
  let one := fun (v : Nat) => (r v).val.toNat
  let two := fun (v : Nat) => (pairVal (r v) (r (v + 1))).toNat
  match i with
  | .atom32 _ _ _ _ b => (one b.toNat, 0)
  | .atom64 _ _ _ _ b => (two b.toNat, 0)
  | .atomCasB32 _ _ _ b => (one b.toNat, one (b.toNat + 1))
  | .atomCasB64 _ _ _ b => (two b.toNat, two (b.toNat + 2))
  | .redAddS32 _ _ b => (one b.toNat, 0)
  | .redAddS64 _ _ b => (two b.toNat, 0)
  | .redAddF32 _ _ b => (one b.toNat, 0)
  | .redAddBf16x2 _ _ b => (one b.toNat, 0)
  | .redAtomic _ _ _ b => (one b.toNat, 0)
  | .qwait _ _ _ b => (two b.toNat, 0)
  | _ => (0, 0)

/-- The bytes a store writes (R417, R467). -/
def storeBytes (cid : Nat) (i : Instr) (a : Access) (r : Nat → Reg) : List Byte :=
  match i with
  | .qsig _ c _ b => leBytes 4 (r b.toNat).val.toNat ++ leBytes 4 (r (b.toNat + 1)).val.toNat ++ leBytes 8 (qsigFootprint c.toNat cid)
  | _ => ((List.range ((a.size + 3) / 4)).flatMap fun k => leBytes 4 (r (a.reg + k)).val.toNat).take a.size

/-- The registers a load of bytes writes (R416). -/
def loadRegs (a : Access) (b : List Byte) : List (Nat × Reg) :=
  if a.size < 4 then [(a.reg, ⟨BitVec.ofNat 32 (leNat b), a.tag⟩)]
  else (List.range (a.size / 4)).map fun k => (a.reg + k, ⟨BitVec.ofNat 32 (leNat ((b.drop (4 * k)).take 4)), a.tag⟩)

/-- The registers an access that returns a value writes: QWAIT returns the scope code it acquired at (R468). -/
def resultRegs (cid : Nat) (i : Instr) (a : Access) (b : List Byte) : List (Nat × Reg) :=
  match i with
  | .qwait _ d _ _ => [(d.toNat, ⟨BitVec.ofNat 32 (acquireScope (leNat ((b.drop 8).take 2)) [cid]), 12#4⟩)]
  | _ => if a.noResult then [] else loadRegs a b

/-! ## The group's context -/

/-- Function of a group. -/
def fnOfGroup (s : State) (g : Group) : Nat := (contextOf s g).1

/-- An address translated for a check at issue, as the tables stand. -/
def resolveFor (s : State) (cid : Nat) (g : Group) (va : Nat) (k : AccKind) : Xlat :=
  resolve s (pierNo cid) (asidOf s g) (fnOfGroup s g) va k g.supervisor

/-- A translation gives a line that no agent caches: home-performed or remote (R199, R213, R219). -/
def uncached (e : TlbEntry) : Bool := pteHome e.leaf == 3 || pteTier e.leaf == 3

/-! ## Faults of accesses already issued (R140, R156, R413) -/

/-- The lanes of an unfinished instruction whose access faults in translation now, with subtype, level and address. -/
def faultingLanes (s : State) (cid : Nat) (g : Group) (o : Op) : List (Nat × Nat × Nat × Nat) :=
  match accessOf o.instr with
  | none => []
  | some a =>
    if a.scratch then [] else
      (lanesOf o.todo).filterMap fun t =>
        let va := (nth 0#64 o.addrs t).toNat
        match resolveFor s cid g va a.kind with
        | .fault sub lvl => some (t, sub, lvl, va)
        | _ => none

/-- Raise the fault entries of a stopped group: one for each page and access kind (R156, R158), unless one of them ends the launch. -/
def raiseAll (s : State) (cid slot : Nat) (agent : Nat) : List (Nat × Nat × Nat × AccKind) → State
  | [] => s
  | (va, sub, lvl, k) :: rest =>
    match groupOf s cid slot with
    | none => s
    | some g =>
      let (fn, q) := contextOf s g
      let launch := (launchOfGroup s g).map fun _ => (((teamOf s g.team).map (·.launch)).getD 0)
      let (id, s1, ring) := raiseFault s fn q (asidOf s g) va sub lvl k agent launch
      let s2 := modGroup s1 cid slot fun g => { g with stop := g.stop.map fun st => { st with faults := st.faults ++ [id] } }
      if ring then raiseAll s2 cid slot agent rest else abortFault s2 fn id

/-- Keep one fault for each page and kind. -/
def onePerPage : List (Nat × Nat × Nat × AccKind) → List (Nat × Nat × Nat × AccKind)
  | [] => []
  | x :: r => x :: (onePerPage r).filter fun y => !(y.1 / 4096 == x.1 / 4096 && y.2.2.2 = x.2.2.2)

/-- A page fault of an unfinished instruction: lanes in a region abort with FAULT (R447); otherwise the group stops with cause PAGE_FAULT,
its unfinished instructions go to the replay queue, and its faults are raised (R140, R150, R156). -/
def pageFault (s : State) (cid slot : Nat) : State :=
  match groupOf s cid slot with
  | none => s
  | some g0 =>
    let soft := g0.ops.flatMap fun o => (faultingLanes s cid g0 o).filter fun f => o.inTry.getLsbD f.1
    let s1 := soft.foldl (fun s f => abortThread s cid slot f.1 6 8 (BitVec.ofNat 64 f.2.2.2)) s
    match groupOf s1 cid slot with
    | none => s1
    | some g =>
      let fs := g.ops.map fun o => (o, faultingLanes s1 cid g o)
      let hit := fs.filter fun p => !p.2.isEmpty
      match hit with
      | [] => s1
      | (o0, l0) :: _ =>
        let s2 := setGroup s1 cid slot { g with ops := fs.map fun p => { p.1 with faulted := laneSet (p.2.map (·.1)) } }
        let (_, sub, lvl, va) := l0.headD (0, 1, 0, 0)
        let _ := o0
        let s3 := stopGroup s2 cid slot (faultStop sub lvl va (laneSet (l0.map (·.1))))
        raiseAll s3 cid slot 0 (onePerPage (hit.flatMap fun p => p.2.map fun f =>
          (f.2.2.2, f.2.1, f.2.2.1, ((accessOf p.1.instr).map (·.kind)).getD .read)))

/-- Uncorrectable data or a peer port that is down, found after issue: the lane's region aborts with FAULT, or the group traps through its
replay queue (R413, R447). -/
def lateTrap (s : State) (cid slot op t code va : Nat) : State :=
  match groupOf s cid slot with
  | none => s
  | some g =>
    match opOf g op with
    | none => s
    | some o =>
      if o.inTry.getLsbD t then abortThread s cid slot t 6 code (BitVec.ofNat 64 va) else
        let s1 := setGroup s cid slot (modOp g op fun o => { o with faulted := oneLane t })
        let s2 := stopGroup s1 cid slot (trapStop code 0 0 va (oneLane t))
        if slot < 15 then due s2 .trapResolution { n0 := cid, n1 := slot } else s2

/-! ## When an access may be performed (R222, R224, R226, R228) -/

/-- The span of a lane of an unfinished instruction: space, address and size.  LAUNCH reads its record as a load (R486). -/
def spanOf (o : Op) (t : Nat) : Option (Bool × Nat × Nat) :=
  match o.instr with
  | .launch .. => some (false, (nth 0#64 o.addrs t).toNat, 64)
  | i => (accessOf i).map fun a => (a.scratch, (nth 0#64 o.addrs t).toNat, a.size)

/-- Two spans of one space overlap. -/
def overlap (x y : Bool × Nat × Nat) : Bool := x.1 == y.1 && x.2.1 < y.2.1 + y.2.2 && y.2.1 < x.2.1 + x.2.2

/-- Where the byte at a virtual address lies, if the tables say so now. -/
def placeIfKnown (s : State) (cid : Nat) (g : Group) (va : Nat) : Option Nat :=
  [AccKind.read, AccKind.write].findSome? fun k => match resolveFor s cid g va k with | .hit e => some (placeOf s e va) | _ => none

/-- Two spans of one group may touch a common location (R224): they overlap, or they lie at overlapping places of two pages that the tables do not show
to have different frames. -/
def clash (s : State) (cid : Nat) (g : Group) (x y : Bool × Nat × Nat) : Bool :=
  overlap x y ||
  (x.1 == y.1 && !x.1 && overlap (false, x.2.1 % 4096, x.2.2) (false, y.2.1 % 4096, y.2.2) &&
    match placeIfKnown s cid g x.2.1, placeIfKnown s cid g y.2.1 with
    | some a, some b => a / 4096 == b / 4096
    | _, _ => true)

/-- An unfinished instruction acts as an acquire (R228, R236, R468). -/
def isAcquire (o : Op) : Bool :=
  match accessOf o.instr with
  | some a => a.acq.isSome || a.waits
  | none => false

/-- Nothing in the thread's program order, nor a lower lane of the same instruction, holds the access back (R224, R228, R412). -/
def mayPerform (s : State) (cid : Nat) (g : Group) (o : Op) (t : Nat) : Bool :=
  let mine := spanOf o t
  let meets := fun (x : Option (Bool × Nat × Nat)) => match x, mine with | some a, some b => clash s cid g a b | _, _ => false
  (g.ops.all fun x => !(x.id < o.id && x.todo.getLsbD t) || !(isAcquire x || meets (spanOf x t))) &&
  (match accessOf o.instr with
   | some a => a.kind = .read || (lanesOf o.todo).all fun u => !(u < t) || !(meets (spanOf o u))
   | none => true)

/-- An unfinished instruction may still trap: an engine has not taken it, and it is no access to the scratchpad (R224, R413). -/
def mayTrap (o : Op) : Bool := !o.sent && !(match accessOf o.instr with | some a => a.scratch | none => false)

/-- No older instruction of the thread may still trap, and a release is preceded by none at all: the store may become core-visible, or be performed
(R222, R224, R226). -/
def mayStore (g : Group) (o : Op) (t : Nat) (rel : Bool) : Bool :=
  g.ops.all fun x => !(x.id < o.id && x.todo.getLsbD t) || !(mayTrap x || (rel && !x.sent))

/-- Engine work of a group's thread that is still going on, up to an identifier: commands of its pier; from die scope also what builders and
the compactor do for it on its own die, and from device scope builders of the other die (R226). -/
def engineWork (s : State) (cid slot t upto scope : Nat) : Bool :=
  let p := pierOf s (pierNo cid)
  let mine := fun (c slot' : Nat) (e : Lanes) (id : Nat) => c == cid && slot' == slot && e.getLsbD t && id < upto
  (p.copies.any fun c => mine c.cid c.slot c.lanes c.id) || (p.gathers.any fun c => mine c.cid c.slot c.lanes c.id) ||
  (p.table.any fun m => mine m.cid m.slot m.lanes m.id) ||
  (p.rays.any fun r => r.cid == cid && r.slot == slot && r.lane == t && r.id < upto) ||
  (match groupOf s cid slot with
   | some g => g.cv.any fun c => c.seqs.any fun x => x.1 == t && x.2 < upto
   | none => false) ||
  (s.builds.any fun b => mine b.2.cid b.2.slot b.2.lanes b.2.op && (3 ≤ scope || (scope == 2 && b.2.die == cid / 128))) ||
  (2 ≤ scope && s.compacts.any fun c => mine c.2.cid c.2.slot c.2.lanes c.2.op && c.2.die == cid / 128)

/-- What a release at a scope (R225) waits for, for a thread and everything before an identifier (R226, R227, R241). -/
def releaseReady (s : State) (cid slot t scope upto : Nat) : Bool :=
  match groupOf s cid slot with
  | none => true
  | some g =>
    let own := g.ops.all fun o => !(o.id < upto && o.todo.getLsbD t && !o.sent)
    if scope == 0 then own else
      let sb := (coreOf s cid).sb
      own && (sb.all fun e => !(e.slot == slot && e.lane == t && e.op < upto)) &&
      ((threadOf g t).observed.all fun id => sb.all fun e => !(e.id == id)) &&
      !(engineWork s cid slot t upto scope)

/-- Nothing of a lane waits in the replay queue of its group (R154). -/
def replayed (g : Group) (t : Nat) : Bool := g.replayQ.all fun r => !(r.lanes.getLsbD t)

/-- What an engine reads of a byte of the scratchpad: where the 32-byte word has changed since `before`, its old or its new value, by a free
value for each word and each pass or block `g` (R234, R435, log entry 21). -/
def passByte (before now_ : List (Nat × Byte)) (free base g : Nat) (a : Nat) : Byte :=
  let pa := base + a
  let w := 32 * (pa / 32)
  if before = now_ || readBytes before w 32 = readBytes now_ w 32 then readByte now_ pa
  else if Config.freeNat (free + 1 + 2 ^ 14 * g + pa / 32) % 2 == 0 then readByte now_ pa else readByte before pa

/-! ## Performing -/

/-- The step that tries a lane of an access again. -/
def retry (s : State) (cid slot op t : Nat) (write : Bool) : State :=
  due s (if write then .pageWalk else .loadComplete) { n0 := cid, n1 := slot, n2 := op, n3 := t }

/-- The replay log takes the outcome of an atomic, and of a load that returned another agent's store (R306). -/
def logAccess (s : State) (cid slot : Nat) (i : Instr) : State :=
  match accessOf i with
  | some a => if a.scratch || a.kind = .write then s else if a.kind = .atomic then logGroup s cid slot else logLoad s cid slot
  | none => s

/-- Put the result of a lane into its registers, and finish the lane. -/
def deliver (s : State) (cid slot : Nat) (o : Op) (t : Nat) (rs : List (Nat × Reg)) : State :=
  modGroup (logAccess s cid slot o.instr) cid slot fun g => finishLanes (writeResult g t rs) o.id (oneLane t) true

/-- Change the bytes of memory that a thread of the core writes; when its own L1 holds the line, with the dirty bit and what follows on the core
(R193, R453). -/
def writeMem (s : State) (cid slot t pa : Nat) (b : List Byte) : State :=
  let line := pa / 128
  let s1 := writeLineBytes s pa b
  if !(mayWrite s1 (l1Agent cid) line) then s1 else
    let r := lineOf s1 line
    l1Wrote (setLine s1 line (setHolder r { holderOf r (l1Agent cid) with dirty := true, valid := true })) cid line fun sl u => sl == slot && u == t

/-- The latest bytes of a store buffer at a place, an entry that stored it, or none (R222). -/
def sbByte (sb : List SbEntry) (ok : SbEntry → Bool) (a : Nat) : Option (Byte × SbEntry) :=
  (sb.filter fun e => ok e && e.addr ≤ a && a < e.addr + e.data.length).getLast?.map fun e => (nth 0#8 e.data (a - e.addr), e)

/-- The latest byte a region has buffered at a place (R237). -/
def regionByte (r : Option Region) (scratch : Bool) (a : Nat) : Option Byte :=
  r.bind fun r => ((r.writes.filter fun w => w.scratch == scratch && w.addr == a).getLast?).map (·.byte)

/-- QWAIT is satisfied by the record it has read (R468). -/
def qwaitDone (i : Instr) (r : Nat → Reg) (b : List Byte) : Bool :=
  match i with
  | .qwait .. => (operandOf i r).1 ≤ leNat (b.take 8)
  | _ => true

/-- A load of token-coherent memory (R191, R220, R222). -/
def coherentLoad (s : State) (cid slot : Nat) (g : Group) (o : Op) (t : Nat) (a : Access) (pa : Nat) : State :=
  let line := pa / 128
  let sb := (coreOf s cid).sb
  let own := fun (e : SbEntry) => e.slot == slot && e.lane == t
  let strict := a.spec || (match a.acq with | some c => 1 ≤ c && !(o.inTry.getLsbD t) | none => false)
  if strict && sb.any (fun e => e.addr / 128 == line && !(own e)) then retry s cid slot o.id t false else
    let region := (threadOf g t).region
    let got := (List.range a.size).map fun k =>
      match regionByte region false (pa + k) with
      | some b => (some b, none)
      | none =>
        match sbByte sb (fun e => !strict || own e) (pa + k) with
        | some (b, e) => (some b, some e)
        | none => (none, none)
    let fromMem := (a.spec && o.inTry.getLsbD t) || got.any fun x => x.1.isNone
    if fromMem && !(mayRead s (l1Agent cid) line) then retry (request s (l1Agent cid) line .read) cid slot o.id t false
    else if fromMem && poisoned s line then lateTrap s cid slot o.id t 0x12 (nth 0#64 o.addrs t).toNat
    else
      let bytes := (List.range a.size).map fun k => ((nth (none, none) got k).1).getD (readByte s.mem (pa + k))
      if !(qwaitDone o.instr (opReg g o t) bytes) then dueOnce s .qwaitReread { n0 := cid, n1 := slot, n2 := o.id } else
        let seen := got.filterMap fun x => x.2.bind fun e => if own e then none else some e.id
        let s1 := modGroup s cid slot fun g => modThread g t fun th => { th with observed := dedup (th.observed ++ seen) }
        deliver s1 cid slot o t (resultRegs cid o.instr a bytes)

/-- An atomic or a reduction of token-coherent memory: one step holding every token; a reduce-add to a range of its own format adds into the core's
partial accumulator, and a line with accumulators of another format is recalled first (R215, R220, R423, R425). -/
def coherentAtomic (s : State) (cid slot : Nat) (g : Group) (o : Op) (t : Nat) (a : Access) (pa : Nat) (comm : Nat) : State :=
  let line := pa / 128
  let me := l1Agent cid
  let wait := fun (s : State) => retry s cid slot o.id t false
  if (coreOf s cid).sb.any fun e => e.addr / 128 == line then wait s
  else if !(redFormat o.instr == 0) && comm == redFormat o.instr then
    let r := lineOf s line
    let h := holderOf r me
    match h.part with
    | some acc =>
      if h.count == 0 || r.recalling then wait s
      else if !(r.format == comm) then wait (recallPartials s line)
      else
        let off := pa % 128
        let one := leNat ((acc.drop off).take a.size)
        let v := newValue o.instr one (operandOf o.instr (opReg g o t)).1 0
        let acc' := acc.take off ++ leBytes a.size v ++ acc.drop (off + a.size)
        deliver (setLine s line (setHolder r { h with part := some acc' })) cid slot o t []
    | none =>
      if r.isPart && !(r.format == comm) then wait (recallPartials s line)
      else wait (request (if r.isPart then s else setLine s line { r with format := comm }) me line .part)
  else if !(mayWrite s me line) then wait (request s me line .write)
  else if poisoned s line then lateTrap s cid slot o.id t 0x12 (nth 0#64 o.addrs t).toNat
  else
    let m := readNat s.mem pa a.size
    let (b, c) := operandOf o.instr (opReg g o t)
    let s1 := writeMem s cid slot t pa (leBytes a.size (newValue o.instr m b c))
    deliver s1 cid slot o t (resultRegs cid o.instr a (leBytes a.size m))

/-- An atomic inside a region: it reads its line as a .spec load does, and its write joins the write set (R239). -/
def regionAtomic (s : State) (cid slot : Nat) (g : Group) (o : Op) (t : Nat) (a : Access) (pa : Nat) : State :=
  let line := pa / 128
  let own := fun (e : SbEntry) => e.slot == slot && e.lane == t
  if (coreOf s cid).sb.any fun e => e.addr / 128 == line && !(own e) then retry s cid slot o.id t false
  else if !(mayRead s (l1Agent cid) line) then retry (request s (l1Agent cid) line .read) cid slot o.id t false
  else if poisoned s line then lateTrap s cid slot o.id t 0x12 (nth 0#64 o.addrs t).toNat
  else
    let region := (threadOf g t).region
    let bytes := (List.range a.size).map fun k =>
      (regionByte region false (pa + k)).getD (((sbByte (coreOf s cid).sb own (pa + k)).map (·.1)).getD (readByte s.mem (pa + k)))
    let (b, c) := operandOf o.instr (opReg g o t)
    let new := leBytes a.size (newValue o.instr (leNat bytes) b c)
    let s1 := modGroup s cid slot fun g => modThread g t fun th => { th with region := th.region.map fun r =>
      { r with writes := r.writes ++ (List.range a.size).map fun k => ⟨false, pa + k, nth 0#8 new k⟩ } }
    deliver s1 cid slot o t (resultRegs cid o.instr a bytes)

/-- A store enters the store buffer, once no older instruction of its thread may trap: it is core-visible from now on, and the instruction has nothing
more of it in the pipeline (R140, R222, R224).  `deps` are the table lines through which it was translated (R180). -/
def enterStore (s : State) (cid slot : Nat) (g : Group) (o : Op) (t : Nat) (a : Access) (pa : Nat) (deps : List Nat) : State :=
  let lines := dedup ((coreOf s cid).sb.map fun e => e.addr / 128)
  if !(mayStore g o t a.rel.isSome) || (32 ≤ lines.length && !(lines.contains (pa / 128))) then retry s cid slot o.id t true else
    let (id, s1) := takeId s
    let e : SbEntry := ⟨id, o.id, slot, t, pa, storeBytes cid o.instr a (opReg g o t), a.rel, (threadOf g t).observed, deps⟩
    let s2 := modGroup (modCore s1 cid fun c => { c with sb := c.sb ++ [e] }) cid slot fun g => finishLanes g o.id (oneLane t) false
    due s2 .storePerform { n0 := cid, n1 := id }

/-- The home of a HOME = 3 line, the peer gateway, or the swap engine performs an access for the thread at a physical place, with every token where
it performs it; a host line that no die has obtained is the host's (R188, R199, R213, R232). -/
def performFor (s : State) (cid slot : Nat) (g : Group) (o : Op) (t : Nat) (a : Access) (pa : Nat) : State :=
  let va := (nth 0#64 o.addrs t).toNat
  let r := opReg g o t
  let outside := tierOf s pa == some 3 || (hostLine s (pa / 128) && (lineOf s (pa / 128)).hostState == 0)
  let put := fun (s : State) (b : List Byte) =>
    if outside then { s with out := { s.out with peerWrites := s.out.peerWrites ++ [(pa, b)] } } else writeMem s cid slot t pa b
  if a.kind = .write then
    if !(mayStore g o t a.rel.isSome) || !(match a.rel with | some c => releaseReady s cid slot t c o.id | none => true) then
      retry s cid slot o.id t true
    else modGroup (put s (storeBytes cid o.instr a r)) cid slot fun g => storeDone o.id (finishLanes g o.id (oneLane t) false)
  else if !outside && poisoned s (pa / 128) then lateTrap s cid slot o.id t 0x12 va
  else
    let (bytes, s1) := if outside then freeBytes s a.size else (readBytes s.mem pa a.size, s)
    if a.kind = .read then
      if !(qwaitDone o.instr r bytes) then later s1 1000 .qwaitReread { n0 := cid, n1 := slot, n2 := o.id }
      else deliver s1 cid slot o t (resultRegs cid o.instr a bytes)
    else
      let (b, c) := operandOf o.instr r
      deliver (put s1 (leBytes a.size (newValue o.instr (leNat bytes) b c))) cid slot o t (resultRegs cid o.instr a bytes)

/-- A store of the core to a line waits in its store buffer. -/
def buffered (s : State) (cid line : Nat) : Bool := (coreOf s cid).sb.any fun e => e.addr / 128 == line

/-- An access to a home-performed or a remote line (R199, R213, R232): the home has every token of its line; a remote device is reached through a
port that is up. -/
def performAt (s : State) (cid slot : Nat) (g : Group) (o : Op) (t : Nat) (a : Access) (pa : Nat) : State :=
  let wait := fun (s : State) => retry s cid slot o.id t (a.kind = .write)
  if buffered s cid (pa / 128) then wait s
  else if tierOf s pa == some 3 then
    if portUp s (portFor s (peerDevice pa)) then performFor s cid slot g o t a pa
    else lateTrap s cid slot o.id t 0x13 (nth 0#64 o.addrs t).toNat
  else
    match homeWhole s (pa / 128) with
    | (none, s1) => wait s1
    | (some s1, _) => performFor s1 cid slot g o t a pa

/-- One lane of a global access through a translation (R219). -/
def performVia (s : State) (cid slot : Nat) (g : Group) (o : Op) (t : Nat) (a : Access) (e : TlbEntry) : State :=
  let va := (nth 0#64 o.addrs t).toNat
  let pa := placeOf s e va
  if !(mayPerform s cid g o t) then retry s cid slot o.id t (a.kind = .write)
  else if pteMig e.leaf && (swapping s (e.pa va)).isSome then dueOnce s .swapMigAccess { n0 := cid, n1 := slot, n2 := o.id, n3 := t }
  else if uncached e then performAt s cid slot g o t a pa
  else
    match a.kind with
    | .write => enterStore s cid slot g o t a pa e.deps
    | .atomic => if o.inTry.getLsbD t then regionAtomic s cid slot g o t a pa else coherentAtomic s cid slot g o t a pa (pteComm e.leaf)
    | _ => coherentLoad s cid slot g o t a pa

/-- One lane of a scratchpad load: the bank performs it (R236, R252, R421). -/
def performScratch (s : State) (cid slot : Nat) (g : Group) (o : Op) (t : Nat) (a : Access) : State :=
  match teamOf s g.team with
  | none => s
  | some tm =>
    let pa := scratchAddr tm (nth 0#64 o.addrs t).toNat
    let c := coreOf s cid
    if !(mayPerform s cid g o t) || (a.waits && !(c.full.contains (pa / 16))) then retry s cid slot o.id t false else
      let region := (threadOf g t).region
      let bytes := (List.range a.size).map fun k => (regionByte region true (pa + k)).getD (readByte c.scratch (pa + k))
      let s1 := if a.clears then modCore s cid fun c => setEmpty c [pa / 16] else s
      deliver s1 cid slot o t (loadRegs a bytes)

/-- A page fault that a lane has met: its group stops, or its region aborts; while a table line that the walk needs is away, the walk is made
again. -/
def faultOrAgain (s : State) (cid slot op t : Nat) : State :=
  let s1 := pageFault s cid slot
  match groupOf s1 cid slot with
  | none => s1
  | some g =>
    if g.stop.isNone && (match opOf g op with | some o => o.todo.getLsbD t | none => false) then
      dueOnce s1 .pageWalk { n0 := cid, n1 := slot, n2 := op, n3 := t }
    else s1

/-- One lane of an access: through the L1 TLB, or to a walker when it misses there (R178). -/
def attempt (s : State) (cid slot op t : Nat) : State :=
  match groupOf s cid slot with
  | none => s
  | some g =>
    match opOf g op with
    | none => s
    | some o =>
      match accessOf o.instr with
      | none => s
      | some a =>
        if !(o.todo.getLsbD t) then s
        else if a.scratch then performScratch s cid slot g o t a
        else
          let va := (nth 0#64 o.addrs t).toNat
          match lookTlb s cid (asidOf s g) (fnOfGroup s g) va a.kind g.supervisor with
          | .hit e => performVia (touchTlb s cid e) cid slot g o t a e
          | .fault _ _ => faultOrAgain s cid slot op t
          | _ => due s .pageWalk { n0 := cid, n1 := slot, n2 := op, n3 := t }

/-- LOAD_COMPLETE: lane `n3` of the unfinished load, atomic or reduction `n2` of slot `n1` of core `n0` is performed, and its registers are
written (R220, R256, R416, R423). -/
def execLoadComplete (s : State) : Out := .next (attempt s s.args.n0 s.args.n1 s.args.n2 s.args.n3)

/-- PAGE_WALK: a walker serves lane `n3` of the unfinished access `n2` of slot `n1` of core `n0` (R170, R178 to R182). -/
def execPageWalk (s : State) : Out :=
  let cid := s.args.n0
  let slot := s.args.n1
  match groupOf s cid slot with
  | none => .next s
  | some g =>
    match opOf g s.args.n2 with
    | none => .next s
    | some o =>
      match accessOf o.instr with
      | none => .next s
      | some a =>
        let t := s.args.n3
        if !(o.todo.getLsbD t) then .next s else
          let va := (nth 0#64 o.addrs t).toNat
          match lookTlb s cid (asidOf s g) (fnOfGroup s g) va a.kind g.supervisor with
          | .hit _ => .next (attempt s cid slot o.id t)
          | .fault _ _ => .next (faultOrAgain s cid slot o.id t)
          | _ =>
            match walkFill s cid (asidOf s g) (fnOfGroup s g) va a.kind g.supervisor with
            | (.hit _, s1) => .next (attempt s1 cid slot o.id t)
            | (.direct e, s1) => .next (endDirect (performVia s1 cid slot g o t a e) cid e)
            | (.fault _ _, s1) => .next (faultOrAgain s1 cid slot o.id t)
            | (.unreadable, s1) => .next (lateTrap s1 cid slot o.id t 0x12 va)
            | (.miss, s1) => .next (due s1 .pageWalk s.args)

/-- The swap engine of the die that exchanges a frame performs an access for a thread where the line is now, holding every token as it does in its
own steps; then they go home (R188, R210, R232). -/
def swapPerform (s : State) (cid slot : Nat) (g : Group) (o : Op) (t : Nat) (a : Access) (e : TlbEntry) : State :=
  let va := (nth 0#64 o.addrs t).toNat
  let pa := placeOf s e va
  let again := fun (s : State) => due s .swapMigAccess { n0 := cid, n1 := slot, n2 := o.id, n3 := t }
  let agent := swapAgent (match swapping s (e.pa va) with | some x => x.1 | none => cid / 128)
  if !(mayPerform s cid g o t) || buffered s cid (pa / 128) then again s
  else match gather s agent (pa / 128) .write with
    | (none, s1) => again s1
    | (some s1, _) => giveBack (performFor s1 cid slot g o t a pa) agent (pa / 128) (!(a.kind = .read))

/-- SWAP_MIG_ACCESS: the swap engine performs lane `n3` of access `n2` of slot `n1` of core `n0` on the frame that holds the line now
(R188, R232). -/
def execSwapMigAccess (s : State) : Out :=
  let cid := s.args.n0
  let slot := s.args.n1
  match groupOf s cid slot with
  | none => .next s
  | some g =>
    match opOf g s.args.n2 with
    | none => .next s
    | some o =>
      match accessOf o.instr with
      | none => .next s
      | some a =>
        let t := s.args.n3
        let va := (nth 0#64 o.addrs t).toNat
        if !(o.todo.getLsbD t) then .next s else
          match walkFill s cid (asidOf s g) (fnOfGroup s g) va a.kind g.supervisor with
          | (.hit e, s1) => .next (swapPerform s1 cid slot g o t a e)
          | (.direct e, s1) => .next (endDirect (swapPerform s1 cid slot g o t a e) cid e)
          | (.fault _ _, s1) => .next (faultOrAgain s1 cid slot o.id t)
          | (.unreadable, s1) => .next (lateTrap s1 cid slot o.id t 0x12 va)
          | (.miss, s1) => .next (due s1 .swapMigAccess s.args)

/-- An entry of a core's store buffer may be performed: it is the first of its line, and a release has waited (R222 to R227).  What had to
come before it in its thread came before it entered the buffer (`enterStore`). -/
def entryReady (s : State) (cid : Nat) (e : SbEntry) : Bool :=
  let sb := (coreOf s cid).sb
  (match sb.find? fun x => x.addr / 128 == e.addr / 128 with | some x => x.id == e.id | none => false) &&
  (match e.rel with
   | some c => c == 0 || (releaseReady s cid e.slot e.lane c e.op && e.after.all fun id => sb.all fun x => !(x.id == id))
   | none => true)

/-- STORE_PERFORM: entry `n1` of the store buffer of core `n0` is performed, holding every token of its line (R220 to R224, R226, R227). -/
def execStorePerform (s : State) : Out :=
  let cid := s.args.n0
  match (coreOf s cid).sb.find? fun e => e.id == s.args.n1 with
  | none => .next s
  | some e =>
    let wait := fun (s : State) => Host.Outcome.next (due s .storePerform s.args)
    if s.coherence.drains.any (fun d => d.1 == cid && d.2.2.1 == e.id) then .next s
    else if !(entryReady s cid e) then wait s
    else if !(mayWrite s (l1Agent cid) (e.addr / 128)) then wait (request s (l1Agent cid) (e.addr / 128) .write)
    else
      let s1 := writeMem (dropStore s cid e.id) cid e.slot e.lane e.addr e.data
      .next (modGroup s1 cid e.slot (storeDone e.op))

/-- DRAIN_WRITE: the drain write of entry `n1` of the store buffer of core `n0` reaches the home of its line, which makes a drain activation and,
holding every token, applies and acknowledges it (R209).  A core that holds every token performs the store itself. -/
def execDrainWrite (s : State) : Out :=
  let cid := s.args.n0
  match (coreOf s cid).sb.find? fun e => e.id == s.args.n1 with
  | none => .next s
  | some e =>
    let line := e.addr / 128
    let home := homeDie s e.addr
    let sent := s.coherence.drains.any fun d => d.1 == cid && d.2.2.1 == e.id
    let again := fun (s : State) => dueOnce s .drainWrite { n0 := cid, n1 := e.id }
    if !sent && (!(entryReady s cid e) || mayWrite s (l1Agent cid) line) then .next (again s)
    else
      let s1 := if sent then s else { s with coherence := { s.coherence with drains := s.coherence.drains ++ [(cid, e.addr, e.id, e.data)] } }
      let s2 := if (tableOf s1 home).any fun p => p.line == line && p.drain then s1 else
        due (setTable s1 home (tableOf s1 home ++ [⟨line, homeAgent s line, .write, 0, 0, false, true⟩])) .arb
          { n0 := home, n1 := line, n2 := 0, n3 := homeAgent s line }
      let s3 := match obstacle s2 line (homeAgent s line) false with | some s' => s' | none => s2
      .next (again (serveDrain s3 line))

/-- QWAIT_REREAD: the unfinished QWAIT `n2` of slot `n1` of core `n0` reads its record again once the token it held has been taken, or after
1 us on a home-performed line (R468). -/
def execQwaitReread (s : State) : Out :=
  let cid := s.args.n0
  let slot := s.args.n1
  match (groupOf s cid slot).bind fun g => opOf g s.args.n2 with
  | none => .next s
  | some o => .next ((lanesOf o.todo).foldl (fun s t => dueOnce s .loadComplete { n0 := cid, n1 := slot, n2 := o.id, n3 := t }) s)

end Sys2Proof.Machine
end

