-- ==== Sys2Proof/Machine/Team.lean ====
section
/-! DEFINITION.  What belongs to a team: live threads, barriers (R460), convergence registers and the sending of an MMA (R258, R259, R477),
pipes (R103, R104, R465, R466), register growth (R246 to R248), and the events an exit may bring about (R386). -/

namespace Sys2Proof.Machine

/-- The groups of a team with their slots, in group order (R97). -/
def teamGroups (s : State) (id : Nat) : List (Nat × Group) :=
  match teamOf s id with
  | none => []
  | some t => sortBy (fun a b => a.2.index ≤ b.2.index) ((coreOf s t.cid).groups.filter fun p => p.2.team == id)

/-- The non-exited threads of a group. -/
def liveCount (g : Group) : Nat := (lanesOf (liveLanes g)).length

/-- The non-exited threads of a team. -/
def teamLive (s : State) (id : Nat) : Nat := ((teamGroups s id).map fun p => liveCount p.2).sum

/-! ## Barriers (R459 to R461) -/

/-- The need of a barrier (R460). -/
def barrierNeed (s : State) (id : Nat) (b : Barrier) : Nat := if b.expected == 0 then teamLive s id else b.expected

/-- BARRIER_COMPLETE: when the arrived count has reached the need, the phase advances and every waiting thread leaves (R460). -/
def barrierCheck (s : State) (id n : Nat) : State :=
  match teamOf s id with
  | none => s
  | some t =>
    let b := nth ⟨0, 0, 0#32⟩ t.barriers n
    if b.arrived == 0 || b.arrived < barrierNeed s id b then s else
      let s1 := modTeam s id fun t => { t with barriers := setNth t.barriers n { b with arrived := 0, phase := b.phase + 1 } }
      (teamGroups s1 id).foldl (fun s p => modGroup s t.cid p.1 fun g =>
        { g with threads := g.threads.map fun th => match th.wait with
          | .barrier m .. => if m == n then { th with wait := .ready } else th
          | _ => th }) s1

/-- Check every barrier of a team, as an exit calls for (R460). -/
def barrierCheckAll (s : State) (id : Nat) : State := (List.range 8).foldl (fun s n => barrierCheck s id n) s

/-! ## Sending an MMA (R131, R258, R259, R477) -/

/-- The priority of the queue that launched a group. -/
def priorityOf (s : State) (g : Group) : Nat := ((launchOfGroup s g).map (·.priority)).getD 0

/-- REUSE of an MMA literal (R474). -/
def mmaReuse (lit : Word) : Bool := lit.getLsbD 20
/-- TILE of an MMA literal. -/
def mmaTile (lit : Word) : Nat := fieldOf lit 24 4
/-- CV of an MMA literal. -/
def mmaCv (lit : Word) : Nat := fieldOf lit 21 3

/-- An empty convergence register (R244). -/
def Cv.empty : Cv := ⟨0#32, 0#32, 0#32, 0#32, 0#64, 0, [], [], false, [], []⟩

/-- Held latches of a pier (R259). -/
def heldLatches (s : State) (p : Nat) : Nat :=
  ((s.cores.filter fun c => pierNo c.1 == p).map fun c => (c.2.groups.filter fun g => g.2.latch.isSome).length).sum

/-- MMA_SEND: the operation of a convergence register enters the reservation table, with the word, literal and descriptor of the last
signer; the signed set clears, and the latch is held or emptied by REUSE (R258, R259, R477).  While the table has no room, or the pier no latch that it
needs, the send waits (R258, R259; log entry 98).  `instr` is the signed instruction. -/
def mmaSend (s : State) (cid slot n : Nat) (instr : Instr) : State :=
  match groupOf s cid slot with
  | none => s
  | some g =>
    let v := nth Cv.empty g.cv n
    let p := pierNo cid
    if 16 ≤ (pierOf s p).table.length || (mmaReuse v.lit && g.latch.isNone && 8 ≤ heldLatches s p) then
      dueOnce (setGroup s cid slot { g with cv := setNth g.cv n { v with pending := true } }) .matrixPass { n0 := p }
    else
      let tile := match teamOf s g.team with
        | some t => nth 0 t.tiles (mmaTile v.lit)
        | none => 0
      let (id, s) := takeId s
      let e : MatEntry := ⟨id, instr, cid, slot, g.team, tile, mmaTile v.lit, priorityOf s g, v.signed, v.flags, 0, v.lit, v.desc, v.fmt,
        v.rows, [], 0, v.before⟩
      let s1 := setGroup s cid slot { g with
        cv := setNth g.cv n { Cv.empty with members := v.members }
        latch := if mmaReuse v.lit then some (g.latch.getD ⟨v.fmt, v.rows⟩) else none }
      dueOnce (modPier s1 p fun x => { x with table := x.table ++ [e] }) .matrixPass { n0 := p }

/-- The instruction word of a convergence register, as an instruction. -/
def cvInstr (v : Cv) : Instr :=
  match decode v.word v.lit with
  | .ok i => i
  | _ => .nopFill false

/-- Every remaining member has signed, and some thread has (R258). -/
def cvComplete (v : Cv) : Bool := !v.flags.isEmpty && v.members &&& ~~~v.signed = 0#32

/-- A member that exits leaves the member set; the operation may then be sent (R258). -/
def cvLeave (s : State) (cid slot t : Nat) : State :=
  (List.range 8).foldl (fun s n =>
    match groupOf s cid slot with
    | none => s
    | some g =>
      match g.cv[n]? with
      | none => s
      | some v =>
        if !(v.members.getLsbD t) then s else
          let v1 := { v with members := v.members &&& ~~~(oneLane t) }
          let s1 := setGroup s cid slot { g with cv := setNth g.cv n v1 }
          if cvComplete v1 then mmaSend s1 cid slot n (cvInstr v1) else s1) s

/-- Operations whose send waited are sent as entries and latches free (R258, R259). -/
def sendPending (s : State) (p : Nat) : State :=
  (s.cores.filter fun c => pierNo c.1 == p).foldl (fun s c =>
    c.2.groups.foldl (fun s q => (List.range 8).foldl (fun s n =>
      match (groupOf s c.1 q.1).bind fun g => g.cv[n]? with
      | some v => if v.pending then mmaSend s c.1 q.1 n (cvInstr v) else s
      | none => s) s) s) s

/-! ## Pipes (R103, R104, R464 to R466) -/

/-- The pipe a team reaches from one end: the gang's identifier and the pipe; none when the gang does not bind it, or from the wrong end. -/
def pipeOf (s : State) (g : Group) (n : Nat) (put : Bool) : Option (Nat × Pipe) :=
  match teamOf s g.team with
  | none => none
  | some t =>
    match find? s.gangs t.gang with
    | none => none
    | some x =>
      match x.pipes[n]? with
      | none => none
      | some p => if (if put then p.producer else p.consumer) == t.kernel then some (t.gang, p) else none

/-- The team of one kernel of a gang has retired. -/
def kernelRetired (s : State) (gang kernel : Nat) : Bool :=
  match find? s.gangs gang with
  | none => true
  | some x => match x.teams[kernel]? with
    | some id => (teamOf s id).isNone
    | none => true

/-- Change a pipe of a gang. -/
def modPipe (s : State) (gang n : Nat) (f : Pipe → Pipe) : State :=
  match find? s.gangs gang with
  | none => s
  | some x => { s with gangs := place s.gangs gang { x with pipes := modNth x.pipes n f } }

/-- The buffer slot of a count: its first byte in the consumer core's scratchpad (R465). -/
def pipeSlot (p : Pipe) (count : Nat) : Nat := 4096 * p.unit + 128 * (count % 32)

/-- An unfinished PIPE.PUT or PIPE.GET moves its message when it can; it traps PIPE_ERROR when the other end has retired (R465, R466). -/
def servePipe (s : State) (cid slot : Nat) (o : Op) : State :=
  match groupOf s cid slot with
  | none => s
  | some g =>
    let trap := fun (s : State) => { takeTrap { s with iss := { s.iss with cid := cid, slot := slot } } cid slot 0x0D 0 o.todo with iss := s.iss }
    match o.instr with
    | .pipePut _ a n =>
      match pipeOf s g n.toNat true with
      | none => s
      | some (gang, p) =>
        let at_ := pipeSlot p p.puts
        let ready := (lanesOf o.todo).all fun t => releaseReady s cid slot t 2 o.id
        if kernelRetired s gang p.consumer then trap s
        else if !ready || (coreOf s p.cid).full.contains (at_ / 16) then s
        else
          let data := (List.range 32).flatMap fun t => leBytes 4 (if o.todo.getLsbD t then (opReg g o t a.toNat).val.toNat else 0)
          let s1 := modCore s p.cid fun c => setFull (writeScratch c at_ data) (granulesOf at_ 128)
          modGroup (modPipe s1 gang n.toNat fun p => { p with puts := p.puts + 1 }) cid slot fun g => finishLanes g o.id o.todo false
    | .pipeGet _ d n =>
      match pipeOf s g n.toNat false with
      | none => s
      | some (gang, p) =>
        let at_ := pipeSlot p p.gets
        if (coreOf s p.cid).full.contains (at_ / 16) then
          let data := scratchBytes (coreOf s p.cid) at_ 128
          let s1 := modCore s p.cid fun c => setEmpty c (granulesOf at_ 128)
          let s2 := modPipe s1 gang n.toNat fun p => { p with gets := p.gets + 1 }
          modGroup s2 cid slot fun g =>
            finishLanes ((lanesOf o.todo).foldl (fun g t =>
              writeResult g t [(d.toNat, ⟨BitVec.ofNat 32 (leNat ((data.drop (4 * t)).take 4)), 0#4⟩)]) g) o.id o.todo false
        else if kernelRetired s gang p.producer then trap s
        else s
    | _ => s

/-- Is an instruction a pipe instruction? -/
def isPipe : Instr → Bool
  | .pipePut .. => true
  | .pipeGet .. => true
  | _ => false

/-- Every pipe instruction that can act now does: a get that finds its slot full before a put to that slot (R466). -/
def servePipes (s : State) : State :=
  let pending := s.cores.flatMap fun c => c.2.groups.flatMap fun q => (q.2.ops.filter fun o => isPipe o.instr).map fun o => (c.1, q.1, o)
  let gets := pending.filter fun x => match x.2.2.instr with | .pipeGet .. => true | _ => false
  let puts := pending.filter fun x => match x.2.2.instr with | .pipePut .. => true | _ => false
  (gets ++ puts).foldl (fun s x => servePipe s x.1 x.2.1 x.2.2) s

/-! ## Register growth (R246 to R248, R380) -/

/-- Free user granules of a core: the groups that stand in the slots hold theirs until their team retires (R106, R386). -/
def freeGranules (c : Core) : Nat := 240 - ((c.groups.filter fun p => p.1 < 15).map fun p => p.2.granules).sum

/-- The REGGROW that blocks a group: the unfinished instruction, its destination and the count asked for. -/
def growOf (g : Group) : Option (Op × Nat × Nat) :=
  g.ops.findSome? fun o => match o.instr with | .reggrow _ d n => some (o, d.toNat, n.toNat) | _ => none

/-- A group is blocked in REGGROW: not stopped, with a REGGROW unfinished (R248). -/
def blockedGrow (g : Group) : Bool := g.stop.isNone && (growOf g).isSome

/-- Finish a REGGROW with a result. -/
def endGrow (g : Group) (granules result : Nat) : Group :=
  match growOf g with
  | none => g
  | some (o, d, _) =>
    let g1 := (lanesOf o.todo).foldl (fun g t => writeResult g t [(d, ⟨BitVec.ofNat 32 result, 12#4⟩)]) { g with granules := granules }
    finishLanes g1 o.id o.todo false

/-- Order by age, then slot (R127). -/
def byAge (a b : Nat × Group) : Bool := a.2.age < b.2.age || (a.2.age == b.2.age && a.1 ≤ b.1)

/-- Freed granules go to the blocked groups in age order; the oldest takes granules only when its whole request fits (R247). -/
def grantGrow (c : Core) : Nat → Core
  | 0 => c
  | n + 1 =>
    match (sortBy byAge (c.groups.filter fun p => p.1 < 15 && blockedGrow p.2)).head? with
    | none => c
    | some (slot, g) =>
      match growOf g with
      | none => c
      | some (_, _, want) =>
        if want - g.granules ≤ freeGranules c then
          grantGrow { c with groups := c.groups.map fun p => if p.1 == slot then (slot, endGrow g want want) else p } n
        else c

/-- REGGROW_FAILURE: when every user group that has not exited is blocked, all but the oldest complete with 0 (R248). -/
def failGrow (c : Core) : Core :=
  let live := c.groups.filter fun p => p.1 < 15 && !p.2.exitedWhole
  if live.isEmpty || !(live.all fun p => blockedGrow p.2) then c else
    match sortBy byAge live with
    | [] => c
    | (oldest, _) :: _ =>
      { c with groups := c.groups.map fun p =>
          if p.1 < 15 && !p.2.exitedWhole && !(p.1 == oldest) then (p.1, endGrow p.2 p.2.granules 0) else p }

/-! ## Exits (R386) -/

/-- An exit, or the end of the last instruction of a group, may let a team REORDER complete or a group exit: the steps that follow. -/
def afterExit (s : State) (cid slot : Nat) : State :=
  match groupOf s cid slot with
  | none => s
  | some g =>
    let s1 := if liveLanes g = 0#32 && !g.exitedWhole then dueOnce s .groupExit { n0 := cid, n1 := slot } else s
    let waiting := (teamGroups s1 g.team).any fun p => p.2.threads.any fun th => th.wait = .reorder
    if waiting then dueOnce s1 .reorderComplete { n0 := g.team } else s1

end Sys2Proof.Machine
end

