-- ==== Sys2Proof/Machine/Engine.lean ====
section
/-! DEFINITION.  Accesses of a pier engine or a builder on behalf of the threads that issued its command (R195, R199, R210, R233, R267). -/

namespace Sys2Proof.Machine

/-- Whose command an engine works on: the issuing core, slot, lanes and instruction, the address space and mode, the engine's agent number, and the
core by whose pier it translates (R176, R194, R233). -/
structure Who where
  cid : Nat
  slot : Nat
  lanes : Lanes
  op : Nat
  asid : Nat
  fn : Nat
  supervisor : Bool
  agent : Nat
  at_ : Nat
  deriving DecidableEq, Repr

/-- A store in the store buffer of the issuing core that one of the issuing threads made before the command. -/
def Who.earlierStore (w : Who) (e : SbEntry) : Bool := e.slot == w.slot && w.lanes.getLsbD e.lane && e.op < w.op

/-- A store in the buffer that one of the issuing threads made after the command: nothing orders it against the command's reads (R222, R233). -/
def Who.laterStore (w : Who) (e : SbEntry) : Bool := e.slot == w.slot && w.lanes.getLsbD e.lane && w.op ≤ e.op

/-- An earlier store of an issuing thread to a span of one line waits in the store buffer (R222, R233).  Stores to a home-performed line do
not pass through the buffer. -/
def earlierBuffered (s : State) (w : Who) (va n : Nat) : Bool :=
  [AccKind.read, AccKind.write].any fun k =>
    let waiting := fun (e : TlbEntry) => !(pteHome e.leaf == 3) && (coreOf s w.cid).sb.any fun x =>
      w.earlierStore x && overlap (false, x.addr, x.data.length) (false, placeOf s e va, n)
    match resolve s (pierNo w.cid) w.asid w.fn va k w.supervisor with
    | .hit e => waiting e
    | .direct e => waiting e
    | _ => false

/-- An earlier access of an issuing thread to a span is still to be performed (R233): an unfinished instruction, one that has gone into the replay
queue, whose place is not looked at, or a buffered store. -/
def earlierAccess (s : State) (w : Who) (scratch : Bool) (va n : Nat) : Bool :=
  (match groupOf s w.cid w.slot with
    | some g =>
      (g.ops.any fun o => o.seq < w.op && (lanesOf (o.todo &&& w.lanes)).any fun t =>
        match spanOf o t with | some x => clash s w.cid g x (scratch, va, n) | none => false) ||
      (g.replayQ.any fun r => r.seq < w.op && !(r.lanes &&& w.lanes = 0#32)) ||
      (match g.stop with
       | some st => (st.entries.zip st.seqs).any fun e => e.2 < w.op && !(e.1.1 &&& w.lanes = 0#32)
       | none => false)
    | none => false) || (!scratch && earlierBuffered s w va n)

/-! ## Gathering destination lines (R210) -/

/-- A span cut at page boundaries. -/
def pagePieces : Nat → Nat → Nat → List (Nat × Nat)
  | 0, _, _ => []
  | f + 1, va, n =>
    let k := min n (4096 - va % 4096)
    if n == 0 then [] else (va % 2 ^ 64, k) :: pagePieces f (va + k) (n - k)

/-- The lines of token-coherent memory that pieces of a destination cover, as far as their pages translate; what does not is met when the engine
comes to it. -/
def destLines (w : Who) : List (Nat × Nat) → State → State × List Nat
  | [], s => (s, [])
  | (va, n) :: r, s =>
    let lines := fun (s : State) (e : TlbEntry) =>
      if uncached e then [] else (List.range ((va + n - 1) / 128 - va / 128 + 1)).map fun k => placeOf s e (max va (128 * (va / 128 + k))) / 128
    match pierFill s (pierNo w.at_) w.asid w.fn va .write w.supervisor with
    | (.hit e, s1) => let q := destLines w r s1; (q.1, lines s1 e ++ q.2)
    | (.direct e, s1) => let q := destLines w r s1; (q.1, lines s1 e ++ q.2)
    | (_, s1) => destLines w r s1

/-- Take all tokens of lines, one after the other, and keep them; otherwise the state in which the first that is lacking has been asked for. -/
def gatherLines (a : Nat) : List Nat → State → Option State × State
  | [], s => (some s, s)
  | l :: r, s =>
    match gather s a l .write true with
    | (some s1, _) => gatherLines a r s1
    | x => x

/-- Gather every token of the destination lines of a window, in ascending physical address, before any of them is written (R210). -/
def gatherWindow (s : State) (w : Who) (spans : List (Nat × Nat)) : Option State × State :=
  let (s1, ls) := destLines w (spans.flatMap fun p => pagePieces (p.2 / 4096 + 2) p.1 p.2) s
  gatherLines w.agent (sortBy (· ≤ ·) (dedup ls)) s1

/-- Bytes of a window of a command's destination (R210). -/
def windowBytes : Nat := 65536

/-- Bytes of a virtual span, line by line: what the read gives, and the address it stopped at. -/
def readSpan (s : State) (w : Who) : Nat → Nat → Nat → Fetch × Nat
  | 0, va, _ => (.bytes [] s, va)
  | f + 1, va, n =>
    let va := va % 2 ^ 64
    let k := min n (128 - va % 128)
    if earlierAccess s w false va k then (.wait s, va) else
      match readAs s w.agent w.at_ w.asid w.fn va k .read w.supervisor w.laterStore with
      | .bytes b s1 =>
        if k == n then (.bytes b s1, va) else
          match readSpan s1 w f (va + k) (n - k) with
          | (.bytes b2 s2, v) => (.bytes (b ++ b2) s2, v)
          | r => r
      | r => (r, va)

/-- Write a virtual span, line by line, each line as one event (R223). -/
def writeSpan (s : State) (w : Who) : Nat → Nat → List Byte → Put × Nat
  | 0, va, _ => (.done s, va)
  | f + 1, va, b =>
    let va := va % 2 ^ 64
    let k := min b.length (128 - va % 128)
    if earlierAccess s w false va k then (.wait s, va) else
      match writeAs s w.agent w.at_ w.asid w.fn va (b.take k) w.supervisor with
      | .done s1 => if k == b.length then (.done s1, va) else writeSpan s1 w f (va + k) (b.drop k)
      | r => (r, va)

/-- The physical address of a structure descriptor that has just been read (R289). -/
def descriptorPlace (s : State) (cid asid fn va : Nat) (supervisor : Bool) : Nat :=
  match resolve s (pierNo cid) asid fn va .read supervisor with
  | .hit e => placeOf s e va
  | .direct e => placeOf s e va
  | _ => va

end Sys2Proof.Machine
end

