-- ==== Sys2Proof/Machine/Tree.lean ====
section
/-! DEFINITION.  The tree of an acceleration structure: cluster headers (R264), keys and splits (R269 to R271), the division into tasks, the
places of nodes and fences (R272 to R276, R505), node contents and costs (R275 to R280).  Everything here is a function of bytes. -/

namespace Sys2Proof.Machine

/-! ## FP32 values as integers -/

/-- A finite FP32 value as a multiple of 2^-149. -/
def fixed (w : Word) : Int := match f32 w with | .fin neg m e => scaled (-149) neg m e | _ => 0

/-- A finite FP32 value. -/
def finite32 (w : Word) : Bool := match f32 w with | .fin _ _ _ => true | _ => false

/-- The word at an offset of a list of bytes. -/
def wordAt (b : List Byte) (o : Nat) : Word := BitVec.ofNat 32 (leNat ((b.drop o).take 4))

/-- The number in `n` bytes at an offset. -/
def natAt (b : List Byte) (o n : Nat) : Nat := leNat ((b.drop o).take n)

/-- A box: lower x, y, z and upper x, y, z. -/
abbrev Box := List Word

/-- Coordinate `a` of the lower corner. -/
def Box.lo (b : Box) (a : Nat) : Word := nth 0#32 b a
/-- Coordinate `a` of the upper corner. -/
def Box.hi (b : Box) (a : Nat) : Word := nth 0#32 b (a + 3)

/-- FP32 minimum and maximum of words (R277, R397). -/
def pick32 (maxi : Bool) (a b : Word) : Word := BitVec.ofNat 32 (fminmaxEnc fp32 maxi a.toNat b.toNat)

/-- The union of two boxes (R277). -/
def Box.union (a b : Box) : Box :=
  (List.range 3).map (fun k => pick32 false (a.lo k) (b.lo k)) ++ (List.range 3).map fun k => pick32 true (a.hi k) (b.hi k)

/-- The union of a list of boxes. -/
def unionAll : List Box → Box
  | [] => List.replicate 6 0#32
  | b :: r => r.foldl Box.union b

/-! ## Cluster headers (R263, R264) -/

/-- What a builder reads of a cluster: its bounds and its triangle count. -/
structure Header where
  box : Box
  triangles : Nat
  deriving DecidableEq, Repr

/-- A good header (R264); none for a bad one. -/
def parseHeader (h : List Byte) : Option Header :=
  let v := natAt h 24 1
  let t := natAt h 25 1
  let box : Box := (List.range 6).map fun k => wordAt h (4 * k)
  if 3 ≤ v && v ≤ 192 && 1 ≤ t && t ≤ 64 && natAt h 26 2 == 0 && natAt h 36 28 == 0 && box.all finite32 &&
     (List.range 3).all (fun a => fixed (box.lo a) ≤ fixed (box.hi a)) then some ⟨box, t⟩ else none

/-- Twice the centroid coordinate of an axis, as a multiple of 2^-149 (R269). -/
def centroid2 (h : Header) (a : Nat) : Int := fixed (h.box.lo a) + fixed (h.box.hi a)

/-- The centroid lies in the scene bounds (R269). -/
def inScene (scene : Box) (h : Header) : Bool :=
  (List.range 3).all fun a => 2 * fixed (scene.lo a) ≤ centroid2 h a && centroid2 h a ≤ 2 * fixed (scene.hi a)

/-! ## Morton codes and the binary split (R269, R270) -/

/-- The quantised coordinate of an axis. -/
def quantised (scene : Box) (bits : Nat) (h : Header) (a : Nat) : Nat :=
  let lo := fixed (scene.lo a)
  let hi := fixed (scene.hi a)
  if lo < hi then min ((centroid2 h a - 2 * lo) * 2 ^ bits / (2 * (hi - lo))).toNat (2 ^ bits - 1) else 0

/-- The Morton code of a cluster. -/
def mortonCode (scene : Box) (long : Bool) (h : Header) : Nat :=
  let bits := if long then 21 else 10
  ((List.range 3).map fun a => ((List.range bits).map fun j => if (quantised scene bits h a).testBit j then 2 ^ (3 * j + 2 - a) else 0).sum).sum

/-- Merge two sorted lists of (code, cluster). -/
def mergeKeys : Nat → List (Nat × Nat) → List (Nat × Nat) → List (Nat × Nat)
  | 0, a, b => a ++ b
  | _ + 1, [], b => b
  | _ + 1, a, [] => a
  | n + 1, x :: a, y :: b =>
    if x.1 < y.1 || (x.1 == y.1 && x.2 ≤ y.2) then x :: mergeKeys n a (y :: b) else y :: mergeKeys n (x :: a) b

/-- Sort (code, cluster) pairs in ascending order (R270), by halving. -/
def sortKeys : Nat → List (Nat × Nat) → List (Nat × Nat)
  | 0, l => l
  | n + 1, l =>
    if l.length ≤ 1 then l else
      mergeKeys l.length (sortKeys n (l.take (l.length / 2))) (sortKeys n (l.drop (l.length / 2)))

/-- The code at a sorted position. -/
def codeAt (ks : Array (Nat × Nat)) (i : Nat) : Nat := (ks.getD i (0, 0)).1

/-- Count the positions from `i` on, at most `n`, whose code has 0 in a bit. -/
def zerosFrom (ks : Array (Nat × Nat)) (bit : Nat) : Nat → Nat → Nat
  | 0, _ => 0
  | n + 1, i => if (codeAt ks i).testBit bit then 0 else zerosFrom ks bit n (i + 1) + 1

/-- The split of the range [i, j] (R270). -/
def splitAt (ks : Array (Nat × Nat)) (i j : Nat) : Nat :=
  let a := codeAt ks i
  let z := codeAt ks j
  if a == z then (i + j) / 2 else i + zerosFrom ks (Nat.log2 (a ^^^ z)) (j - i) i - 1

/-- The inner entry with the most clusters, on a tie the lowest position (R271). -/
def widest (ks : List (Nat × Nat)) : Option Nat :=
  let inner := (List.range ks.length).filter fun k => (nth (0, 0) ks k).1 < (nth (0, 0) ks k).2
  inner.foldl (fun (best : Option Nat) k =>
    let size := fun (k : Nat) => (nth (0, 0) ks k).2 - (nth (0, 0) ks k).1
    match best with
    | none => some k
    | some b => if size b < size k then some k else best) none

/-- Expand the list of children until it has eight entries or only leaves (R271). -/
def expandKids (ks : Array (Nat × Nat)) : Nat → List (Nat × Nat) → List (Nat × Nat)
  | 0, l => l
  | n + 1, l =>
    match widest l with
    | none => l
    | some k =>
      let (i, j) := nth (0, 0) l k
      let m := splitAt ks i j
      expandKids ks n (l.take k ++ [(i, m), (m + 1, j)] ++ l.drop (k + 1))

/-! ## The plan of a tree (R271 to R274) -/

/-- A child of a planned node: a cluster, or a node by place and cluster count. -/
inductive Kid where
  | leaf (cluster : Nat)
  | inner (place count : Nat)
  deriving DecidableEq, Repr

/-- A planned node: its place, its clusters, its parent, its position there and its children (none where a half is empty). -/
structure PNode where
  place : Nat
  count : Nat
  parent : Nat
  pos : Nat
  kids : List (Option Kid)
  deriving DecidableEq, Repr

/-- The nodes of the range [i, j] whose block begins at a place, parents before children (R271, R274). -/
def planRange (ks : Array (Nat × Nat)) : Nat → Nat → Nat → Nat → Nat → Nat → List PNode
  | 0, _, _, _, _, _ => []
  | f + 1, i, j, place, parent, pos =>
    let s := splitAt ks i j
    let ranges := expandKids ks 6 [(i, s), (s + 1, j)]
    -- each child's range with the place of its block
    let placed := (ranges.foldl (fun (p : List ((Nat × Nat) × Nat) × Nat) r => (p.1 ++ [(r, p.2)], p.2 + (r.2 - r.1))) ([], place + 1)).1
    let kid := fun (r : (Nat × Nat) × Nat) =>
      if r.1.1 == r.1.2 then some (Kid.leaf (ks.getD r.1.1 (0, 0)).2) else some (Kid.inner r.2 (r.1.2 - r.1.1 + 1))
    ⟨place, j - i + 1, parent, pos, placed.map kid⟩ ::
      ((List.range placed.length).zip placed).flatMap fun p =>
        if p.2.1.1 == p.2.1.2 then [] else planRange ks f p.2.1.1 p.2.1.2 p.2.2 place p.1

/-- The plan of a sorted list of clusters in one block, and the child that stands for it: none for an empty list. -/
def planBlock (l : List (Nat × Nat)) (place parent pos : Nat) : Option Kid × List PNode :=
  match l with
  | [] => (none, [])
  | [(_, c)] => (some (.leaf c), [])
  | _ => (some (.inner place l.length), planRange l.toArray l.length 0 (l.length - 1) place parent pos)

/-- No parent (R275). -/
def noParent : Nat := 0xFFFFFFFF

/-- The clusters with their codes, sorted. -/
def sortedKeys (scene : Box) (long : Bool) (hs : List (Nat × Header)) : List (Nat × Nat) :=
  sortKeys 40 (hs.map fun h => (mortonCode scene long h.2, h.1))

/-- The plan without a top split (R270 to R274). -/
def planWhole (scene : Box) (long : Bool) (hs : List (Nat × Header)) (place parent pos : Nat) : List PNode :=
  let ks := sortedKeys scene long hs
  match ks with
  | [(_, c)] => [⟨place, 1, parent, pos, [some (.leaf c)]⟩]
  | _ => (planBlock ks place parent pos).2

/-- The axis of the top split: the longest, ties x before y before z (R273). -/
def splitAxis (scene : Box) : Nat :=
  let d := fun (a : Nat) => fixed (scene.hi a) - fixed (scene.lo a)
  if d 1 ≤ d 0 && d 2 ≤ d 0 then 0 else if d 2 ≤ d 1 then 1 else 2

/-- The plan with the top split (R273, R274, R505). -/
def planSplit (scene : Box) (long : Bool) (hs : List (Nat × Header)) : List PNode :=
  let a := splitAxis scene
  let low := hs.filter fun h => centroid2 h.2 a < fixed (scene.lo a) + fixed (scene.hi a)
  let high := hs.filter fun h => !(centroid2 h.2 a < fixed (scene.lo a) + fixed (scene.hi a))
  let (k0, n0) := planBlock (sortedKeys scene long low) 1 0 0
  let (k1, n1) := planBlock (sortedKeys scene long high) (1 + (low.length - 1)) 0 1
  ⟨0, hs.length, noParent, 0, [k0, k1]⟩ :: (n0 ++ n1)

/-- Node places a build uses (R274). -/
def placesUsed (ns : List PNode) : Nat :=
  match ns with
  | [] => 0
  | root :: _ =>
    let kids := root.kids.filterMap id
    max (max 1 (root.count - 1)) (1 + (kids.map fun k => match k with | .inner _ n => n - 1 | .leaf _ => 0).sum)

/-- Task size (R272). -/
def taskSize : Nat := 4096

/-- A top node (R272): the split root, or a node of more than 4,096 clusters. -/
def isTop (split : Bool) (n : PNode) : Bool := (split && n.place == 0) || taskSize < n.count

/-- An inner child is fenced (R272). -/
def kidFenced (split : Bool) (n : PNode) (k : Option Kid) : Bool :=
  match k with
  | some (.inner _ c) => (split && n.place == 0) || (taskSize < n.count && c ≤ taskSize)
  | _ => false

/-- Fences of a top node's children. -/
def fencedKids (split : Bool) (n : PNode) : List Nat :=
  n.kids.filterMap fun k => if kidFenced split n k then (match k with | some (.inner p _) => some p | _ => none) else none

/-- The fence base of every node with fenced children (R276), and the fences used.  `order` says which node comes first. -/
def fenceBases (split : Bool) (order : Nat → Nat) (ns : List PNode) : List (Nat × Nat) × Nat :=
  let tops := ns.filter fun n => !(fencedKids split n).isEmpty
  (sortBy (fun a b => order a.place ≤ order b.place) tops).foldl
    (fun (p : List (Nat × Nat) × Nat) n => (place p.1 n.place p.2, p.2 + (fencedKids split n).length)) ([], 1)

/-- The fence of a fenced child, by its place. -/
def fenceOf (split : Bool) (bases : List (Nat × Nat)) (ns : List PNode) (kid : Nat) : Option Nat :=
  ns.findSome? fun n =>
    let ks := fencedKids split n
    if ks.contains kid then (find? bases n.place).map fun b => b + (ks.takeWhile fun k => !(k == kid)).length else none

/-! ## Quantised boxes (R277, R278) -/

/-- The smallest exponent from 0 to 254 that covers an extent (R277), searched upwards. -/
def exponentFor (extent : Int) : Nat → Nat → Nat
  | 0, e => e
  | n + 1, e => if extent ≤ 255 * 2 ^ (e + 22) then e else exponentFor extent n (e + 1)

/-- Origin and exponent of an axis. -/
def axisOf (boxes : List Box) (a : Nat) : Word × Nat :=
  let u := unionAll boxes
  (u.lo a, exponentFor (fixed (u.hi a) - fixed (u.lo a)) 254 0)

/-- The six bytes of a child's box (R277). -/
def quantiseBox (axes : List (Word × Nat)) (b : Box) : List Nat :=
  let lo := (List.range 3).map fun a =>
    let x := nth (0#32, 0) axes a
    ((fixed (b.lo a) - fixed x.1) / 2 ^ (x.2 + 22)).toNat
  let hi := (List.range 3).map fun a =>
    let x := nth (0#32, 0) axes a
    (-((fixed x.1 - fixed (b.hi a)) / 2 ^ (x.2 + 22))).toNat
  lo ++ hi

/-- The decoded box of six bytes (R278). -/
def decodeBox (axes : List (Word × Nat)) (q : List Nat) : Box :=
  let at_ := fun (mode : RMode) (a k : Nat) =>
    let x := nth (0#32, 0) axes a
    toF32 mode (addVal mode (f32 x.1) (.fin false (nth 0 q k) ((x.2 : Int) - 127)))
  (List.range 3).map (fun a => at_ .rd a a) ++ (List.range 3).map fun a => at_ .ru a (a + 3)

/-! ## Costs and quality (R279, R280) -/

/-- FP32 RNE addition, subtraction and multiplication of words. -/
def add32 (a b : Word) : Word := BitVec.ofNat 32 (faddEnc fp32 .rne a.toNat b.toNat)
/-- FP32 RNE subtraction. -/
def sub32 (a b : Word) : Word := BitVec.ofNat 32 (fsubEnc fp32 .rne a.toNat b.toNat)
/-- FP32 RNE multiplication. -/
def mul32 (a b : Word) : Word := BitVec.ofNat 32 (fmulEnc fp32 .rne a.toNat b.toNat)

/-- SA of a box (R279). -/
def surface (b : Box) : Word :=
  let d := fun (a : Nat) => sub32 (b.hi a) (b.lo a)
  mul32 0x40000000#32 (add32 (add32 (mul32 (d 0) (d 1)) (mul32 (d 1) (d 2))) (mul32 (d 2) (d 0)))

/-- What a node's cost takes from a child: the cost of an inner child, or the box and the triangle count of a leaf. -/
inductive Term where
  | inner (cost : Word)
  | leaf (box : Box) (triangles : Nat)
  deriving DecidableEq, Repr

/-- C of a node from its box and its children in ascending position (R279). -/
def costOf (box : Box) (ts : List Term) : Word :=
  ts.foldl (fun c t => match t with
    | .inner k => add32 c k
    | .leaf b n => add32 c (mul32 (surface b) (toF32 .rne (.fin false n 0)))) (surface box)

/-- FP32 RNE division of values. -/
def div32 (a b : Word) : Word :=
  match f32 a, f32 b with
  | .nan, _ => BitVec.ofNat 32 fp32.nan
  | _, .nan => BitVec.ofNat 32 fp32.nan
  | .inf x, .inf _ => let _ := x; BitVec.ofNat 32 fp32.nan
  | .inf x, .fin y _ _ => BitVec.ofNat 32 (signBit fp32 (xor x y) + 0x7F800000)
  | .fin x _ _, .inf y => BitVec.ofNat 32 (signBit fp32 (xor x y))
  | .fin x m e, .fin y n k =>
    if n == 0 then (if m == 0 then BitVec.ofNat 32 fp32.nan else BitVec.ofNat 32 (signBit fp32 (xor x y) + 0x7F800000))
    else if m == 0 then BitVec.ofNat 32 (signBit fp32 (xor x y))
    else BitVec.ofNat 32 (roundMag fp32 .rne false (xor x y) (m * 2 ^ 80 / n) (e - k - 80) (!(m * 2 ^ 80 % n == 0)))

/-- A word is a zero. -/
def isZero32 (w : Word) : Bool := w &&& 0x7FFFFFFF#32 = 0#32

/-- The quality of a node as BF16 (R280). -/
def qualityOf (now_ last : Word) : Nat :=
  if isZero32 now_ && isZero32 last then 0x3F80 else roundVal bf16 .rne false (f32 (div32 now_ last))

/-! ## Node bytes (R275, R276) -/

/-- What a node holds besides its boxes. -/
structure NodeWords where
  valid : Nat
  leaf : Nat
  tag : Nat
  quality : Nat
  fenceBase : Nat
  childBase : Nat
  words : List Nat
  costLast : Word
  costNow : Word
  parent : Nat
  pos : Nat
  rebuild : Bool
  deriving DecidableEq, Repr

/-- The 128 bytes of a node; `boxes` gives the six bytes of each of the 8 children. -/
def nodeBytes (axes : List (Word × Nat)) (boxes : List (List Nat)) (w : NodeWords) : List Byte :=
  (axes.flatMap fun x => leBytes 4 x.1.toNat) ++ (axes.flatMap fun x => leBytes 1 x.2) ++
  leBytes 1 w.valid ++ leBytes 1 w.leaf ++ leBytes 1 w.tag ++ leBytes 2 w.quality ++ leBytes 4 w.fenceBase ++ leBytes 8 w.childBase ++
  (boxes.flatMap fun q => q.flatMap fun x => leBytes 1 x) ++ (w.words.flatMap fun x => leBytes 4 x) ++
  leBytes 4 w.costLast.toNat ++ leBytes 4 w.costNow.toNat ++ leBytes 4 w.parent ++ leBytes 1 w.pos ++ leBytes 1 (if w.rebuild then 1 else 0) ++
  leBytes 2 0

/-- The box and cost of every node already worked out, by place. -/
abbrev Done := List (Nat × (Box × Word))

/-- Everything the contents of a build's nodes depend on besides the plan. -/
structure Scene where
  split : Bool
  headers : Array Header
  bases : List (Nat × Nat)
  pool : Nat
  tag : Nat

/-- The header of a cluster. -/
def Scene.header (x : Scene) (c : Nat) : Header := x.headers.getD c ⟨[], 0⟩

/-- The bounds of the clusters under a node, by place: its own leaves and those of its descendants (R285). -/
def boundsOf (x : Scene) (ns : List PNode) : List (Nat × Box) :=
  ns.foldr (fun n m => place m n.place (unionAll (n.kids.filterMap fun k =>
    match k with
    | some (.leaf c) => some (x.header c).box
    | some (.inner p _) => find? m p
    | none => none))) []

/-- The contents of a node, its box and its cost.  `first` is the version written before its fenced children exist (R285, R505). -/
def nodeContent (x : Scene) (bounds : List (Nat × Box)) (first : Bool) (done : Done) (n : PNode) : List Byte × Box × Word :=
  let boxOf := fun (k : Option Kid) =>
    match k with
    | some (.leaf c) => some (x.header c).box
    | some (.inner p _) => if first && kidFenced x.split n k then find? bounds p else (find? done p).map (·.1)
    | none => none
  let boxes := n.kids.map boxOf
  let real := boxes.filterMap id
  let axes := (List.range 3).map (axisOf real)
  let qs := boxes.map fun b => match b with | some b => quantiseBox axes b | none => List.replicate 6 0
  let decoded := (qs.zip boxes).filterMap fun q => q.2.map fun _ => decodeBox axes q.1
  let box := unionAll decoded
  let terms := n.kids.filterMap fun k =>
    match k with
    | some (.leaf c) => some (Term.leaf (x.header c).box (x.header c).triangles)
    | some (.inner p _) => some (.inner (((find? done p).map (·.2)).getD 0#32))
    | none => none
  let cost := if first then 0#32 else costOf box terms
  let base := (n.kids.findSome? fun k => match k with | some (.inner p _) => some p | _ => none)
  let word := fun (k : Option Kid) =>
    match k with
    | some (.leaf c) => c
    | some (.inner p _) => (if kidFenced x.split n k then 2 ^ 31 else 0) + (p - base.getD 0)
    | none => 0
  let bits := fun (f : Option Kid → Bool) => (((List.range n.kids.length).zip n.kids).map fun k => if f k.2 then 2 ^ k.1 else 0).sum
  let pad := 8 - n.kids.length
  let w : NodeWords := {
    valid := bits fun k => k.isSome
    leaf := bits fun k => match k with | some (.leaf _) => true | _ => false
    tag := x.tag, quality := 0x3F80
    fenceBase := (find? x.bases n.place).getD 0
    childBase := match base with | some p => x.pool + 128 * p | none => 0
    words := n.kids.map word ++ List.replicate pad 0
    costLast := cost, costNow := cost, parent := n.parent, pos := n.pos, rebuild := false }
  (nodeBytes axes (qs ++ List.replicate pad (List.replicate 6 0)) w, box, cost)

/-- The contents of every node in one version, by place (R277, R279, R285): children are worked out before their parents. -/
def contents (x : Scene) (ns : List PNode) (first : Bool) : List (Nat × List Byte) :=
  let bounds := boundsOf x ns
  (ns.foldr (fun n (p : List (Nat × List Byte) × Done) =>
    let c := nodeContent x bounds first p.2 n
    (place p.1 n.place c.1, place p.2 n.place (c.2.1, c.2.2))) ([], [])).1

/-! ## The work of a build (R272, R273, R285, R505) -/

/-- Fence bits (R284). -/
def fenceBytes (generation : Nat) (failed : Bool) : List Byte := leBytes 8 ((if failed then 2 ^ 62 else 2 ^ 63) + generation)

/-- The places of a node's block. -/
def blockPlaces (n : PNode) : List Nat := (List.range (max 1 (n.count - 1))).map (n.place + ·)

/-- A place lies under a node, the node included. -/
def under (n : PNode) (p : Nat) : Bool := n.place ≤ p && p < n.place + max 1 (n.count - 1)

/-- The pieces of a build: the top nodes' first versions, the tasks, the fences of the halves, and the rewrites (R272, R285, R505).  `twoDies`
says that die 1's builders build half 1; `die` is the issuing die. -/
def buildTasks (x : Scene) (ns : List PNode) (fenceBase generation die : Nat) (twoDies : Bool) : List Task :=
  let firsts := contents x ns true
  let finals := contents x ns false
  let addr := fun (p : Nat) => x.pool + 128 * p
  let zero : List Byte := List.replicate 128 0#8
  let used := placesUsed ns
  let filled := fun (p : Nat) => (find? finals p).isSome
  let tops := ns.filter (isTop x.split)
  let roots := ns.filter fun n => !(isTop x.split n) && (n.place == 0 || tops.any fun t => t.place == n.parent)
  let halves := if x.split then (ns.filter fun n => n.parent == 0 && !(n.place == 0)) else []
  let halfOf := fun (p : Nat) => if x.split then (halves.find? fun h => under h p).map (·.pos) else none
  let dieOf := fun (p : Nat) => match halfOf p with
    | some h => if twoDies then h else 0
    | none => die
  let signal := fun (f : Option Nat) => match f with | some f => [(fenceBase + 8 * f, fenceBytes generation false)] | none => []
  let fence := fun (p : Nat) => if p == 0 then some 0 else fenceOf x.split x.bases ns p
  -- what half 1 waits for when the same builders build both halves (R273)
  let half0 : List Nat := (roots.filter fun r => halfOf r.place == some 0).map fun r => 4 * r.place
  let outside := fun (p : Nat) => !(filled p) && !(roots.any fun r => under r p)
  let first := fun (n : PNode) => (addr n.place, (find? firsts n.place).getD [])
  -- the first versions: the root, or every top node, then the places no node fills
  let firstRoot : List Task :=
    if tops.isEmpty then [] else
      let mine := if x.split then tops.filter fun t => t.place == 0 else tops
      let gaps := (List.range used).filter fun p => outside p && (!x.split || (halfOf p).isNone)
      [⟨3, mine.map first ++ (gaps.map fun p => (addr p, zero)) ++ signal (some 0), some 0, die, [], false, false⟩]
  let firstHalf : List Task := (halves.filter (isTop x.split)).map fun h =>
    ⟨4 * h.place + 3, ((tops.filter fun t => under h t.place).map first) ++
      (((List.range used).filter fun p => outside p && under h p).map fun p => (addr p, zero)), none, dieOf h.place,
      3 :: (if !twoDies && h.pos == 1 then half0 else []), false, false⟩
  let before := fun (p : Nat) =>
    (if tops.isEmpty then [] else [3]) ++
    match halves.find? fun h => under h p with
    | some h =>
      (if isTop x.split h then [4 * h.place + 3] else []) ++
      (if !twoDies && h.pos == 1 then half0 else [])
    | none => []
  let tasks : List Task := roots.map fun r =>
    ⟨4 * r.place, ((blockPlaces r).map fun p => (addr p, (find? finals p).getD zero)) ++ signal (fence r.place), fence r.place, dieOf r.place,
      before r.place, false, false⟩
  let late : List Task := (halves.filter (isTop x.split)).map fun h =>
    ⟨4 * h.place + 2, signal (fence h.place), fence h.place, dieOf h.place,
      (roots.filter fun r => under h r.place).map fun r => 4 * r.place, false, false⟩
  let rewrites : List Task := tops.map fun t =>
    ⟨4 * t.place + 1, [(addr t.place, (find? finals t.place).getD [])], none, die,
      t.kids.flatMap (fun k => match k with
        | some (.inner p c) =>
          if tops.any fun u => u.place == p then (4 * p + 1) :: (if kidFenced x.split t k then [4 * p + 2] else [])
          else let _ := c; [4 * p]
        | _ => []) ++ [3], true, false⟩
  firstRoot ++ firstHalf ++ tasks ++ late ++ rewrites

end Sys2Proof.Machine
end

