-- ==== Sys2Proof/Machine/Builders.lean ====
section
/-! DEFINITION.  Builder commands (R265 to R268, R281 to R285, R484, R485, R505) and the steps BUILDER_TASK, TOP_NODE_REWRITE, REFIT_NODE and
COMPACTOR_BLOCK (R290). -/

namespace Sys2Proof.Machine

/-! ## Writing -/

/-- Whose command a build is, for a builder of a die; which of the die's builders acts, and that a builder of the other die translates by the pier
there of the issuing core's number, are choices of the model (R194, R273; log entry 99). -/
def Build.whoOn (b : Build) (id die : Nat) : Who :=
  ⟨b.cid, b.slot, b.lanes, id, b.asid, b.fn, b.supervisor, builderAgent die id, 128 * die + b.cid % 128⟩

/-- Whose command a build is, for a builder of the issuing die. -/
def Build.who (b : Build) (id : Nat) : Who := b.whoOn id b.die

/-- Make several writes as one event: none is made unless each can be. -/
def writeAll (s : State) (w : Who) (ws : List (Nat × List Byte)) : Put × Nat :=
  match ws.findSome? fun x => match writeSpan s w 3 x.1 x.2 with
    | (.done _, _) => none
    | r => some r with
  | some r => r
  | none => ws.foldl (fun p x => match p.1 with
      | .done s1 => writeSpan s1 w 3 x.1 x.2
      | _ => p) (.done s, 0)

/-- How a run of writes ends, with the writes still to make. -/
inductive Ran where
  | done (s : State)
  | wait (s : State) (rest : List (Nat × List Byte))
  | fault (s : State) (rest : List (Nat × List Byte)) (va subtype level : Nat)
  | memory (s : State) (rest : List (Nat × List Byte))

/-- Make writes in order, as far as they go. -/
def runWrites (s : State) (w : Who) : List (Nat × List Byte) → Ran
  | [] => .done s
  | x :: r =>
    match writeSpan s w 3 x.1 x.2 with
    | (.done s1, _) => runWrites s1 w r
    | (.wait s1, _) => .wait s1 (x :: r)
    | (.fault a b, va) => .fault s (x :: r) va a b
    | _ => .memory s (x :: r)

/-! ## Status, faults and the steps that follow -/

/-- Change a build. -/
def setBuild (s : State) (id : Nat) (b : Build) : State := { s with builds := place s.builds id b }

/-- The status of a command reaches register d of every thread of E, and its flag clears (R484). -/
def landStatus (s : State) (id : Nat) (b : Build) (status : Nat) : State :=
  modGroup s b.cid b.slot fun g =>
    match opOf g b.op with
    | none => g
    | some o => finishLanes ((lanesOf o.todo).foldl (fun g t =>
        writeResult g t ((destRegs o.instr).map fun v => (v, ⟨BitVec.ofNat 32 status, 12#4⟩))) g) b.op o.todo (id == b.op)

/-- A command ends with a status. -/
def endBuild (s : State) (id : Nat) (b : Build) (status : Nat) : State := { landStatus s id b status with builds := erase s.builds id }

/-- The steps a build calls for next. -/
def dueBuild (s : State) (id : Nat) : State :=
  match find? s.builds id with
  | none => s
  | some b =>
    if !b.faults.isEmpty then s
    else if !(b.phase == 2) then dueOnce s .builderTask { n0 := id }
    else if b.kind == 2 then dueOnce s .refitNode { n0 := id }
    else
      let ready := b.tasks.filter fun t => t.needs.isEmpty
      let s1 := if ready.any (fun t => !t.rewrite) then dueOnce s .builderTask { n0 := id } else s
      if ready.any (·.rewrite) then dueOnce s1 .topNodeRewrite { n0 := id } else s1

/-- A page fault of a builder holds its command and raises a fault with agent 3 (R156, R158). -/
def faultBuild (s : State) (id : Nat) (b : Build) (va sub lvl : Nat) (k : AccKind) : State :=
  let launch := if (launchOf s b.launch).isSome then some b.launch else none
  let (f, s1, ring) := raiseFault s b.fn b.q b.asid va sub lvl k 3 launch
  let s2 := setBuild s1 id { b with faults := b.faults ++ [f] }
  if ring then s2 else abortFault s2 b.fn f

/-- A build in its slot fails: unsignalled fences are written FAILED, the slot takes the extent the build may have written and the error, and
then the status is written (R266, R268).  `scanned` says that the header scan has passed. -/
def failBuild (s : State) (id : Nat) (b : Build) (error : Nat) (scanned : Bool) : State :=
  let nodes := if scanned then b.clusters else 0
  let fences := if scanned then b.clusters / 2 + 2 else 1
  let fs := (List.range (max 1 b.fences)).filter fun n => !(b.signalled.contains n)
  let ws := (fs.map fun n => (b.fenceBase + 8 * n, fenceBytes b.generation true)) ++
    [(slotAddr b.desc b.target + 28, leBytes 4 nodes ++ leBytes 4 fences ++ leBytes 1 4 ++ leBytes 1 error)]
  dueBuild (setBuild s id { b with phase := 3, status := error, tasks := [⟨0, ws, none, b.die, [], false, false⟩] }) id

/-! ## Acceptance (R265, R267, R268, R274, R485) -/

/-- A field of the slot in a descriptor's bytes. -/
def slotField (d : List Byte) (target o n : Nat) : Nat := natAt d (64 + 64 * target + o) n

/-- The scene bounds of a descriptor. -/
def sceneOf (d : List Byte) : Box := (List.range 6).map fun k => wordAt d (4 * k)

/-- The checks of R274: 0, 1 BAD_DESCRIPTOR or 3 POOL_FULL (R291). -/
def checkDescriptor (d : List Byte) (target : Nat) : Nat :=
  let sc := sceneOf d
  let m := natAt d 28 4
  let reserved := !(natAt d 26 1 / 4 == 0) || !(natAt d 27 1 == 0) || !(natAt d 48 8 == 0) || !(natAt d 60 4 == 0) ||
    !(natAt d 102 26 == 0) || !(natAt d 166 26 == 0)
  let scene := sc.all finite32 && (List.range 3).all fun a => fixed (sc.lo a) ≤ fixed (sc.hi a)
  if reserved || !scene || m == 0 || 16777216 < m || !(natAt d 32 8 % 8 == 0) || !(natAt d 40 8 % 4096 == 0) ||
     !(slotField d target 0 8 % 128 == 0) || !(slotField d target 16 8 % 8 == 0) then 1
  else if slotField d target 8 4 < m || slotField d target 12 4 < m / 2 + 2 then 3
  else 0

/-- The generation number after one (R267). -/
def nextGeneration (g : Nat) : Nat := if (g + 1) % 2 ^ 32 % 256 == 0 then ((g + 1) % 2 ^ 32 + 1) % 2 ^ 32 else (g + 1) % 2 ^ 32

/-- An ASBUILD.update in progress reads a slot (R268). -/
def updateReads (s : State) (place_ target : Nat) : Bool :=
  s.builds.any fun b => b.2.kind == 1 && 1 ≤ b.2.phase && b.2.place == place_ && b.2.target == 1 - target

/-- The build or refit, of kinds up to `kind`, that works on a slot. -/
def buildOf (s : State) (kind place_ target : Nat) : Option (Nat × Build) :=
  s.builds.find? fun b => b.2.kind ≤ kind && 1 ≤ b.2.phase && b.2.place == place_ && b.2.target == target

/-- Some write of the piece that a build or refit works on has been made and others have not: the builder is within a subtree or node (R139, R268,
R272).  A builder that a page fault holds stands at its stopping unit (R156). -/
def Build.busy (b : Build) : Bool := b.faults.isEmpty && b.tasks.any (·.begun)

/-- What ASRETIRE must still wait for: the end of the subtree in progress, and an update that reads the slot (R268). -/
def retireWaits (s : State) (b : Build) : Bool :=
  updateReads s b.place b.target || (match buildOf s 2 b.place b.target with | some x => x.2.busy | none => false)

/-- Retire a slot that no update is reading and no builder is working on (R268): its state becomes RETIRING, a build in it, or a refit, stops with
status RETIRED (of a refit, log entry 100), and compaction follows. -/
def retireSlot (s : State) (id : Nat) (b : Build) (d : List Byte) : State :=
  let w := b.who id
  let state := slotField d b.target 36 1
  let gen := slotField d b.target 24 4
  match buildOf s 1 b.place b.target with
  | some (bid, x) =>
    let nodes := x.clusters
    let fences := x.clusters / 2 + 2
    match writeAll s w [(slotAddr b.desc b.target + 28, leBytes 4 nodes ++ leBytes 4 fences ++ leBytes 1 3 ++ leBytes 1 5)] with
    | (.done s1, _) =>
      let s2 := retireBuild (endBuild s1 bid x 5) x
      { s2 with builds := erase s2.builds id }
    | (.wait s1, _) => dueBuild (setBuild s1 id { b with phase := 1 }) id
    | (.fault a c, va) => faultBuild s id { b with phase := 1 } va a c .write
    | _ => { s with builds := erase s.builds id }
  | none =>
    let building := state == 1
    let ws := if building then leBytes 1 3 ++ leBytes 1 5 else leBytes 1 3
    match writeAll s w [(slotAddr b.desc b.target + 36, ws)] with
    | (.done s1, _) =>
      let (cid, s2) := takeId (match buildOf s1 2 b.place b.target with | some (r, x) => endBuild s1 r x 5 | none => s1)
      let c : Compact := ⟨b.die, b.cid, b.asid, b.fn, b.q, b.supervisor, b.desc, b.target, gen, [],
        if building then [slotField d b.target 16 8] else [],
        [(slotField d b.target 0 8, 128 * slotField d b.target 28 4), (slotField d b.target 16 8, 8 * slotField d b.target 32 4)], [],
        b.slot, b.lanes, id, b.place⟩
      due { s2 with compacts := place s2.compacts cid c, builds := erase s2.builds id } .compactorBlock { n0 := cid }
    | (.wait s1, _) => dueBuild (setBuild s1 id { b with phase := 1 }) id
    | (.fault a c, va) => faultBuild s id { b with phase := 1 } va a c .write
    | _ => { s with builds := erase s.builds id }

/-- Read the descriptor of a command: its bytes, or the state in which the command waits, is held, or has ended with MEMORY_ERROR. -/
def readDescriptor (s : State) (id : Nat) (b : Build) : Option (List Byte × State) × State :=
  match readSpan s (b.who id) 5 b.desc 192 with
  | (.bytes d s1, _) => (some (d, s1), s1)
  | (.wait s1, _) => (none, dueBuild (setBuild s1 id b) id)
  | (.fault a c, va) => (none, faultBuild s id b va a c .read)
  | _ => (none, endBuild s id b 6)

/-- A command is accepted, or turned away with a status (R268, R274, R485).  ASRETIRE answers at once (R484).  Any other command takes its copy of
the descriptor (R267). -/
def acceptBuild (s : State) (id : Nat) (b : Build) : State :=
  match readDescriptor s id b with
  | (none, s1) => s1
  | (some (d, s1), _) =>
    let b := { b with copy := d, place := descriptorPlace s1 b.cid b.asid b.fn b.desc b.supervisor }
    let state := slotField d b.target 36 1
    if b.kind == 3 then
      if 1 ≤ state && !(state == 3) && state ≤ 4 then
        let s2 := landStatus s1 id b 0
        if retireWaits s b then dueBuild (setBuild s2 id { b with phase := 1 }) id else retireSlot s2 id b d
      else endBuild s1 id b 4
    else if b.kind == 2 then
      if !(state == 2) || updateReads s b.place b.target then endBuild s1 id b 4 else dueBuild (setBuild s1 id { b with phase := 1 }) id
    else if !(state == 0) || (b.kind == 1 && !(slotField d (1 - b.target) 36 1 == 2)) then endBuild s1 id b 4
    else
      let bad := checkDescriptor d b.target
      if !(bad == 0) then endBuild s1 id b bad else
        let gen := natAt d 56 4
        match writeAll s1 (b.who id) [(b.desc + 56, leBytes 4 (nextGeneration gen)),
            (slotAddr b.desc b.target + 24, leBytes 4 gen ++ leBytes 8 0 ++ leBytes 1 1)] with
        | (.done s2, _) =>
          dueBuild (setBuild s2 id { b with
            phase := 1, generation := gen, clusters := natAt d 28 4, pool := slotField d b.target 0 8, fenceBase := slotField d b.target 16 8 }) id
        | (.wait s2, _) => dueBuild (setBuild s2 id b) id
        | (.fault a c, va) => faultBuild s1 id b va a c .write
        | _ => endBuild s1 id b 6

/-! ## Reading headers and trees (R264, R281, R283) -/

/-- What a scan has read: an item for each place, whether a line could not be read, or what stops it. -/
inductive Scanned (α : Type) where
  | got (items : List α) (memory : Bool) (s : State)
  | wait (s : State)
  | fault (va subtype level : Nat)

/-- Read the headers of `n` clusters of the list (R264, R281): none for a bad one. -/
def readHeaders (w : Who) (list_ : Nat) : Nat → State → Nat → Scanned (Option Header)
  | 0, s, _ => .got [] false s
  | n + 1, s, i =>
    let one : Fetch × Nat := match readSpan s w 2 (list_ + 8 * i) 8 with
      | (.bytes a s1, _) => readSpan s1 w 2 (leNat a) 64
      | r => r
    match one with
    | (.wait s1, _) => .wait s1
    | (.fault a b, va) => .fault va a b
    | (.bytes h s1, _) =>
      match readHeaders w list_ n s1 (i + 1) with
      | .got r mem s2 => .got (parseHeader h :: r) mem s2
      | r => r
    | _ =>
      match readHeaders w list_ n s (i + 1) with
      | .got r _ s2 => .got (some ⟨List.replicate 6 0#32, 0⟩ :: r) true s2
      | r => r

/-- A node read from a tree: its address, its bytes (none when a line could not be read) and its children. -/
structure SNode where
  addr : Nat
  bytes : Option (List Byte)
  kids : List (Option (Nat ⊕ Nat))
  deriving DecidableEq, Repr

/-- The children of a node's bytes: cluster indices on the left, node addresses on the right (R276). -/
def kidsOf (b : List Byte) : List (Option (Nat ⊕ Nat)) :=
  (List.range 8).map fun k =>
    let w := natAt b (80 + 4 * k) 4 % 2 ^ 24
    if !((natAt b 15 1).testBit k) then none
    else if (natAt b 16 1).testBit k then some (.inl w)
    else some (.inr ((natAt b 24 8 + 128 * w) % 2 ^ 64))

/-- A node is malformed (R281): no valid child, a cluster index at or above m, or a child beyond the pool. -/
def malformed (pool capacity clusters : Nat) (n : SNode) : Bool :=
  n.bytes.isSome && (n.kids.all (·.isNone) || n.kids.any fun k => match k with
    | some (.inl c) => clusters ≤ c
    | some (.inr a) => a < pool || pool + 128 * capacity ≤ a
    | none => false)

/-- Read the nodes of a tree from a list of addresses, parents before children; malformed nodes are not followed. -/
def readTree (w : Who) (pool capacity clusters : Nat) : Nat → State → List Nat → Scanned SNode
  | 0, s, _ => .got [] false s
  | _ + 1, s, [] => .got [] false s
  | f + 1, s, a :: r =>
    match readSpan s w 2 a 128 with
    | (.wait s1, _) => .wait s1
    | (.fault x b, va) => .fault va x b
    | (.bytes h s1, _) =>
      let n : SNode := ⟨a, some h, kidsOf h⟩
      let next := if malformed pool capacity clusters n then [] else n.kids.filterMap fun k => match k with | some (.inr a) => some a | _ => none
      match readTree w pool capacity clusters f s1 (next ++ r) with
      | .got l mem s2 => .got (n :: l) mem s2
      | x => x
    | _ =>
      match readTree w pool capacity clusters f s r with
      | .got l _ s2 => .got (⟨a, none, []⟩ :: l) true s2
      | x => x

/-- Clusters under each node of a tree, by address. -/
def clustersUnder (ns : List SNode) : List (Nat × List Nat) :=
  ns.foldr (fun n m => place m n.addr (n.kids.flatMap fun k => match k with
    | some (.inl c) => [c]
    | some (.inr a) => (find? m a).getD []
    | none => [])) []

/-- The plan of an update (R283): rebuilt subtrees are sorted and planned afresh, every other node is copied. -/
def planUpdate (scene : Box) (long : Bool) (hs : Array Header) (ns : List SNode) (under_ : List (Nat × List Nat)) :
    Nat → Nat → Nat → Nat → Nat → List PNode
  | 0, _, _, _, _ => []
  | f + 1, a, p, parent, pos =>
    match ns.find? fun n => n.addr == a with
    | none => []
    | some n =>
      let cs := (find? under_ a).getD []
      if (natAt (n.bytes.getD []) 125 1).testBit 0 then
        planWhole scene long (cs.map fun c => (c, hs.getD c ⟨[], 0⟩)) p parent pos
      else
        let size := fun (k : Option (Nat ⊕ Nat)) => match k with | some (.inr x) => ((find? under_ x).getD []).length - 1 | _ => 0
        let placed := (n.kids.foldl (fun (q : List (Option (Nat ⊕ Nat) × Nat) × Nat) k => (q.1 ++ [(k, q.2)], q.2 + size k)) ([], p + 1)).1
        ⟨p, cs.length, parent, pos, placed.map fun k => match k.1 with
            | some (.inl c) => some (Kid.leaf c)
            | some (.inr x) => some (Kid.inner k.2 ((find? under_ x).getD []).length)
            | none => none⟩ ::
          ((List.range 8).zip placed).flatMap fun k => match k.2.1 with
            | some (.inr x) => planUpdate scene long hs ns under_ f x k.2.2 p k.1
            | _ => []

/-! ## Scans -/

/-- The piece that uses the work area: 16 bytes for each cluster, which hold anything after the build (R265, R511). -/
def scratchTask (s : State) (b : Build) : Task × State :=
  let n := 16 * natAt b.copy 28 4
  let (bytes, s1) := freeBytes s n
  let base := natAt b.copy 40 8
  (⟨2 ^ 40, (List.range ((n + 127) / 128)).map fun k => ((base + 128 * k) % 2 ^ 64, (bytes.drop (128 * k)).take 128), none, b.die, [], false, false⟩, s1)

/-- A build's pieces, once its plan is known. -/
def planned (s : State) (id : Nat) (b : Build) (hs : Array Header) (split : Bool) (ns : List PNode) : State :=
  let (bases, fences) := fenceBases split Config.fenceOrder ns
  let x : Scene := ⟨split, hs, bases, b.pool, b.generation % 256⟩
  let (work, s) := scratchTask s b
  dueBuild (setBuild s id { b with
    phase := 2, fences := fences, nodes := placesUsed ns
    tasks := work :: buildTasks x ns b.fenceBase b.generation b.die (dieCount s == 2) }) id

/-- The node of a refit with its new boxes, cost, quality and REBUILD (R281); with the box and cost of the nodes done before it. -/
def refitNode (hs : Array Header) (threshold : Nat) (done : Done) (n : SNode) : List Byte × Box × Word :=
  let b := n.bytes.getD []
  let header := fun (c : Nat) => hs.getD c ⟨[], 0⟩
  let boxes := n.kids.map fun k => match k with
    | some (.inl c) => some (header c).box
    | some (.inr a) => (find? done a).map (·.1)
    | none => none
  let real := boxes.filterMap id
  let axes := (List.range 3).map (axisOf real)
  let qs := boxes.map fun x => match x with | some x => quantiseBox axes x | none => List.replicate 6 0
  let box := unionAll ((qs.zip boxes).filterMap fun q => q.2.map fun _ => decodeBox axes q.1)
  let cost := costOf box (n.kids.filterMap fun k => match k with
    | some (.inl c) => some (Term.leaf (header c).box (header c).triangles)
    | some (.inr a) => some (.inner (((find? done a).map (·.2)).getD 0#32))
    | none => none)
  let last := wordAt b 112
  let q := qualityOf cost last
  let rebuild := match valueOf bf16 q, valueOf bf16 threshold with
    | .nan, _ => false
    | _, .nan => false
    | x, y => cmpVal x y == .gt
  let w : NodeWords := {
    valid := natAt b 15 1, leaf := natAt b 16 1, tag := natAt b 17 1, quality := q, fenceBase := natAt b 20 4, childBase := natAt b 24 8
    words := (List.range 8).map fun k => natAt b (80 + 4 * k) 4
    costLast := last, costNow := cost, parent := natAt b 120 4, pos := natAt b 124 1, rebuild := rebuild }
  (nodeBytes axes qs w, box, cost)

/-- The pieces of a refit: one for each node, after its inner children (R281). -/
def refitTasks (hs : Array Header) (threshold die : Nat) (ns : List SNode) : List Task :=
  (ns.foldr (fun n (p : List Task × Done) =>
    let c := refitNode hs threshold p.2 n
    let needs := n.kids.filterMap fun k => match k with | some (.inr a) => some a | _ => none
    (⟨n.addr, [(n.addr, c.1)], none, die, needs, false, false⟩ :: p.1, place p.2 n.addr (c.2.1, c.2.2))) ([], [])).1

/-- The scan of a build (R268, R269), or what a refit reads before it writes (R281), by the copy of the descriptor (R267). -/
def scanBuild (s : State) (id : Nat) (b : Build) : State :=
    let d := b.copy
    let w := b.who id
    let m := natAt d 28 4
    let scene := sceneOf d
    let long := (natAt d 26 1).testBit 0
    match readHeaders w (natAt d 32 8) m s 0 with
    | .wait s2 => dueBuild (setBuild s2 id b) id
    | .fault va a c => faultBuild s id b va a c .read
    | .got hs mem s2 =>
      let good := hs.all fun h => match h with | some h => b.kind == 2 || mem || inScene scene h | none => false
      let fail := fun (e : Nat) => if b.kind == 2 then endBuild s2 id b e else failBuild s2 id b e false
      if !good then fail 2
      else
        let arr : Array Header := (hs.filterMap fun h => h).toArray
        if b.kind == 0 then
          if mem then fail 6 else
            let split := (natAt d 26 1).testBit 1
            let l := (List.range m).zip (hs.filterMap fun h => h)
            planned s2 id b arr split (if split then planSplit scene long l else planWhole scene long l 0 noParent 0)
        else
          let from_ := if b.kind == 1 then 1 - b.target else b.target
          let pool := slotField d from_ 0 8
          let cap := slotField d from_ 8 4
          match readTree w pool cap m (cap + 1) s2 [pool] with
          | .wait s3 => dueBuild (setBuild s3 id b) id
          | .fault va a c => faultBuild s2 id b va a c .read
          | .got ns mem2 s3 =>
            let fail := fun (e : Nat) => if b.kind == 2 then endBuild s3 id b e else failBuild s3 id b e true
            let under_ := clustersUnder ns
            let thin := b.kind == 1 && ns.any fun n => !(n.addr == pool) && ((find? under_ n.addr).getD []).length < 2
            if ns.any (malformed pool cap m) || (thin && !mem2) || cap < ns.length then fail 7
            else if mem || mem2 then fail 6
            else if b.kind == 2 then
              let th := if natAt d 24 2 == 0 then 0x3FC0 else natAt d 24 2
              dueBuild (setBuild s3 id { b with phase := 2, tasks := refitTasks arr th b.die ns }) id
            else
              let rebuilt := match ns.head? with | some n => (natAt (n.bytes.getD []) 125 1).testBit 0 | none => false
              planned s3 id b arr ((natAt d 26 1).testBit 1 && !rebuilt) (planUpdate scene long arr ns under_ (cap + 1) pool 0 noParent 0)

/-! ## Working on the pieces -/

/-- The writes that end a build whose pieces are all done (R266, R268, R274, R285). -/
def finalWrites (b : Build) : List (Nat × List Byte) :=
  [(slotAddr b.desc b.target + 28, leBytes 4 b.nodes ++ leBytes 4 b.fences ++ leBytes 1 2 ++ leBytes 1 0)]

/-- The first writes of a piece, up to 64 KiB, as spans: the window whose lines are gathered before it is written (R210). -/
def taskWindow (t : Task) : List (Nat × Nat) := (t.writes.take 512).map fun x => (x.1, x.2.length)

/-- Make the closing writes of a build, and land its status when they are made. -/
def closeBuild (s : State) (id : Nat) (b : Build) : State :=
  match b.tasks with
  | [] => endBuild s id b b.status
  | t :: _ =>
    match runWrites s (b.who id) t.writes with
    | .done s1 => endBuild s1 id b b.status
    | .wait s1 r => dueBuild (setBuild s1 id { b with tasks := [{ t with writes := r }] }) id
    | .fault s1 r va x y => faultBuild s1 id { b with tasks := [{ t with writes := r }] } va x y .write
    | .memory s1 r => dueBuild (setBuild s1 id { b with tasks := [{ t with writes := r.drop 1 }] }) id

/-- An accepted ASRETIRE waits for the builders to stop work on a slot: they begin no other piece (R268). -/
def retiring (s : State) (b : Build) : Bool := s.builds.any fun x => x.2.kind == 3 && 1 ≤ x.2.phase && x.2.place == b.place && x.2.target == b.target

/-- The pieces of a build that a builder may work on: one begun, or one whose needs are done, unless the context is being pre-empted or the slot
retired (R139, R268, R272). -/
def readyTasks (s : State) (b : Build) (rewrite : Bool) : List Task :=
  b.tasks.filter fun t => t.needs.isEmpty && t.rewrite == rewrite && (t.begun || !(frozen s b.fn b.q (.builder t.die) || retiring s b))

/-- Work on one piece of a build or refit that nothing holds back, by a builder of the piece's die (R273). -/
def workOn (s : State) (id : Nat) (b : Build) (rewrite : Bool) : State :=
  let ready := readyTasks s b rewrite
  let (t, s0) := if ready.length ≤ 1 then (ready.head?, s) else (ready[Config.freeNat s.free % ready.length]?, { s with free := s.free + 1 })
  match t with
  | none => s
  | some t =>
    let left := fun (r : List (Nat × List Byte)) =>
      { b with tasks := b.tasks.map fun x => if x.id == t.id then { x with writes := r, begun := x.begun || r.length < t.writes.length } else x }
    let w := b.whoOn id t.die
    let ran := match gatherWindow s0 w (taskWindow t) with
      | (none, s1) => Ran.wait s1 t.writes
      | (some s1, _) => runWrites s1 w t.writes
    match ran with
    | .wait s1 r => dueBuild (setBuild s1 id (left r)) id
    | .fault s1 r va x y => faultBuild s1 id (left r) va x y .write
    | .memory s1 r => if b.kind == 2 then endBuild s1 id b 6 else failBuild s1 id (left r) 6 true
    | .done s1 =>
      let b1 := { b with
        tasks := (b.tasks.filter fun x => !(x.id == t.id)).map fun x => { x with needs := x.needs.filter fun n => !(n == t.id) }
        signalled := match t.fence with | some f => b.signalled ++ [f] | none => b.signalled }
      if !b1.tasks.isEmpty then dueBuild (setBuild s1 id b1) id
      else if b.kind == 2 then endBuild s1 id b1 0
      else closeBuild s1 id { b1 with phase := 3, status := 0, tasks := [⟨0, finalWrites b1, none, b.die, [], false, false⟩] }

/-- One step of a builder command. -/
def stepBuild (s : State) (id : Nat) (rewrite : Bool) : State :=
  match find? s.builds id with
  | none => s
  | some b =>
    if !b.faults.isEmpty then s
    else if b.phase == 2 then workOn s id b rewrite
    else if frozen s b.fn b.q (.builder b.die) then s
    else if b.phase == 0 then acceptBuild s id b
    else if b.phase == 1 then
      if b.kind == 3 then
        if retireWaits s b then dueBuild s id else
          match readDescriptor s id b with
          | (none, s1) => s1
          | (some (d, s1), _) => retireSlot s1 id b d
      else scanBuild s id b
    else closeBuild s id b

/-- BUILDER_TASK: a builder of the command `n0` accepts it, scans, or builds one task subtree and signals its fence (R268, R272, R285). -/
def execBuilderTask (s : State) : Out := .next (stepBuild s s.args.n0 false)

/-- TOP_NODE_REWRITE: the second writing of a top node of build `n0`; the last one makes the slot READY (R285). -/
def execTopNodeRewrite (s : State) : Out := .next (stepBuild s s.args.n0 true)

/-- REFIT_NODE: one node of refit `n0` is rewritten, after its inner children (R281). -/
def execRefitNode (s : State) : Out := .next (stepBuild s s.args.n0 false)

/-! ## Issue (R484) -/

/-- Issue of a builder command: the address of the lowest lane is checked, and the builders take the command. -/
def builderCommand (i : Instr) (kind : Nat) (a : RegIx) (n : BitVec 1) (s : State) : Out :=
  issueOn i s fun s e =>
    let desc := fun (g : Group) => (srcPair s.iss g (lowestLane e) a.toNat).toNat
    let p := operandCheck 0x07 false (fun g t => if t == lowestLane e && !(desc g % 64 == 0) then some (desc g) else none) (s, e)
    if p.2 = 0#32 then p.1 else
      match issGroup p.1 with
      | none => p.1
      | some g =>
        let (op, s1) := beginOp i p.1 p.2 fun _ => 0#64
        let s2 := onGroup s1 fun g => advance s.iss 1 p.2 (modOp g op fun o => { o with sent := true })
        let (fn, q) := contextOf s g
        let b : Build := ⟨kind, s.iss.cid / 128, s.iss.cid, s.iss.slot, op, p.2, ((teamOf s g.team).map (·.launch)).getD 0, asidOf s g, fn, q,
          g.supervisor, desc g, n.toNat, 0, 0, 0, 0, 0, 0, 0, [], [], 0, [], 0, []⟩
        acceptBuild (setBuild s2 op b) op b

/-- asbuild d, [a], #s (R484). -/
def execAsbuild (x : Bool) (d a : RegIx) (n : BitVec 1) (s : State) : Out := builderCommand (.asbuild x d a n) 0 a n s
/-- asbuild.update d, [a], #s (R283, R484). -/
def execAsbuildUpdate (x : Bool) (d a : RegIx) (n : BitVec 1) (s : State) : Out := builderCommand (.asbuildUpdate x d a n) 1 a n s
/-- asrefit d, [a], #s (R281, R484). -/
def execAsrefit (x : Bool) (d a : RegIx) (n : BitVec 1) (s : State) : Out := builderCommand (.asrefit x d a n) 2 a n s
/-- asretire d, [a], #s (R268, R484). -/
def execAsretire (x : Bool) (d a : RegIx) (n : BitVec 1) (s : State) : Out := builderCommand (.asretire x d a n) 3 a n s

/-! ## The compactor (R268, R290) -/

/-- Whose work a compaction is. -/
def Compact.who (c : Compact) (id : Nat) : Who := ⟨c.cid, 16, 0#32, id, c.asid, c.fn, c.supervisor, compactorAgent c.die, 128 * c.die + c.cid % 128⟩

/-- A page fault of the compactor holds its job. -/
def faultCompact (s : State) (id : Nat) (c : Compact) (va sub lvl : Nat) (k : AccKind) : State :=
  let (f, s1, ring) := raiseFault s c.fn c.q c.asid va sub lvl k 3 none
  if ring then { s1 with compacts := place s1.compacts id { c with faults := c.faults ++ [f] } }
  else later (abortFault s1 c.fn f) 1000000 .compactorBlock { n0 := id }

/-- What follows a write of the compactor. -/
def compactNext (s : State) (id : Nat) (c c1 : Compact) (r : Put × Nat) : State :=
  let again := fun (s : State) (c : Compact) => due { s with compacts := place s.compacts id c } .compactorBlock { n0 := id }
  match r with
  | (.done s1, _) => again s1 c1
  | (.wait s1, _) => again s1 c
  | (.fault a b, va) => faultCompact s id c va a b .write
  | _ => again s c1

/-- COMPACTOR_BLOCK: job `n0` makes its descriptor writes, fails one fence unless it is signalled, waits for the rays of its generation, or
writes zero to one block of 64 KiB; after the last the slot is EMPTY and its count entry frees (R268, R289, R290). -/
def execCompactorBlock (s : State) : Out :=
  let id := s.args.n0
  match find? s.compacts id with
  | none => .next s
  | some c =>
    let w := c.who id
    let again := fun (s : State) (c : Compact) => due { s with compacts := place s.compacts id c } .compactorBlock { n0 := id }
    let key := generationKey c.place c.target c.generation
    if !c.faults.isEmpty || frozen s c.fn c.q (.compactor c.die) then .next s else
      match c.writes with
      | x :: r => .next (compactNext s id c { c with writes := r } (writeSpan s w 3 x.1 x.2))
      | [] =>
        match c.fail with
        | f :: r =>
          let c1 := { c with fail := r }
          let write := fun (s : State) => compactNext s id c c1 (writeSpan s w 2 f (fenceBytes c.generation true))
          match readSpan s w 2 f 8 with
          | (.bytes b s1, _) => .next (if leNat b / 2 ^ 63 == 1 && leNat b % 2 ^ 32 == c.generation then again s1 c1 else write s1)
          | (.wait s1, _) => .next (again s1 c)
          | (.fault x y, va) => .next (faultCompact s id c va x y .read)
          | _ => .next (write s)
        | [] =>
          if !(look 0 s.rayCounts key == 0) then .next (due s .compactorBlock s.args) else
            match c.ranges with
            | (a, n) :: r =>
              if n == 0 then .next (again s { c with ranges := r }) else
                let k := min n 65536
                match gatherWindow s w [(a, k)] with
                | (none, s1) => .next (again s1 c)
                | (some s1, _) => .next (compactNext s1 id c { c with ranges := (a + k, n - k) :: r } (writeSpan s1 w 1026 a (List.replicate k 0#8)))
            | [] =>
              match writeSpan s w 3 (slotAddr c.desc c.target + 28) (leBytes 8 0 ++ leBytes 1 0) with
              | (.done s1, _) => .next { s1 with compacts := erase s1.compacts id, rayCounts := erase s1.rayCounts key }
              | (.wait s1, _) => .next (again s1 c)
              | (.fault x y, va) => .next (faultCompact s id c va x y .write)
              | _ => .next { s with compacts := erase s.compacts id, rayCounts := erase s.rayCounts key }

end Sys2Proof.Machine
end

