-- ==== Sys2Proof/Machine/Crypto.lean ====
section
/-! DEFINITION.  SHA-256 and ECDSA P-256 verification (R44, R45, R53, R57, R58): the algorithms those rules name, as FIPS 180-4 and FIPS 186-5
define them. -/

namespace Sys2Proof.Machine

/-! ## SHA-256 -/

/-- The first primes, whose roots give the constants of SHA-256. -/
def primes64 : List Nat :=
  [2, 3, 5, 7, 11, 13, 17, 19, 23, 29, 31, 37, 41, 43, 47, 53, 59, 61, 67, 71, 73, 79, 83, 89, 97, 101, 103, 107, 109, 113, 127, 131,
   137, 139, 149, 151, 157, 163, 167, 173, 179, 181, 191, 193, 197, 199, 211, 223, 227, 229, 233, 239, 241, 251, 257, 263, 269, 271, 277,
   281, 283, 293, 307, 311]

/-- The largest r below 2^bits with r^k at most n. -/
def rootFloor (k n : Nat) : Nat → Nat → Nat
  | 0, r => r
  | b + 1, r => rootFloor k n b (if (r + 2 ^ b) ^ k ≤ n then r + 2 ^ b else r)

/-- The first 32 bits of the fractional parts of the cube roots of the first 64 primes. -/
def shaK : List Word := primes64.map fun p => BitVec.ofNat 32 (rootFloor 3 (p * 2 ^ 96) 36 0)

/-- The first 32 bits of the fractional parts of the square roots of the first 8 primes. -/
def shaInit : List Word := (primes64.take 8).map fun p => BitVec.ofNat 32 (rootFloor 2 (p * 2 ^ 64) 37 0)

/-- A word from 4 bytes, big-endian. -/
def beWord (b : List Byte) : Word := b.foldl (fun w x => (w <<< 8) ||| x.setWidth 32) 0#32

/-- The bytes of a number, big-endian. -/
def beBytes (n v : Nat) : List Byte := (leBytes n v).reverse

/-- The number of bytes, big-endian. -/
def beNat (b : List Byte) : Nat := leNat b.reverse

/-- A message padded to whole blocks of 64 bytes. -/
def shaPad (m : List Byte) : List Byte :=
  m ++ 0x80#8 :: List.replicate ((119 - m.length % 64) % 64) 0#8 ++ beBytes 8 (8 * m.length)

/-- The message schedule: `n` further words, each from the 16 before it, newest first. -/
def shaSchedule : Nat → List Word → List Word
  | 0, w => w
  | n + 1, w =>
    let g := fun (k : Nat) => nth 0#32 w k
    let s0 := (g 14).rotateRight 7 ^^^ (g 14).rotateRight 18 ^^^ (g 14) >>> 3
    let s1 := (g 1).rotateRight 17 ^^^ (g 1).rotateRight 19 ^^^ (g 1) >>> 10
    shaSchedule n ((g 15 + s0 + g 6 + s1) :: w)

/-- One round on the eight working words. -/
def shaRound (h : List Word) (kw : Word × Word) : List Word :=
  match h with
  | [a, b, c, d, e, f, g, x] =>
    let t1 := x + (e.rotateRight 6 ^^^ e.rotateRight 11 ^^^ e.rotateRight 25) + ((e &&& f) ^^^ (~~~e &&& g)) + kw.1 + kw.2
    let t2 := (a.rotateRight 2 ^^^ a.rotateRight 13 ^^^ a.rotateRight 22) + ((a &&& b) ^^^ (a &&& c) ^^^ (b &&& c))
    [t1 + t2, a, b, c, d + t1, e, f, g]
  | h => h

/-- One block. -/
def shaBlock (h : List Word) (block : List Byte) : List Word :=
  let ws := (List.range 16).map fun k => beWord ((block.drop (4 * k)).take 4)
  let all := (shaSchedule 48 ws.reverse).reverse
  (h.zip ((shaK.zip all).foldl shaRound h)).map fun p => p.1 + p.2

/-- All blocks of a padded message. -/
def shaBlocks : Nat → List Word → List Byte → List Word
  | 0, h, _ => h
  | n + 1, h, m => shaBlocks n (shaBlock h (m.take 64)) (m.drop 64)

/-- SHA-256 of a message: 32 bytes. -/
def sha256 (m : List Byte) : List Byte :=
  let p := shaPad m
  (shaBlocks (p.length / 64) shaInit p).flatMap fun w => beBytes 4 w.toNat

/-- HMAC-SHA-256 of a message under a key (R54), as FIPS 198-1 defines it. -/
def hmacSha256 (key m : List Byte) : List Byte :=
  let k := if 64 < key.length then sha256 key else key
  let pad := fun (x : Byte) => (k ++ List.replicate (64 - k.length) 0#8).map (· ^^^ x)
  sha256 (pad 0x5C#8 ++ sha256 (pad 0x36#8 ++ m))

/-! ## ECDSA P-256 -/

/-- The prime of the field of P-256. -/
def p256P : Nat := 2 ^ 256 - 2 ^ 224 + 2 ^ 192 + 2 ^ 96 - 1
/-- The order of the base point. -/
def p256N : Nat := 0xFFFFFFFF00000000FFFFFFFFFFFFFFFFBCE6FAADA7179E84F3B9CAC2FC632551
/-- The coefficient b of the curve. -/
def p256B : Nat := 0x5AC635D8AA3A93E7B3EBBD55769886BC651D06B0CC53B0F63BCE3C3E27D2604B
/-- The base point. -/
def p256G : Nat × Nat :=
  (0x6B17D1F2E12C4247F8BCE6E563A440F277037D812DEB33A0F4A13945D898C296, 0x4FE342E2FE1A7F9B8EE7EB4A7C0F9E162BCE33576B315ECECBB6406837BF51F5)

/-- a to the power e modulo m. -/
def powMod (m : Nat) : Nat → Nat → Nat → Nat → Nat
  | 0, _, _, r => r
  | f + 1, a, e, r => powMod m f (a * a % m) (e / 2) (if e % 2 == 1 then r * a % m else r)

/-- The inverse modulo a prime. -/
def invMod (m a : Nat) : Nat := powMod m 256 (a % m) (m - 2) 1

/-- A point of the curve; none is the point at infinity. -/
abbrev Point := Option (Nat × Nat)

/-- The sum of two points. -/
def addPoints (a b : Point) : Point :=
  match a, b with
  | none, q => q
  | p, none => p
  | some (x1, y1), some (x2, y2) =>
    if x1 == x2 && (y1 + y2) % p256P == 0 then none
    else
      let l := if x1 == x2 then (3 * x1 * x1 + (p256P - 3)) * invMod p256P (2 * y1) % p256P
               else (y2 + p256P - y1) * invMod p256P (x2 + p256P - x1) % p256P
      let x := (l * l + 2 * p256P - x1 - x2) % p256P
      some (x, (l * (x1 + p256P - x) + p256P - y1) % p256P)

/-- k times a point: `n` bits from the lowest. -/
def mulPoint : Nat → Nat → Point → Point → Point
  | 0, _, _, r => r
  | n + 1, k, p, r => mulPoint n (k / 2) (addPoints p p) (if k % 2 == 1 then addPoints r p else r)

/-- The coordinates are those of a point of the curve. -/
def onCurve (x y : Nat) : Bool :=
  x < p256P && y < p256P && y * y % p256P == (x * x % p256P * x + (p256P - 3) * x + p256B) % p256P

/-- ECDSA P-256 verification of a 32-byte hash: key X then Y, signature r then s, big-endian (R43, R44). -/
def ecdsaVerify (key hash sig : List Byte) : Bool :=
  let x := beNat (key.take 32)
  let y := beNat ((key.drop 32).take 32)
  let r := beNat (sig.take 32)
  let s := beNat ((sig.drop 32).take 32)
  key.length == 64 && sig.length == 64 && onCurve x y && 0 < r && r < p256N && 0 < s && s < p256N &&
  let w := invMod p256N s
  match addPoints (mulPoint 256 (beNat hash * w % p256N) (some p256G) none) (mulPoint 256 (r * w % p256N) (some (x, y)) none) with
  | some (v, _) => v % p256N == r
  | none => false

end Sys2Proof.Machine
end

