-- ==== Sys2Proof/Machine/Asm.lean ====
section
/-! DEFINITION.  The assembler reric-as and the code object it writes: lexical forms (R354), choice of the form (R355), safe points and live masks
(R356, R362), clauses (R357), directives (R358), padding (R359), the object header (R360), entry stamps (R361), the kernel table (R363), the
tables a debugger reads (R364) and the values of labels (R523).  Nothing here is executed by the machine, which reads an object's bytes only. -/

namespace Sys2Proof.Machine

/-! ## Lexical forms (R354) -/

/-- A letter or an underscore. -/
def nameStart (c : Char) : Bool := c.isAlpha || c == '_'

/-- An identifier. -/
def identifier : List Char → Bool
  | c :: r => nameStart c && r.all fun x => nameStart x || x.isDigit
  | [] => false

/-- A source line without its comment. -/
def withoutComment : List Char → List Char
  | [] => []
  | c :: r => if c == ';' || (c == '/' && r.head? == some '/') then [] else c :: withoutComment r

/-- A digit of a base, or none. -/
def digitOf (base : Nat) (c : Char) : Option Nat :=
  let n := if c.isDigit then c.toNat - 48 else if 'a' ≤ c && c ≤ 'f' then c.toNat - 87 else if 'A' ≤ c && c ≤ 'F' then c.toNat - 55 else 99
  if n < base then some n else none

/-- A number in a base, at least one digit; in base 16 underscores stand between digits. -/
def digitsOf (base : Nat) (l : List Char) : Option Nat :=
  let ds := if base == 16 then l.filter (fun c => !(c == '_')) else l
  if ds.isEmpty then none else ds.foldl (fun a c => a.bind fun n => (digitOf base c).map (base * n + ·)) (some 0)

/-- The value of a numeric immediate after its `#`. -/
def immediateOf : List Char → Option Int
  | '-' :: '0' :: 'x' :: r => (digitsOf 16 r).map fun n => -(n : Int)
  | '0' :: 'x' :: r => (digitsOf 16 r).map fun n => (n : Int)
  | '-' :: r => (digitsOf 10 r).map fun n => -(n : Int)
  | r => (digitsOf 10 r).map fun n => (n : Int)

/-- A name with a number below a limit: v0 to v127, f0 to f11, m0 to m7, cv0 to cv7, acc0 to acc15, p0 to p3. -/
def numbered (pre : List Char) (limit : Nat) (l : List Char) : Option Nat :=
  if l.take pre.length == pre then (digitsOf 10 (l.drop pre.length)).bind fun n => if n < limit then some n else none else none

/-- A register operand `first:last`, of as many registers as its instruction takes: pairs start at an even register, quads at a multiple of 4,
and the longer ranges at a multiple of their count. -/
def rangeLegal (first last count : Nat) : Bool := last + 1 == first + count && last < 128 && first % count == 0

/-! ## The source, after its lexical forms -/

inductive AsmSection where
  | text | data | rodata
  deriving DecidableEq, Repr

/-- A value: a number, or a label. -/
inductive AsmValue where
  | num (n : Nat)
  | label (name : String)
  deriving DecidableEq, Repr

/-- What a `.clause` directive sets (R357, R358). -/
structure ClauseSpec where
  wait : BitVec 12
  setA : BitVec 4
  setB : BitVec 4
  yield_ : Bool
  deriving DecidableEq, Repr

/-- A clause without a `.clause` directive. -/
def ClauseSpec.plain : ClauseSpec := ⟨0, 15, 15, false⟩

/-- One label, directive or instruction (R358).  An instruction is its word, without the stop bit, and its literal. -/
inductive Source where
  | label (name : String)
  | section_ (s : AsmSection)
  | kernel (name : List Byte)
  | end_
  | team (n : Nat)
  | regs (n : Nat)
  | scratch (n : Nat)
  | tiles (n : Nat)
  | gang (name : String) (index : Nat)
  | pipe (p producer consumer : Nat)
  | pool
  | clause (c : ClauseSpec)
  | live (regs : List Nat)
  | align (n : Nat)
  | value (size : Nat) (v : AsmValue)
  | zero (n : Nat)
  | instr (stop : Bool) (w : Word) (lit : Option AsmValue)
  deriving DecidableEq, Repr

/-- The errors reric-as reports. -/
inductive AsmError where
  /-- An operand of a directive or a value outside its limits (R355, R358, R523). -/
  | range
  /-- A kernel without `.regs`, or a directive of a kernel outside one (R358). -/
  | kernel
  /-- An instruction outside `text`, or not on a word boundary. -/
  | place
  /-- A literal that the instruction does not have, or lacks (R341). -/
  | literal
  /-- A remainder word that the preceding clause cannot take (R359). -/
  | padding
  /-- A safe point inside a region (R356). -/
  | stop
  /-- A label that nothing defines. -/
  | label
  deriving DecidableEq, Repr

/-- The form of an instruction with an immediate: the I form when it fits the 7 bits, else the L form; an error when the form is missing (R343,
R355). -/
def chooseForm (unsigned : Bool) (i l : Option Word) (v : Int) : Except AsmError (Word × Option Word) :=
  let fits := if unsigned then 0 ≤ v && v ≤ 127 else -64 ≤ v && v ≤ 63
  match fits, i, l with
  | true, some w, _ => .ok (w ||| (BitVec.ofInt 7 v).zeroExtend 32, none)
  | _, _, some w => if -(2 ^ 31 : Int) ≤ v && v < 2 ^ 32 then .ok (w, some (BitVec.ofInt 32 v)) else .error .range
  | _, _, none => .error .range

/-- `.f32`: the decimal number (-1)^neg × m × 10^e, rounded to nearest even (R358). -/
def decimal32 (neg : Bool) (m : Nat) (e : Int) : Word :=
  if 0 ≤ e then BitVec.ofNat 32 (roundMag fp32 .rne false neg (m * 10 ^ e.toNat) 0 false)
  else
    let k := 200 + 4 * (-e).toNat
    let n := m * 2 ^ k
    let d := 10 ^ (-e).toNat
    BitVec.ofNat 32 (roundMag fp32 .rne false neg (n / d) (-(k : Int)) (!(n % d == 0)))

/-! ## Assembling -/

/-- A word of a clause: fixed, or to be filled in from a label. -/
inductive AsmWord where
  | word (w : Word)
  | target (name : String)
  | offset (name : String)
  deriving DecidableEq, Repr

/-- What the `text` section holds at an offset from its start: a clause, or bytes. -/
inductive Piece where
  | clause (spec : ClauseSpec) (cls : Option Nat) (control : Bool) (words : List AsmWord)
  | bytes (size : Nat) (v : AsmValue)
  | stamp
  deriving DecidableEq, Repr

/-- A kernel of the object (R363). -/
structure AsmKernel where
  name : List Byte
  code : Nat
  team : Nat
  regs : Option Nat
  scratch : Nat
  tiles : Nat
  gang : Option (Nat × Nat)
  pipes : List (Nat × Nat)
  deriving DecidableEq, Repr

/-- A label: its section, its offset there, and the offset of its pool's base. -/
structure AsmLabel where
  name : String
  place : AsmSection
  at_ : Nat
  pool : Option Nat
  deriving DecidableEq, Repr

/-- The assembler's work: the pieces of `text` by offset, the values of the other sections by size, and what is open. -/
structure Asm where
  place : AsmSection
  text : List (Nat × Piece)
  pos : Nat
  data : List (Nat × AsmValue)
  rodata : List (Nat × AsmValue)
  labels : List AsmLabel
  pool : Option Nat
  kernel : Option AsmKernel
  kernels : List AsmKernel
  gangs : List String
  /-- A clause is open: the last piece of `text`. -/
  open_ : Bool
  /-- The directive that the next clause begins with. -/
  spec : Option ClauseSpec
  live : Option (BitVec 128)
  /-- Safe points: the offset, and the mask once it is known. -/
  points : List (Nat × Option (BitVec 128))
  regions : Nat
  deriving DecidableEq, Repr

/-- The code section begins with a stamp (R361). -/
def Asm.start : Asm := ⟨.text, [(0, .stamp)], 8, [], [], [], none, none, [], [], false, none, none, [], 0⟩

/-- Bytes of a list of sized values. -/
def sizedLength (l : List (Nat × AsmValue)) : Nat := (l.map (·.1)).sum

/-- Zero bytes. -/
def zeros (n : Nat) : List (Nat × AsmValue) := List.replicate n (1, .num 0)

/-- Put a piece of a size at the end of `text`. -/
def putPiece (a : Asm) (n : Nat) (p : Piece) : Asm := { a with text := a.text ++ [(a.pos, p)], pos := a.pos + n, open_ := false }

/-- Put a value into the section in use: in `text` as bytes. -/
def putValue (a : Asm) (size : Nat) (v : AsmValue) : Asm :=
  match a.place with
  | .text => putPiece a size (.bytes size v)
  | .data => { a with data := a.data ++ [(size, v)] }
  | .rodata => { a with rodata := a.rodata ++ [(size, v)] }

/-- The offset at which the section in use goes on. -/
def placeNow (a : Asm) : Nat :=
  match a.place with
  | .text => a.pos
  | .data => sizedLength a.data
  | .rodata => sizedLength a.rodata

/-- Change the last piece of a list. -/
def modLast (f : Piece → Piece) : List (Nat × Piece) → List (Nat × Piece)
  | [] => []
  | [x] => [(x.1, f x.2)]
  | x :: r => x :: modLast f r

/-- The padding pair and word (R359). -/
def padHeader : Word := 0x1E001FE0#32
/-- NOP_FILL with its stop bit clear. -/
def padWord : Word := 0x7A000000#32

/-- The class of a clause with one more instruction (R357). -/
def joinClass (c : Option Nat) (k : Nat) : Option Nat :=
  match c with
  | none => some k
  | some x => some (if x == k then x else 7)

/-- Padding of `text`: an odd word joins the preceding clause, and pairs follow (R359). -/
def padText (a : Asm) (n : Nat) : Except AsmError Asm :=
  let gap := (n - a.pos % n) % n
  let pairs := fun (a : Asm) => (List.range (gap / 8)).foldl (fun a _ =>
    putPiece a 8 (.clause ClauseSpec.plain (some 7) false [.word padWord])) { a with open_ := false }
  if gap % 8 == 0 then .ok (pairs a)
  else match a.text.getLast? with
    | some (_, .clause _ _ control words) =>
      if gap % 4 != 0 || control || 15 ≤ words.length then .error .padding
      else .ok (pairs { a with
        pos := a.pos + 4
        text := modLast (fun p => match p with
          | .clause s c k ws => .clause s (if c = some 6 then c else some 7) k (ws ++ [.word padWord])
          | p => p) a.text })
    | _ => .error .padding

/-- The opcodes whose literal is a word offset from their clause's header: control transfers and TRY (R340, R523). -/
def takesTarget (op : Nat) : Bool := opEndsClause op || op == 0x240 || op == 0x241

/-- The words of an instruction: its own and its literal. -/
def asmWords (stop : Bool) (w : Word) (lit : Option AsmValue) : Except AsmError (List AsmWord) :=
  let op := (wordOp w).toNat
  let first := AsmWord.word (if stop then w ||| 0x80000000#32 else w)
  match opHasLiteral op, lit with
  | false, none => .ok [first]
  | true, some (.num n) => if n < 2 ^ 32 then .ok [first, .word (BitVec.ofNat 32 n)] else .error .range
  | true, some (.label l) => .ok [first, if takesTarget op then .target l else .offset l]
  | _, _ => .error .literal

/-- Begin a clause. -/
def beginClause (a : Asm) (spec : ClauseSpec) : Asm :=
  { putPiece a 4 (.clause spec none false []) with open_ := true, spec := none }

/-- A part of a split clause that is not the last does not yield (R357). -/
def endYield : Piece → Piece
  | .clause s c k w => .clause { s with yield_ := false } c k w
  | p => p

/-- The open clause takes an instruction: a full one is split, and only the last part of a split yields (R357). -/
def putInstr (a : Asm) (op : Nat) (ws : List AsmWord) : Asm :=
  let a := if a.open_ then a else beginClause a (a.spec.getD ClauseSpec.plain)
  let a := match a.text.getLast? with
    | some (_, .clause spec _ _ words) =>
      if 15 < words.length + ws.length then
        beginClause { a with text := modLast endYield a.text } { spec with wait := 0 }
      else a
    | _ => a
  { a with
    pos := a.pos + 4 * ws.length
    open_ := !(opEndsClause op)
    text := modLast (fun p => match p with
      | .clause s c _ w => .clause s (joinClass c (opClass op)) (opEndsClause op) (w ++ ws)
      | p => p) a.text }

/-- The mask of a list of registers. -/
def liveMask (l : List Nat) : BitVec 128 := l.foldl (fun m v => m ||| (1#128 <<< v)) 0#128

/-- The end of a kernel fills in the masks of its safe points that no `.live` gave (R356). -/
def fillMasks (regs : Nat) (l : List (Nat × Option (BitVec 128))) : List (Nat × Option (BitVec 128)) :=
  l.map fun p => (p.1, some (p.2.getD (liveMask (List.range regs))))

/-- Change the kernel that is open. -/
def modKernel (a : Asm) (ok : Bool) (f : AsmKernel → AsmKernel) : Except AsmError Asm :=
  match a.kernel with
  | some k => if ok then .ok { a with kernel := some (f k) } else .error .range
  | none => .error .kernel

/-- The pipe byte of the gang descriptor (R101). -/
def pipeByte (producer consumer : Nat) : Nat := producer + 4 * consumer

/-- One line of the source (R356 to R359). -/
def asmLine (a : Asm) : Source → Except AsmError Asm
  | .label n => .ok { a with labels := a.labels ++ [⟨n, a.place, placeNow a, if a.place = .text then a.pool else none⟩], open_ := false, spec := none }
  | .section_ s => .ok { a with place := s, pool := none, open_ := false }
  | .kernel n =>
    if a.place = .text && a.pos % 4 == 0 && a.kernel.isNone then
      let b := putPiece a 8 .stamp
      .ok { b with pool := none, spec := none, kernel := some ⟨n, b.pos, 1, none, 0, 0, none, []⟩ }
    else .error .kernel
  | .end_ =>
    match a.kernel with
    | some k => match k.regs with
      | some r => .ok { a with kernel := none, kernels := a.kernels ++ [k], points := fillMasks r a.points, open_ := false }
      | none => .error .kernel
    | none => .error .kernel
  | .team n => modKernel a (1 ≤ n && n ≤ 8) fun k => { k with team := n }
  | .regs n => modKernel a (1 ≤ n && n ≤ 128) fun k => { k with regs := some n }
  | .scratch n => modKernel a (n ≤ 393216) fun k => { k with scratch := (n + 4095) / 4096 }
  | .tiles n => modKernel a (n ≤ 16) fun k => { k with tiles := n }
  | .gang n i =>
    let known := a.gangs.contains n
    let no := if known then (a.gangs.takeWhile (fun g => !(g == n))).length else a.gangs.length
    (modKernel a (i ≤ 3) fun k => { k with gang := some (no, i) }).map fun b => { b with gangs := if known then a.gangs else a.gangs ++ [n] }
  | .pipe p x y => modKernel a (p ≤ 3 && x ≤ 3 && y ≤ 3) fun k => { k with pipes := k.pipes ++ [(p, pipeByte x y)] }
  | .pool =>
    if a.place = .text && a.kernel.isNone then
      (padText a 4096).map fun a => { putPiece a 8 .stamp with pool := some a.pos, spec := none }
    else .error .place
  | .clause c => if a.place = .text then .ok { a with spec := some c, open_ := false } else .error .place
  | .live l => if l.all (· < 128) then .ok { a with live := some (liveMask l) } else .error .range
  | .align n =>
    if !((List.range 11).any fun k => n == 4 * 2 ^ k) then .error .range
    else match a.place with
      | .text => padText a n
      | .data => .ok { a with data := a.data ++ zeros ((n - sizedLength a.data % n) % n) }
      | .rodata => .ok { a with rodata := a.rodata ++ zeros ((n - sizedLength a.rodata % n) % n) }
  | .value size v =>
    match v with
    | .num n => if n < 256 ^ size then .ok (putValue a size v) else .error .range
    | .label _ => .ok (putValue a size v)
  | .zero n => .ok ((List.range n).foldl (fun a _ => putValue a 1 (.num 0)) a)
  | .instr stop w lit => do
    if !(a.place = .text) || !(a.pos % 4 == 0) then throw .place
    if stop && !(a.regions == 0) then throw .stop
    if stop && a.kernel.isNone && a.pool.isNone then throw .kernel
    let op := (wordOp w).toNat
    let ws ← asmWords stop w lit
    let b := putInstr a op ws
    let mask := match a.live with
      | some m => some m
      | none => if a.pool.isSome then some (BitVec.allOnes 128) else none
    return { b with
      regions := if op == 0x240 || op == 0x241 then b.regions + 1 else if op == 0x242 || op == 0x243 then b.regions - 1 else b.regions
      points := if stop then b.points ++ [(b.pos - 4 * ws.length, mask)] else b.points
      live := if stop then none else b.live }

/-! ## The object (R360 to R363) -/

/-- The offset of the code section from the object base. -/
def codeOffset : Nat := 4096

/-- Round up to a multiple. -/
def roundTo (n m : Nat) : Nat := (n + m - 1) / m * m

/-- Where the parts of an object lie: the safe-point table, the kernel table, `rodata` and its kernel names, `data`. -/
structure Layout where
  points : Nat
  kernels : Nat
  rodata : Nat
  names : Nat
  data : Nat
  deriving DecidableEq, Repr

/-- The parts follow one another (log entry 112). -/
def layout (a : Asm) : Layout :=
  let points := roundTo (codeOffset + a.pos) 8
  let kernels := points + 24 * a.points.length
  let rodata := roundTo (kernels + 64 * a.kernels.length) 4096
  let names := rodata + sizedLength a.rodata
  ⟨points, kernels, rodata, names, roundTo (names + (a.kernels.map fun k => k.name.length + 1).sum) 4096⟩

/-- The value of a label: a pool label's from its pool's base, any other's from the object base (R523). -/
def labelOffset (a : Asm) (name : String) : Except AsmError Nat :=
  match a.labels.find? fun l => l.name == name with
  | none => .error .label
  | some l =>
    let base := match l.place with
      | .text => codeOffset
      | .data => (layout a).data
      | .rodata => (layout a).rodata
    .ok (match l.pool with
      | some p => l.at_ - p
      | none => base + l.at_)

/-- The bytes of a value; an error when it does not fit (R523). -/
def valueBytes (a : Asm) (size : Nat) : AsmValue → Except AsmError (List Byte)
  | .num n => .ok (leBytes size n)
  | .label l => do
    let n ← labelOffset a l
    if n < 256 ^ size then return leBytes size n else throw .range

/-- The bytes of sized values. -/
def sizedBytes (a : Asm) : List (Nat × AsmValue) → Except AsmError (List Byte)
  | [] => .ok []
  | v :: r => do
    let x ← valueBytes a v.1 v.2
    let y ← sizedBytes a r
    return x ++ y

/-- The bytes of a word of the clause whose header lies at `header`: a target counts words from there (R340, R523). -/
def wordBytes (a : Asm) (header : Nat) : AsmWord → Except AsmError (List Byte)
  | .word w => .ok (leBytes 4 w.toNat)
  | .target l =>
    match a.labels.find? fun x => x.name == l && x.place = .text with
    | some x => .ok (leBytes 4 (BitVec.ofInt 32 (((x.at_ : Int) - (header : Int)) / 4)).toNat)
    | none => .error .label
  | .offset l => do
    let n ← labelOffset a l
    if n < 2 ^ 31 then return leBytes 4 n else throw .range

/-- The bytes of a clause's words. -/
def clauseBytes (a : Asm) (header : Nat) : List AsmWord → Except AsmError (List Byte)
  | [] => .ok []
  | w :: r => do
    let x ← wordBytes a header w
    let y ← clauseBytes a header r
    return x ++ y

/-- A clause header (R333, R357). -/
def headerWord (spec : ClauseSpec) (cls count : Nat) : Word :=
  BitVec.ofNat 4 count ++ BitVec.ofNat 3 cls ++ spec.wait ++ spec.setA ++ spec.setB ++ BitVec.ofBool spec.yield_ ++ 0#4

/-- The magic of a stamp and of an object. -/
def stampMagic : Nat := 0x4B454E54
/-- The magic of a code object's header. -/
def objectMagic : Nat := 0x4E52434F

/-- The bytes of a piece of `text`. -/
def pieceBytes (a : Asm) (x : Nat × Piece) : Except AsmError (List Byte) :=
  match x.2 with
  | .stamp => .ok (leBytes 4 stampMagic ++ leBytes 4 (codeOffset + x.1))
  | .bytes size v => valueBytes a size v
  | .clause spec cls _ words => do
    let b ← clauseBytes a x.1 words
    return leBytes 4 (headerWord spec (cls.getD 7) words.length).toNat ++ b

/-- The bytes of the code section. -/
def textBytes (a : Asm) : List (Nat × Piece) → Except AsmError (List Byte)
  | [] => .ok []
  | p :: r => do
    let x ← pieceBytes a p
    let y ← textBytes a r
    return x ++ y

/-- The 24 bytes of a safe point (R362). -/
def pointBytes (p : Nat × Option (BitVec 128)) : List Byte :=
  leBytes 4 p.1 ++ leBytes 4 0 ++ leBytes 16 (p.2.getD (BitVec.allOnes 128)).toNat

/-- The 64 bytes of a kernel (R363). -/
def kernelBytes (k : AsmKernel) (name : Nat) : List Byte :=
  leBytes 8 (codeOffset + k.code) ++ leBytes 1 k.team ++ leBytes 1 ((k.regs.getD 0 + 7) / 8) ++ leBytes 2 k.scratch ++ leBytes 1 k.tiles ++
  leBytes 1 ((k.gang.map (·.2)).getD 0xFF) ++ leBytes 2 ((k.gang.map (·.1)).getD 0xFFFF) ++
  ((List.range 4).flatMap fun p => leBytes 1 (((k.pipes.find? fun x => x.1 == p).map (·.2)).getD 0)) ++ leBytes 4 name ++ leBytes 40 0

/-- The kernel table, with the place of the first name. -/
def kernelTable : List AsmKernel → Nat → List Byte
  | [], _ => []
  | k :: r, name => kernelBytes k name ++ kernelTable r (name + k.name.length + 1)

/-- Bytes up to a length. -/
def padTo (n : Nat) (b : List Byte) : List Byte := b ++ List.replicate (n - b.length) 0#8

/-- The 64 bytes of the object header (R360). -/
def objectHeader (a : Asm) (l : Layout) : List Byte :=
  leBytes 4 objectMagic ++ leBytes 2 1 ++ leBytes 2 64 ++ leBytes 8 codeOffset ++ leBytes 4 a.pos ++ leBytes 4 a.points.length ++
  leBytes 8 l.points ++ leBytes 8 l.kernels ++ leBytes 4 a.kernels.length ++ leBytes 4 0 ++ leBytes 8 0 ++ leBytes 8 0

/-- The code object of an assembled source. -/
def objectBytes (a : Asm) : Except AsmError (List Byte) := do
  let l := layout a
  if a.kernel.isSome then throw .kernel
  let text ← textBytes a a.text
  let rodata ← sizedBytes a a.rodata
  let data ← sizedBytes a a.data
  let head := padTo l.points (padTo codeOffset (objectHeader a l) ++ text)
  let tables := padTo l.rodata (head ++ a.points.flatMap pointBytes ++ kernelTable a.kernels l.names)
  return padTo l.data (tables ++ rodata ++ a.kernels.flatMap fun k => k.name ++ [0#8]) ++ data

/-- Assemble the lines of a source. -/
def asmLines : Asm → List Source → Except AsmError Asm
  | a, [] => .ok a
  | a, x :: r => match asmLine a x with
    | .ok b => asmLines b r
    | .error e => .error e

/-- reric-as: the code object of a source, or the error it reports. -/
def assemble (src : List Source) : Except AsmError (List Byte) :=
  match asmLines Asm.start src with
  | .ok a => objectBytes a
  | .error e => .error e

/-! ## The debug tables (R364) -/

/-- A field of an object's bytes. -/
def objectField (b : List Byte) (o n : Nat) : Nat := leNat ((b.drop o).take n)

/-- The 16-byte entries of a debug table: 0 for the unwind table, 1 for the line table; none in an object without debug tables. -/
def debugEntries (b : List Byte) (table : Nat) : List (List Byte) :=
  let d := objectField b 48 8
  if d == 0 then [] else
    let o := objectField b (d + 8 * table) 8
    (List.range (objectField b o 4)).map fun k => (b.drop (o + 4 + 16 * k)).take 16

/-- The unwind entry that covers an instruction offset: the register of the return-address pair, and the frame size in scratchpad bytes. -/
def unwindEntryOf (b : List Byte) (off : Nat) : Option (Nat × Nat) :=
  ((debugEntries b 0).find? fun e => objectField e 0 4 ≤ off && off ≤ objectField e 4 4).map fun e => (objectField e 8 2, objectField e 10 2)

/-- The line, file and column of an instruction offset. -/
def sourceLineOf (b : List Byte) (off : Nat) : Option (Nat × Nat × Nat) :=
  ((debugEntries b 1).find? fun e => objectField e 0 4 == off).map fun e => (objectField e 4 4, objectField e 8 2, objectField e 10 2)

end Sys2Proof.Machine
end

