-- ==== Sys2Proof/Machine/Pool.lean ====
section
/-! DEFINITION.  Continuation pools (R118 to R125): binning, the overflow ring, its faults, and the end of a pool launch by POOL_OVERFLOW; the
steps POOL_RECORD_DELIVER, BIN_AGE_EXPIRY, OVERFLOW_RING_RETURN and POOL_OVERFLOW_EXPIRY. -/

namespace Sys2Proof.Machine

/-- A pool's part on a die at rest. -/
def PoolDie.empty : PoolDie := ⟨[], 0, 0, [], none, []⟩

/-- A free bin. -/
def Bin.free : Bin := ⟨0, 0, 0, [], 0⟩

/-- The pool's part on a die. -/
def poolDie (p : Pool) (die : Nat) : PoolDie := look PoolDie.empty p.dies die

/-- Change a launch's pool. -/
def modPool (s : State) (id : Nat) (f : Pool → Pool) : State := modLaunch s id fun l => { l with pool := l.pool.map f }

/-- Change a pool's part on a die. -/
def modPoolDie (s : State) (id die : Nat) (f : PoolDie → PoolDie) : State :=
  modPool s id fun p => { p with dies := place p.dies die (f (poolDie p die)) }

/-- Records in the bins of a pool on a die. -/
def binned (p : PoolDie) : Nat := (p.bins.map fun b => b.2.records.length).sum

/-- Records on chip in a die's front end, all pools together (R119). -/
def onChip (s : State) (die : Nat) : Nat :=
  (s.launches.map fun l => match l.2.pool with
    | some p => if (queueOf s l.2.fn l.2.q).saved then 0 else binned (poolDie p die)
    | none => 0).sum

/-- A launch shares its work between two dies (R81, R123). -/
def sharedDies (s : State) (l : Launch) : Bool := l.die == 3 && dieCount s == 2

/-- The records a die's part of the overflow ring holds, and its first byte (R123). -/
def ringPart (s : State) (l : Launch) (p : Pool) (die : Nat) : Nat × Nat :=
  if sharedDies s l then (p.ringSize / 2, p.ring + 64 * (if die == 1 then p.ringSize / 2 else 0)) else (p.ringSize, p.ring)

/-- The offset of the first byte of a record that must be zero and is not (R118). -/
def badRecordByte (r : List Byte) : Option Nat :=
  if !(natAt r 0 1 % 4 == 0) then some 0 else (List.range 10).findSome? fun k => if natAt r (6 + k) 1 == 0 then none else some (6 + k)
where
  natAt (b : List Byte) (o n : Nat) : Nat := leNat ((b.drop o).take n)

/-- Code offset and key of a record. -/
def recordPair (r : List Byte) : Nat × Nat := (leNat (r.take 4), leNat ((r.drop 4).take 2))

/-- The bin a record goes to: the FILLING bin of its pair, else the lowest FREE one of the pool's 64, while the chip has room (R120, R121). -/
def binFor (s : State) (p : PoolDie) (die : Nat) (r : List Byte) : Option Nat :=
  if 4096 ≤ onChip s die then none else
    match p.bins.find? fun b => b.2.state == 1 && (b.2.code, b.2.key) == recordPair r with
    | some b => some b.1
    | none => (List.range 64).find? fun n => (look Bin.free p.bins n).state == 0

/-- Put a record into a bin: a FREE bin opens and starts its timer, and a bin of 32 records is READY (R120). -/
def addToBin (s : State) (id die n : Nat) (age : Nat) (r : List Byte) : State :=
  let b := match launchOf s id with
    | some l => match l.pool with | some p => look Bin.free (poolDie p die).bins n | none => Bin.free
    | none => Bin.free
  let opened := b.state == 0
  let b1 : Bin := if opened then ⟨1, (recordPair r).1, (recordPair r).2, [r], now s⟩ else { b with records := b.records ++ [r] }
  let full := 32 ≤ b1.records.length
  let b2 := if full then { b1 with state := 2, since := now s } else b1
  let s1 := modPoolDie s id die fun p => { p with bins := place p.bins n b2 }
  let s2 := if opened && !full then later s1 age .binAgeExpiry { n0 := die, n1 := id, n2 := n } else s1
  if full then dueOnce s2 .placementPass { n0 := die } else s2

/-- How the delivery of a record ends: it is on chip, in the ring or discarded; it waits for a line; or there is no room. -/
inductive Delivered where
  | taken (s : State)
  | wait (s : State)
  | stalled (s : State)

/-- Write a record to the overflow ring of a die, if it has room (R121, R123, R124).  An unmapped page raises a fault of the pool front end. -/
def toRing (s : State) (id die : Nat) (l : Launch) (p : Pool) (r : List Byte) : Delivered :=
  let d := poolDie p die
  let (size, base) := ringPart s l p die
  if size ≤ d.ringTail - d.ringHead || !d.faults.isEmpty then .stalled s else
    match writeAs s (poolAgent die) (128 * die) l.asid l.fn (base + 64 * (d.ringTail % size)) r l.supervisor with
    | .done s1 => .taken (modPoolDie s1 id die fun p => { p with ringTail := p.ringTail + 1 })
    | .wait s1 => .wait s1
    | .fault a b =>
      let (f, s1, ring) := raiseFault s l.fn l.q l.asid (base + 64 * (d.ringTail % size)) a b .write 5 (some id)
      let s2 := modPoolDie s1 id die fun p => { p with faults := p.faults ++ [f] }
      if ring then .stalled s2 else .taken (abortFault s2 l.fn f)
    | _ => .wait s

/-- POOL_RECORD_DELIVER: a continuation record reaches the front end of a die: it is binned, or it goes to the overflow ring, or its producer
stalls (R118 to R121, R124).  After POOL_OVERFLOW it is discarded and counted (R125). -/
def deliverRecord (s : State) (die id : Nat) (r : List Byte) : Delivered :=
  match launchOf s id with
  | none => .taken s
  | some l =>
    match l.pool with
    | none => .taken s
    | some p =>
      if p.overflowed then .taken (modPool s id fun p => { p with lost := p.lost + 1 })
      else
        match badRecordByte r with
        | some k => .taken (modPool s id fun p => { p with lost := p.lost + 1, badByte := some (p.badByte.getD k) })
        | none =>
          match binFor s (poolDie p die) die r with
          | some n => .taken (addToBin s id die n p.age r)
          | none => toRing s id die l p r

/-- A producer stalls for want of room: the span without ring space begins, unless a ring page is being mapped (R124). -/
def noteStall (s : State) (id die key : Nat) : State :=
  match (launchOf s id).bind (·.pool) with
  | none => s
  | some p =>
    let d := poolDie p die
    let s1 := modPoolDie s id die fun d => { d with stalled := if d.stalled.contains key then d.stalled else d.stalled ++ [key] }
    if d.fullSince.isSome || !d.faults.isEmpty then s1
    else later (modPoolDie s1 id die fun d => { d with fullSince := some (now s) }) (1000 * p.limit + 1) .poolOverflowExpiry { n0 := id, n1 := die }

/-- A producer that stalled has gone on; the span ends with the last of them. -/
def endStall (s : State) (id die key : Nat) : State :=
  match (launchOf s id).bind (·.pool) with
  | none => s
  | some p =>
    let d := poolDie p die
    if !(d.stalled.contains key) then s else
      let left := d.stalled.filter fun k => !(k == key)
      modPoolDie s id die fun d => { d with stalled := left, fullSince := if left.isEmpty then none else d.fullSince }

/-- Every unit of a launch's shares has been placed. -/
def allPlaced (l : Launch) : Bool := l.kind = .pool || l.units.all fun u => l.count ≤ u.2

/-- Steps that still have a record of a pool to deliver. -/
def pendingRecords (s : State) (id : Nat) : Bool := s.agenda.any fun d => d.step = .poolRecordDeliver && d.args.n1 == id

/-- A launch has nothing left: its units are placed, its teams retired, its children complete, and its pool empty (R82, R99, R125); of one that has
been ended, the stores that its groups had buffered are performed (R231). -/
def launchIdle (s : State) (id : Nat) (l : Launch) : Bool :=
  if l.doomed.isSome then !(orphansOn s l.cores) else
  l.teams.isEmpty && !(contextAway s l) && !(s.launches.any fun x => x.2.parent == some id) &&
  (match l.pool with
   | none => allPlaced l
   | some p => p.overflowed || (!(pendingRecords s id) && p.dies.all fun d => binned d.2 == 0 && d.2.ringHead == d.2.ringTail && d.2.stalled.isEmpty))

/-- Let a launch complete if it has nothing left. -/
def checkLaunch (s : State) (id : Nat) : State :=
  match launchOf s id with
  | some l => if launchIdle s id l then dueOnce s .launchComplete { n0 := id } else s
  | none => s

/-- A record that has left a producer: lane `n3 % 32` of the unfinished EMIT `n2` of a slot, `n3 / 32` being 16 times the core and the slot. -/
def emitDone (s : State) (a : StepArgs) : State :=
  if a.n2 == 0 || a.flag then s else modGroup s (a.n3 / 512) (a.n3 / 32 % 16) fun g => finishLanes g a.n2 (oneLane (a.n3 % 32)) true

/-- The key of the producer of a record. -/
def producerKey (a : StepArgs) : Nat := a.n2 * 2 ^ 40 + a.n3

/-- The release at die scope that EMIT makes has waited, and the EMIT is still to be done (R487). -/
def emitReady (s : State) (a : StepArgs) : Option Bool :=
  if a.n2 == 0 then some true else
    match (groupOf s (a.n3 / 512) (a.n3 / 32 % 16)).bind fun g => opOf g a.n2 with
    | none => none
    | some o => if !(o.todo.getLsbD (a.n3 % 32)) then none else some (releaseReady s (a.n3 / 512) (a.n3 / 32 % 16) (a.n3 % 32) 2 a.n2)

/-- POOL_RECORD_DELIVER: the record in `bytes` reaches the front end of die `n0` for the pool of launch `n1` (R118 to R125, R487).  `n2` and
`n3` name the EMIT and the lane that produced it; `n2` is 0 for an initial record. -/
def execPoolRecordDeliver (s : State) : Out :=
  let a := s.args
  match emitReady s a with
  | some true =>
    if (match launchOf s a.n1 with | some l => contextAway s l | none => false) then .next (due s .poolRecordDeliver a) else
    match deliverRecord s a.n0 a.n1 a.bytes with
    | .taken s1 => .next (checkLaunch (emitDone (endStall s1 a.n1 a.n0 (producerKey a)) a) a.n1)
    | .wait s1 => .next (due s1 .poolRecordDeliver a)
    | .stalled s1 => .next (due (noteStall s1 a.n1 a.n0 (producerKey a)) .poolRecordDeliver a)
  | none => .next (endStall s a.n1 a.n0 (producerKey a))
  | some false => .next (due s .poolRecordDeliver a)

/-- BIN_AGE_EXPIRY: the age timer of bin `n2` of launch `n1` on die `n0` has run out: a FILLING bin opened that long ago is READY (R120). -/
def execBinAgeExpiry (s : State) : Out :=
  let a := s.args
  match (launchOf s a.n1).bind (·.pool) with
  | none => .next s
  | some p =>
    let b := look Bin.free (poolDie p a.n0).bins a.n2
    if !(b.state == 1) || now s < b.since + p.age then .next s else
      .next (dueOnce (modPoolDie s a.n1 a.n0 fun d => { d with bins := place d.bins a.n2 { b with state := 2, since := now s } }) .placementPass { n0 := a.n0 })

/-- OVERFLOW_RING_RETURN: the oldest record in the overflow ring of launch `n1` on die `n0` returns and is binned, if it finds a bin (R121). -/
def execOverflowRingReturn (s : State) : Out :=
  let die := s.args.n0
  let id := s.args.n1
  match launchOf s id with
  | none => .next s
  | some l =>
    match l.pool with
    | none => .next s
    | some p =>
      let d := poolDie p die
      let (size, base) := ringPart s l p die
      if d.ringHead == d.ringTail || !d.faults.isEmpty || p.overflowed then .next s
      else if contextAway s l then .next (due s .overflowRingReturn s.args)
      else
        let va := base + 64 * (d.ringHead % size)
        let next := fun (s : State) =>
          due (modPoolDie s id die fun d => { d with ringHead := d.ringHead + 1, fullSince := none }) .overflowRingReturn s.args
        match readAs s (poolAgent die) (128 * die) l.asid l.fn va 64 .read l.supervisor with
        | .wait s1 => .next (due s1 .overflowRingReturn s.args)
        | .fault x y =>
          let (f, s1, ring) := raiseFault s l.fn l.q l.asid va x y .read 5 (some id)
          let s2 := modPoolDie s1 id die fun d => { d with faults := d.faults ++ [f], fullSince := none }
          .next (if ring then s2 else abortFault s2 l.fn f)
        | .bytes r s1 =>
          match badRecordByte r with
          | some k => .next (checkLaunch (next (modPool s1 id fun p => { p with lost := p.lost + 1, badByte := some (p.badByte.getD k) })) id)
          | none =>
            match binFor s1 d die r with
            | some n => .next (next (addToBin s1 id die n p.age r))
            | none => .next s1
        | _ => .next (checkLaunch (next (modPool s id fun p => { p with lost := p.lost + 1 })) id)

/-- The lanes of an EMIT that have stalled. -/
def stalledLanes (d : PoolDie) (cid slot op : Nat) : Lanes :=
  laneSet ((List.range 32).filter fun t => d.stalled.contains (op * 2 ^ 40 + (16 * cid + slot) * 32 + t))

/-- A pool launch ends with POOL_OVERFLOW: what it holds is discarded and counted, each group stalled in EMIT traps there, and a ray that
waits with a record is done (R124, R125). -/
def overflowPool (s : State) (id : Nat) : State :=
  match launchOf s id with
  | none => s
  | some l =>
    match l.pool with
    | none => s
    | some p =>
      let initial := s.agenda.filter fun d => d.step = .poolRecordDeliver && d.args.n1 == id && d.args.n2 == 0
      let held := (p.dies.map fun d => binned d.2 + (d.2.ringTail - d.2.ringHead)).sum + initial.length
      let s1 := modPool { s with agenda := s.agenda.filter fun d => !(d.step = .poolRecordDeliver && d.args.n1 == id && d.args.n2 == 0) } id
        fun p => { p with overflowed := true, lost := p.lost + held, dies := p.dies.map fun d => (d.1, { d.2 with bins := [], ringHead := d.2.ringTail, fullSince := none }) }
      let s2 := (diesHere s1).foldl (fun s d => dueOnce (ringsReturn s d) .placementPass { n0 := d }) (dropRecords s1 fun e => !e.2 && e.1 == id)
      let stuck := l.teams.filterMap fun t => (teamOf s2 t).map fun tm => (tm.cid, tm.slots.headD 0)
      let s3 := stuck.foldl (fun s q =>
        match groupOf s q.1 q.2 with
        | none => s
        | some g =>
          let d := poolDie p (q.1 / 128)
          let stuck := g.ops.filter fun o => match o.instr with | .emit .. => !(o.todo &&& stalledLanes d q.1 q.2 o.id = 0#32) | _ => false
          let e := stuck.foldl (fun e o => e ||| (o.todo &&& stalledLanes d q.1 q.2 o.id)) 0#32
          if stuck.isEmpty then s else
            let n := (stuck.map fun o => (lanesOf o.todo).length).sum
            due (stopGroup (modPool s id fun p => { p with lost := p.lost + n }) q.1 q.2 { trapStop 0x0C 0 0 0 e with drops := stuck.map (·.seq) })
              .trapResolution { n0 := q.1, n1 := q.2 }) s2
      checkLaunch (modPool s3 id fun p => { p with dies := p.dies.map fun d => (d.1, { d.2 with stalled := [] }) }) id

/-- POOL_OVERFLOW_EXPIRY: the ring of launch `n0` on die `n1` has had no free space for longer than the overflow limit (R124). -/
def execPoolOverflowExpiry (s : State) : Out :=
  match (launchOf s s.args.n0).bind (·.pool) with
  | none => .next s
  | some p =>
    match (poolDie p s.args.n1).fullSince with
    | some t => if 1000 * p.limit < now s - t then .next (overflowPool s s.args.n0) else .next s
    | none => .next s

end Sys2Proof.Machine
end

