-- ==== Sys2Proof/Machine/Rays.lean ====
section
/-! DEFINITION.  TRACE and TRACE.EMIT (R480 to R483), the traversal of a ray (R278, R282, R286 to R289), and the steps NODE_VISIT,
FENCE_RECHECK and FENCE_POLL. -/

namespace Sys2Proof.Machine

/-! ## Exact geometry (R278, R481)

Coordinates are multiples of 2^-149; a distance is a fraction with a positive denominator. -/

/-- A fraction with a positive denominator. -/
def fracOf (n d : Int) : Int × Int := if d < 0 then (-n, -d) else (n, d)

/-- x ≤ y for fractions. -/
def fracLe (x y : Int × Int) : Bool := x.1 * y.2 ≤ y.1 * x.2

/-- A coordinate of a ray: origin of an axis. -/
def rayOrigin (ray : List Word) (a : Nat) : Int := fixed (nth 0#32 ray a)

/-- A coordinate of a ray's direction. -/
def rayDir (ray : List Word) (a : Nat) : Int := fixed (nth 0#32 ray (4 + a))

/-- tmin or tmax as a fraction; none when it bounds nothing. -/
def rayBound (w : Word) : Option (Int × Int) := if finite32 w then some (fixed w, 2 ^ 149) else none

/-- A ray that hits nothing (R481): a NaN operand, an infinite origin or direction, or tmin above tmax. -/
def hitsNothing (ray : List Word) : Bool :=
  let w := fun (k : Nat) => f32 (nth 0#32 ray k)
  ((List.range 8).any fun k => w k = .nan) || ([0, 1, 2, 4, 5, 6].any fun k => match w k with | .inf _ => true | _ => false) ||
  (match w 3, w 7 with
   | .inf neg, .inf neg' => !neg && neg'
   | .inf neg, _ => !neg
   | _, .inf neg => neg
   | _, _ => !(fixed (nth 0#32 ray 3) ≤ fixed (nth 0#32 ray 7)))

/-- The greater of a lower bound and a fraction; the lesser of an upper bound and a fraction. -/
def boundBy (upper : Bool) (b : Option (Int × Int)) (x : Option (Int × Int)) : Option (Int × Int) :=
  match b, x with
  | none, x => x
  | b, none => b
  | some p, some q => if upper then (if fracLe p q then some p else some q) else (if fracLe p q then some q else some p)

/-- The exact segment of a ray meets a box: where it enters, or none when it does not meet it (R278). -/
def meetBox (ray : List Word) (box : Box) : Option (Option (Int × Int)) :=
  let side := fun (w : Word) => if finite32 w then some (fixed w) else none
  let step := fun (p : Bool × Option (Int × Int) × Option (Int × Int)) (a : Nat) =>
    let o := rayOrigin ray a
    let d := rayDir ray a
    let lo := side (box.lo a)
    let hi := side (box.hi a)
    if d == 0 then (p.1 && (match lo with | some l => l ≤ o | none => true) && (match hi with | some h => o ≤ h | none => true), p.2)
    else
      let at_ := fun (x : Option Int) => x.map fun v => fracOf (v - o) d
      let near := if d < 0 then at_ hi else at_ lo
      let far := if d < 0 then at_ lo else at_ hi
      (p.1, boundBy false p.2.1 near, boundBy true p.2.2 far)
  let r := (List.range 3).foldl step (true, rayBound (nth 0#32 ray 3), rayBound (nth 0#32 ray 7))
  let ordered := match r.2.1, r.2.2 with | some x, some y => fracLe x y | _, _ => true
  if r.1 && ordered then some r.2.1 else none

/-- A vector. -/
abbrev Vec := Int × Int × Int

/-- The cross product. -/
def cross (a b : Vec) : Vec := (a.2.1 * b.2.2 - a.2.2 * b.2.1, a.2.2 * b.1 - a.1 * b.2.2, a.1 * b.2.1 - a.2.1 * b.1)

/-- The dot product. -/
def dot (a b : Vec) : Int := a.1 * b.1 + a.2.1 * b.2.1 + a.2.2 * b.2.2

/-- The difference. -/
def minus (a b : Vec) : Vec := (a.1 - b.1, a.2.1 - b.2.1, a.2.2 - b.2.2)

/-- Where a ray hits a triangle, and whether it hits the front (R481). -/
def hitTriangle (ray : List Word) (p0 p1 p2 : Vec) : Option ((Int × Int) × Bool) :=
  let o : Vec := (rayOrigin ray 0, rayOrigin ray 1, rayOrigin ray 2)
  let dir : Vec := (rayDir ray 0, rayDir ray 1, rayDir ray 2)
  let e1 := minus p1 p0
  let e2 := minus p2 p0
  let s := minus o p0
  let pv := cross dir e2
  let det := dot e1 pv
  if det == 0 then none else
    let q := cross s e1
    let u := fracOf (dot s pv) det
    let v := fracOf (dot dir q) det
    let t := fracOf (dot e2 q) det
    let inside := 0 ≤ u.1 && 0 ≤ v.1 && u.1 + v.1 ≤ u.2
    let above := match rayBound (nth 0#32 ray 3) with | some b => fracLe b t | none => true
    let below := match rayBound (nth 0#32 ray 7) with | some b => fracLe t b | none => true
    -- D of R481 is -det: front when D < 0
    if inside && above && below then some (t, decide (0 < det)) else none

/-- One hit comes before another: least distance, then cluster, then triangle (R481). -/
def closer (a b : Hit) : Bool :=
  let x := a.num * b.den
  let y := b.num * a.den
  x < y || (x == y && (a.cluster < b.cluster || (a.cluster == b.cluster && a.tri < b.tri)))

/-- The better of two hits. -/
def bestHit (a : Option Hit) (b : Hit) : Option Hit :=
  match a with
  | none => some b
  | some h => if closer b h then some b else some h

/-- A vertex of a cluster record, if it is finite. -/
def vertexOf (rec : List Byte) (i : Nat) : Option Vec :=
  let w := fun (k : Nat) => wordAt rec (64 + 12 * i + 4 * k)
  if finite32 (w 0) && finite32 (w 1) && finite32 (w 2) then some (fixed (w 0), fixed (w 1), fixed (w 2)) else none

/-- The hits of a ray in a cluster record (R263, R481). -/
def hitCluster (ray : List Word) (rec : List Byte) (cluster : Nat) (best : Option Hit) : Option Hit :=
  let v := natAt rec 24 1
  let t := natAt rec 25 1
  (List.range t).foldl (fun best k =>
    let ix := fun (j : Nat) => natAt rec (64 + 12 * v + 3 * k + j) 1
    let p := fun (j : Nat) => if ix j < v then vertexOf rec (ix j) else none
    match p 0, p 1, p 2 with
    | some a, some b, some c =>
      match hitTriangle ray a b c with
      | some (d, front) => bestHit best ⟨d.1, d.2, cluster, k, front, wordAt rec 28, wordAt rec 32⟩
      | none => best
    | _, _, _ => best) best

/-- A fraction rounded to FP32 with RNE (R482). -/
def frac32 (n d : Int) : Word :=
  let k := 80 + Nat.log2 d.toNat
  let m := n.natAbs * 2 ^ k
  BitVec.ofNat 32 (roundMag fp32 .rne false (decide (n < 0)) (m / d.toNat) (-(k : Int)) (!(m % d.toNat == 0)))

/-- The four words of a hit record (R482); `status` is 0 for a ray without an error. -/
def hitWords (best : Option Hit) (status : Nat) : List Word :=
  if !(status == 0) then [BitVec.ofNat 32 fp32.nan, 0x03000000#32, 0#32, BitVec.ofNat 32 status] else
    match best with
    | none => [0x7F800000#32, 0#32, 0#32, 0#32]
    | some h => [if h.num == 0 then 0#32 else frac32 h.num h.den,
        BitVec.ofNat 32 (h.tri % 64 * 2 ^ 26 + (if h.front then 1 else 2) * 2 ^ 24 + h.cluster), h.material + BitVec.ofNat 32 h.tri, h.geometry]

/-! ## Rays in a traversal unit -/

/-- Whose command a ray is. -/
def Ray.who (r : Ray) : Who := ⟨r.cid, r.slot, oneLane r.lane, r.op, r.asid, r.fn, r.supervisor, rayAgent (pierNo r.cid), r.cid⟩

/-- Change a ray of a pier. -/
def setRay (s : State) (p : Nat) (r : Ray) : State :=
  modPier s p fun x => { x with rays := x.rays.map fun y => if y.id == r.id then r else y }

/-- A ray of a pier. -/
def rayOf (s : State) (p id : Nat) : Option Ray := (pierOf s p).rays.find? fun r => r.id == id

/-- The next visit of a ray. -/
def dueRay (s : State) (p id : Nat) : State := dueOnce s .nodeVisit { n0 := p, n1 := id }

/-- A ray gives back the tokens of the fence lines it watched, unless another ray of its unit watches them too (R286). -/
def unwatch (s : State) (p : Nat) (r : Ray) : State :=
  let others := ((pierOf s p).rays.filter fun y => !(y.id == r.id)).flatMap (·.watch)
  (r.watch.filter fun l => !(others.contains l)).foldl (fun s l => sendAll s (rayAgent p) l (homeAgent s l)) (setRay s p { r with watch := [] })

/-- A ray is gone: it leaves the unit and the count (R289). -/
def dropRay (s : State) (p : Nat) (r : Ray) : State :=
  let s1 := unwatch s p r
  uncountRay (modPier s1 p fun x => { x with rays := x.rays.filter fun y => !(y.id == r.id) }) r

/-- The key of a ray as the producer of a record. -/
def rayKeyOf (r : Ray) : Nat := r.id * 2 ^ 40 + 2 ^ 39

/-- The continuation record of a finished ray (R483). -/
def rayRecord (r : Ray) (hit : List Word) : List Byte :=
  let w := fun (k : Nat) => (nth 0#32 r.payload k).toNat
  leBytes 4 (w 0) ++ leBytes 2 (w 1) ++ leBytes 10 0 ++ (hit.flatMap fun x => leBytes 4 x.toNat) ++
  ((List.range 8).flatMap fun k => leBytes 4 (w (2 + k)))

/-- RAY_COMPLETE: a finished ray writes its hit record, or sends its continuation record; while that finds no room the ray stalls
(R482, R483, R124). -/
def completeRay (s : State) (p : Nat) (r : Ray) (hit : List Word) : State :=
  let lane := fun (s : State) (rs : List (Nat × Reg)) =>
    modGroup s r.cid r.slot fun g => finishLanes (writeResult g r.lane rs) r.op (oneLane r.lane) true
  if r.emit then
    let die := r.cid / 128
    match deliverRecord s die r.launch (rayRecord r hit) with
    | .taken s1 => checkLaunch (lane (dropRay (endStall s1 r.launch die (rayKeyOf r)) p r) []) r.launch
    | .wait s1 => dueRay (setRay s1 p { r with result := some hit }) p r.id
    | .stalled s1 => dueRay (noteStall (setRay s1 p { r with result := some hit }) r.launch die (rayKeyOf r)) p r.id
  else
    let d := match (groupOf s r.cid r.slot).bind fun g => opOf g r.op with
      | some o => match o.instr with | .trace _ d _ _ _ => d.toNat | _ => 0
      | none => 0
    let regs := ((List.range 4).zip hit).map fun k => (d + k.1, (⟨k.2, if k.1 == 0 then 1#4 else 12#4⟩ : Reg))
    lane (dropRay s p r) regs

/-- A page fault holds a ray, and raises a fault with agent 2 (R156, R158). -/
def faultRay (s : State) (p : Nat) (r : Ray) (va sub lvl : Nat) : State :=
  let (f, s1, ring) := raiseFault s r.fn r.q r.asid va sub lvl .read 2 (some r.launch)
  let s2 := setRay s1 p { r with faults := r.faults ++ [f] }
  if ring then s2 else abortFault s2 r.fn f

/-- What a read for a ray leads to when it gives no bytes: the visit is made again, is held, or ends the ray with MEMORY_ERROR (R482). -/
def rayStop (s : State) (p : Nat) (r : Ray) (x : Fetch × Nat) : State :=
  match x.1 with
  | .bytes _ s1 => dueRay s1 p r.id
  | .wait s1 => dueRay s1 p r.id
  | .fault a b => faultRay s p r x.2 a b
  | _ => completeRay s p r (hitWords none 5)

/-- The state of a fence for a generation (R235, R284): 0 unsignalled, 1 signalled, 2 failed. -/
def fenceState (b : List Byte) (generation : Nat) : Nat :=
  let v := leNat b
  if !(v % 2 ^ 32 == generation) then 0 else if v.testBit 63 then 1 else if v.testBit 62 then 2 else 0

/-- Acceptance of a ray: it takes the generation of its slot and is counted; without a count entry it waits (R288, R289). -/
def acceptRay (s : State) (p : Nat) (r : Ray) : State :=
  match readSpan s r.who 4 r.desc 192 with
  | (.bytes d s1, _) =>
    let f := fun (o n : Nat) => natAt d (64 + 64 * r.target + o) n
    let state := f 36 1
    if !(state == 1 || state == 2) then completeRay s1 p r (hitWords none 1)
    else
      let r1 := { r with accepted := true, pool := f 0 8, fenceBase := f 16 8, generation := f 24 4, clusters := natAt d 28 4, clusterList := natAt d 32 8,
                         work := [.fenced 0 (f 0 8) none], place := descriptorPlace s1 r.cid r.asid r.fn r.desc r.supervisor }
      let key := rayKey r1
      if (find? s1.rayCounts key).isNone && 256 ≤ s1.rayCounts.length then dueRay s1 p r.id
      else
        let s2 := setRay { s1 with rayCounts := place s1.rayCounts key (look 0 s1.rayCounts key + 1) } p r1
        if hitsNothing r.ray then completeRay s2 p r1 (hitWords none 0) else dueRay s2 p r.id
  | x => rayStop s p r x

/-- The box entry of a deferred child lies beyond the closest hit (R286). -/
def beyond (best : Option Hit) (w : RayWork) : Bool :=
  match best, w with
  | some h, .fenced _ _ (some e) => !(fracLe e (h.num, h.den))
  | _, _ => false

/-- Read the fences of a parked ray's deferred children in their order (R286): the first signalled one, a failed one, or what a read stopped at. -/
inductive FenceScan where
  | signalled (s : State) (w : RayWork)
  | failed (s : State)
  | none (s : State)
  | stop (x : Fetch × Nat)

/-- The scan of a list of deferred children. -/
def scanFences (r : Ray) : List RayWork → State → FenceScan
  | [], s => .none s
  | w :: rest, s =>
    match w with
    | .fenced n _ _ =>
      match readSpan s r.who 2 ((r.fenceBase + 8 * n) % 2 ^ 64) 8 with
      | (.bytes b s1, _) =>
        if fenceState b r.generation == 1 then .signalled s1 w
        else if fenceState b r.generation == 2 then .failed s1
        else scanFences r rest s1
      | x => .stop x
    | _ => scanFences r rest s

/-- RAY_PARK: the unit takes one token of each deferred fence line, or polls a home-performed one every microsecond (R286). -/
def parkRay (s : State) (p : Nat) (r : Ray) : State :=
  r.deferred.foldl (fun s w =>
    match w with
    | .fenced n _ _ =>
      let va := (r.fenceBase + 8 * n) % 2 ^ 64
      let watch := fun (e : TlbEntry) (s : State) =>
        if uncached e then later s 1000 .fencePoll { n0 := p, n1 := r.id }
        else
          let line := placeOf s e va / 128
          match grabOne s (rayAgent p) line with
          | some s1 => match rayOf s1 p r.id with
            | some y => setRay s1 p { y with watch := if y.watch.contains line then y.watch else y.watch ++ [line] }
            | none => s1
          | none => dueOnce (request s (rayAgent p) line .read) .fenceRecheck { n0 := p, n1 := r.id }
      match pierFill s p r.asid r.fn va .read r.supervisor with
      | (.hit e, s1) => watch e s1
      | (.direct e, s1) => watch e s1
      | (_, s1) => dueOnce s1 .fenceRecheck { n0 := p, n1 := r.id }
    | _ => s) (setRay s p { r with parked := true })

/-- A ray without other work, or a parked one whose fences are to be read again: children beyond the closest hit may be dropped, the first
child whose fence is signalled is entered, a failed fence ends the ray, and otherwise the ray parks (R286). -/
def resumeRay (s : State) (p : Nat) (r : Ray) : State :=
  let (v, s) := if r.deferred.any (beyond r.best) then takeFree s else (0, s)
  let kept := ((List.range r.deferred.length).zip r.deferred).filterMap fun k => if beyond r.best k.2 && v.testBit k.1 then none else some k.2
  let r1 := { r with deferred := kept }
  if kept.isEmpty && r.work.isEmpty then completeRay s p r1 (hitWords r.best 0)
  else
    match scanFences r1 kept s with
    | .signalled s1 w =>
      let n := match w with | .fenced _ a _ => [RayWork.node a] | _ => []
      let r2 := { r1 with deferred := removeOne w kept, work := r1.work ++ n, parked := false }
      let s2 := unwatch s1 p r2
      dueRay (setRay s2 p { r2 with watch := [] }) p r.id
    | .failed s1 => completeRay s1 p r1 (hitWords none 3)
    | .none s1 =>
      if kept.length < r.deferred.length && !r.work.isEmpty then dueRay (setRay (unwatch s1 p r1) p { r1 with parked := false, watch := [] }) p r.id
      else parkRay s1 p r1
    | .stop x => rayStop (setRay s p r1) p r1 x

/-- What a visit of a node gives (R276, R278, R288): a status that ends the ray, or the work of its children.  `free` decides on boxes that the
exact segment misses: the test may accept them. -/
def visitNode (r : Ray) (free : Nat) (b : List Byte) : Nat ⊕ List RayWork :=
  let axes := (List.range 3).map fun a => (wordAt b (4 * a), natAt b (12 + a) 1)
  if !(natAt b 17 1 == r.generation % 256) then .inl 2
  else if axes.any fun x => x.2 == 255 || !(finite32 x.1) then .inl 4
  else
    let valid := natAt b 15 1
    let leaf := natAt b 16 1
    let word := fun (k : Nat) => natAt b (80 + 4 * k) 4
    let fencedAt := fun (k : Nat) => valid.testBit k && !(leaf.testBit k) && (word k).testBit 31
    let fenceNo := fun (k : Nat) => natAt b 20 4 + ((List.range k).filter fencedAt).length
    let kids := (List.range 8).filterMap fun k =>
      let q := (List.range 6).map fun j => natAt b (32 + 6 * k + j) 1
      if !(valid.testBit k) || (List.range 3).any (fun a => nth 0 q (a + 3) < nth 0 q a) then none else
        match meetBox r.ray (decodeBox axes q) with
        | some e => some (k, e)
        | none => if Config.freeNat (free + k) % 2 == 0 then none else some (k, none)
    if kids.any fun k => leaf.testBit k.1 && r.clusters ≤ word k.1 % 2 ^ 24 then .inl 4
    else .inr (kids.map fun k =>
      if leaf.testBit k.1 then .cluster (word k.1 % 2 ^ 24)
      else
        let a := (natAt b 24 8 + 128 * (word k.1 % 2 ^ 24)) % 2 ^ 64
        if fencedAt k.1 then .fenced (fenceNo k.1) a k.2 else .node a)

/-- Read the record of a cluster: its header says how long it is (R263). -/
def readCluster (s : State) (r : Ray) (c : Nat) : Fetch × Nat :=
  match readSpan s r.who 2 ((r.clusterList + 8 * c) % 2 ^ 64) 8 with
  | (.bytes a s1, _) =>
    let va := leNat a
    match readSpan s1 r.who 2 va 64 with
    | (.bytes h s2, _) =>
      match readSpan s2 r.who 34 (va + 64) (12 * natAt h 24 1 + 3 * natAt h 25 1) with
      | (.bytes t s3, v) => (.bytes (h ++ t) s3, v)
      | x => x
    | x => x
  | x => x

/-- One piece of a ray's work. -/
def workRay (s : State) (p : Nat) (r : Ray) (w : RayWork) : State :=
  let r1 := { r with work := removeOne w r.work }
  match w with
  | .node a =>
    match readSpan s r.who 2 a 128 with
    | (.bytes b s1, _) =>
      match visitNode r s1.free b with
      | .inl status => completeRay { s1 with free := s1.free + 8 } p r (hitWords none status)
      | .inr kids => dueRay (setRay { s1 with free := s1.free + 8 } p { r1 with work := r1.work ++ kids }) p r.id
    | x => rayStop s p r x
  | .cluster c =>
    match readCluster s r c with
    | (.bytes b s1, _) => dueRay (setRay s1 p { r1 with best := hitCluster r.ray b c r.best }) p r.id
    | x => rayStop s p r x
  | .fenced n a _ =>
    match readSpan s r.who 2 ((r.fenceBase + 8 * n) % 2 ^ 64) 8 with
    | (.bytes b s1, _) =>
      let st := fenceState b r.generation
      let (v, s2) := if st == 2 && beyond r.best w then takeFree s1 else (0, s1)
      if st == 1 then dueRay (setRay s2 p { r1 with work := r1.work ++ [.node a] }) p r.id
      else if st == 2 then
        if v % 2 == 1 then dueRay (setRay s2 p r1) p r.id else completeRay s2 p r (hitWords none 3)
      else if r.deferred.length < 8 then dueRay (setRay s2 p { r1 with deferred := r1.deferred ++ [w] }) p r.id
      else resumeRay s2 p r
    | x => rayStop s p r x

/-- NODE_VISIT: ray `n1` of pier `n0` is accepted, visits a node, tests a cluster or reads a fence, or delivers its record (R278, R286). -/
def execNodeVisit (s : State) : Out :=
  let p := s.args.n0
  match rayOf s p s.args.n1 with
  | none => .next s
  | some r =>
    if !r.faults.isEmpty || frozen s r.fn r.q (.traversal p) then .next s
    else
      match r.result with
      | some hit => .next (completeRay s p r hit)
      | none =>
        if !r.accepted then .next (acceptRay s p r)
        else if r.parked then .next s
        else
          match r.work with
          | [] => .next (resumeRay s p r)
          | [w] => .next (workRay s p r w)
          | ws =>
            let (v, s1) := takeFree s
            match ws[v % ws.length]? with
            | some w => .next (workRay s1 p r w)
            | none => .next s1

/-- A parked ray reads its fences again. -/
def recheckRay (s : State) : Out :=
  match rayOf s s.args.n0 s.args.n1 with
  | none => .next s
  | some r => .next (if !r.faults.isEmpty || frozen s r.fn r.q (.traversal s.args.n0) || !r.parked then s else
      resumeRay (unwatch s s.args.n0 r) s.args.n0 { r with watch := [] })

/-- FENCE_RECHECK: the token of a fence line of parked ray `n1` of pier `n0` has been taken (R286). -/
def execFenceRecheck (s : State) : Out := recheckRay s

/-- FENCE_POLL: a microsecond has passed for parked ray `n1` of pier `n0`, which has a fence on a home-performed line (R286). -/
def execFencePoll (s : State) : Out := recheckRay s

/-! ## Issue (R480, R483) -/

/-- Issue of TRACE: each thread's ray goes to the traversal unit of its pier. -/
def traceRays (i : Instr) (emit : Bool) (d a b : RegIx) (lit : Word) (s : State) : Out :=
  issueOn i s fun s e =>
    let desc := fun (g : Group) (t : Nat) => (srcPair s.iss g t a.toNat).toNat
    let pool : Group → Bool := fun g => match launchOfGroup s g with | some l => decide (l.kind = .pool) | none => false
    let p0 := operandCheck 0x07 false (fun g t => if desc g t % 64 == 0 then none else some (desc g t)) (s, e)
    let p1 := if emit then operandCheck 0x07 false (fun g t =>
        let v := (srcVal s.iss g t d.toNat).toNat
        if v % 4 == 0 then none else some v) p0 else p0
    let p2 := if emit then operandCheck 0x02 false (fun g _ => if pool g then none else some 0) p1 else p1
    if p2.2 = 0#32 then p2.1 else
      match issGroup p2.1 with
      | none => p2.1
      | some g =>
        let (op, s1) := beginOp i p2.1 p2.2 fun _ => 0#64
        let s2 := onGroup s1 fun g => advance s.iss 2 p2.2 (modOp g op fun o => { o with sent := true })
        let pier := pierNo s.iss.cid
        let (fn, q) := contextOf s g
        (lanesOf p2.2).foldl (fun s t =>
          let (id, s1) := takeId s
          let regs := fun (v n : Nat) => (List.range n).map fun k => srcVal s.iss g t (v + k)
          let r : Ray := ⟨id, s.iss.cid, s.iss.slot, t, op, emit, ((teamOf s g.team).map (·.launch)).getD 0, asidOf s g, fn, q, g.supervisor,
            desc g t, fieldOf lit 0 1, false, 0, 0, 0, 0, 0, regs b.toNat 8, if emit then regs d.toNat 10 else [], [], [], none, false, [], none, [], 0⟩
          acceptRay (modPier s1 pier fun x => { x with rays := x.rays ++ [r] }) pier r) s2

/-- trace d:d+3, [a], b:b+7, #s (R480). -/
def execTrace (x : Bool) (d a b : RegIx) (lit : Word) (s : State) : Out := traceRays (.trace x d a b lit) false d a b lit s

/-- trace.emit d:d+9, [a], b:b+7, #s (R480, R483). -/
def execTraceEmit (x : Bool) (d a b : RegIx) (lit : Word) (s : State) : Out := traceRays (.traceEmit x d a b lit) true d a b lit s

end Sys2Proof.Machine
end

