-- ==== Sys2Proof/Machine/Place.lean ====
section
/-! DEFINITION.  The placement unit (R97 to R110): what fits where, placing a team, a gang or a pool group, the watchdog (R162), the end of a
team and of a launch (R82, R99), and the steps PLACEMENT_RECORD_ARRIVAL, PLACEMENT_PASS, PHASE_TABLE_UPDATE, GROUP_EXIT, LAUNCH_COMPLETE and
WATCHDOG_EXPIRY. -/

namespace Sys2Proof.Machine

/-! ## Occupancy (R103, R106) -/

/-- The pipes whose buffers lie on a core: those whose consumer has not retired (R99, R103). -/
def pipesOn (s : State) (cid : Nat) : List Pipe :=
  s.gangs.flatMap fun g => g.2.pipes.filter fun p => p.cid == cid &&
    (match g.2.teams[p.consumer]? with | some t => (teamOf s t).isSome | none => false)

/-- A scratchpad unit of a core is free. -/
def unitFree (s : State) (cid u : Nat) : Bool :=
  (s.teams.all fun t => !(t.2.cid == cid && t.2.unitBase ≤ u && u < t.2.unitBase + t.2.units)) && (pipesOn s cid).all fun p => !(p.unit == u)

/-- The free units of a core. -/
def freeUnits (s : State) (cid : Nat) : List Nat := (List.range 96).filter (unitFree s cid)

/-- The lowest run of free units (R107). -/
def freeRun (free : List Nat) (n : Nat) : Option Nat :=
  (List.range 96).find? fun b => b + n ≤ 96 && (List.range n).all fun k => free.contains (b + k)

/-- The free user slots of a core. -/
def freeSlots (s : State) (cid : Nat) : List Nat := (List.range 15).filter fun k => (groupOf s cid k).isNone

/-- The free granules that the placement unit may take: none while a group is blocked in REGGROW (R247). -/
def placeableGranules (s : State) (cid : Nat) : Nat :=
  let c := coreOf s cid
  if c.groups.any fun p => p.1 < 15 && blockedGrow p.2 then 0 else freeGranules c

/-- The free tiles of a pier. -/
def freeTiles (s : State) (pier : Nat) : List Nat :=
  (List.range 16).filter fun n => s.teams.all fun t => !(pierNo t.2.cid == pier && t.2.tiles.contains n)

/-- A team of a kernel that consumes `pipes` pipes fits on a core (R106): where its run begins. -/
def fitsOn (s : State) (cid : Nat) (k : Kernel) (pipes : Nat) : Option Nat :=
  let free := freeUnits s cid
  match freeRun free k.units with
  | none => none
  | some b =>
    if k.groups ≤ (freeSlots s cid).length && k.groups * k.granules ≤ placeableGranules s cid &&
       k.tiles ≤ (freeTiles s (pierNo cid)).length && (pipesOn s cid).length + pipes ≤ 4 && pipes + k.units ≤ free.length then some b else none

/-- A team of a kernel fits on an otherwise empty core (R110). -/
def fitsEmpty (k : Kernel) (pipes : Nat) : Bool :=
  k.groups ≤ 15 && k.groups * k.granules ≤ 240 && k.units + pipes ≤ 96 && k.tiles ≤ 16 && pipes ≤ 4

/-! ## Placing (R107, R122, R244) -/

/-- A group at placement (R244). -/
def newGroup (team index granules age : Nat) (threads : List Thread) (regs : List (Nat × Reg)) : Group :=
  ⟨team, index, granules, regs, List.replicate 12 ⟨0, none⟩, none, List.replicate 8 Cv.empty, List.replicate 8 (0, 0), none, threads, [], false,
   age, 0, false, none, false, false, [], [], []⟩

/-- Put a group into a slot: it enters the active set while that has room (R128). -/
def seatGroup (s : State) (cid slot : Nat) (g : Group) : State :=
  let c := coreOf s cid
  setGroup s cid slot { g with active := decide (activeCount c < 8), lastIssue := c.cycle }

/-- The watchdog counts for a launch: a team of it or of its children is resident, none of them is halted, and its context is not being
pre-empted or saved (R162, R163). -/
def watchdogRuns (s : State) (l : Launch) (family : List Nat) : Bool :=
  let teams := family.flatMap fun x => ((launchOf s x).map (·.teams)).getD []
  let q := queueOf s l.fn l.q
  !teams.isEmpty && !q.saved && q.preempt.isNone &&
  teams.all fun t => match teamOf s t with
    | some tm => tm.slots.all fun k => match (groupOf s tm.cid k).bind (·.stop) with | some st => !st.halted | none => true
    | none => true

/-- Start or stop the count of a launch's watchdog as things now stand (R162). -/
def watchdog (s : State) (id : Nat) : State :=
  let root := rootOf s id s.launches.length
  match launchOf s root with
  | none => s
  | some l =>
    match watchdogRuns s l (familyOf s root), l.since with
    | true, none =>
      later (modLaunch s root fun l => { l with since := some (now s) }) (l.limit - l.used + 1) .watchdogExpiry { n0 := root }
    | false, some t =>
      withdraw (modLaunch s root fun l => { l with since := none, used := l.used + (now s - t) }) fun d => d.step = .watchdogExpiry && d.args.n0 == root
    | _, _ => s

/-- Note a launch in the phase table: its entry, or the free one or the one launched least recently (R115). -/
def notePhase (p : Placer) (code fn asid : Nat) : Placer :=
  match p.phases.find? fun e => e.2.code == code && e.2.fn == fn && e.2.asid == asid with
  | some e =>
    { p with phases := place p.phases e.1 { e.2 with launches := e.2.launches + 1 }, phaseOrder := (p.phaseOrder.filter fun n => !(n == e.1)) ++ [e.1] }
  | none =>
    let n := ((List.range 64).find? fun n => (find? p.phases n).isNone).getD (p.phaseOrder.headD 0)
    { p with phases := place p.phases n ⟨code, fn, asid, true, 1, []⟩, phaseOrder := (p.phaseOrder.filter fun k => !(k == n)) ++ [n] }

/-- The phase of a team in its die's table (R115). -/
def teamPhase (s : State) (tm : Team) : Option Nat :=
  (launchOf s tm.launch).bind fun l =>
    ((placerOf s (tm.cid / 128)).phases.find? fun p => p.2.code == tm.code.toNat % 2 ^ 57 && p.2.fn == l.fn && p.2.asid == l.asid).map (·.1)

/-- The phase of a group in its die's table (R115). -/
def phaseOf (s : State) (g : Group) : Option Nat := (teamOf s g.team).bind (teamPhase s)

/-- Count busy and idle cycles of a core for a phase (R116). -/
def countPhase (s : State) (cid n busy idle : Nat) : State :=
  modPlacer s (cid / 128) fun p =>
    match find? p.phases n with
    | some e =>
      let old := ((find? e.counts (cid % 128)).getD (0, 0))
      { p with phases := place p.phases n { e with counts := place e.counts (cid % 128) (old.1 + busy, old.2 + idle) } }
    | none => p

/-- A team is resident on a core: from now on cycles of its phase are counted there (R116). -/
def notePresent (s : State) (tm : Team) : State :=
  match teamPhase s tm with
  | some n => countPhase s tm.cid n 0 0
  | none => s

/-- Place a team of a kernel on a core: slots, granules, scratchpad run and tiles as R107 says, all reading zero (R244, R256).  `threads` and
`regs` give the threads and registers of its groups. -/
def placeTeam (s : State) (cid base : Nat) (id : Nat) (kernel : Nat) (k : Kernel) (t : Team) (threads : List Thread) (regs : List (Nat × Reg)) :
    Nat × State :=
  let (team, s1) := takeId s
  let (age, s2) := takeId s1
  let slots := (freeSlots s cid).take k.groups
  let tiles := (freeTiles s (pierNo cid)).take k.tiles
  let tm : Team := { t with cid := cid, launch := id, kernel := kernel, groups := k.groups, slots := slots, granules := k.granules, unitBase := base,
                            units := k.units, tiles := tiles, code := k.code }
  let s3 := modCore { s2 with teams := place s2.teams team tm } cid fun c =>
    setEmpty { c with scratch := blank c.scratch (4096 * base) (4096 * k.units) } ((List.range (256 * k.units)).map fun n => 256 * base + n)
  let s4 := modPier s3 (pierNo cid) fun p => { p with tiles := p.tiles.filter fun w => !(tiles.contains (w.1 / 4096)) }
  let s5 := ((List.range k.groups).zip slots).foldl (fun s g => seatGroup s cid g.2 (newGroup team g.1 k.granules age threads regs)) s4
  let s6 := modLaunch s5 id fun l => { l with teams := l.teams ++ [team], cores := if l.cores.contains cid then l.cores else l.cores ++ [cid] }
  let ctx := match launchOf s id with | some l => (l.fn, l.q) | none => (0, 4096)
  (team, watchdog (notePresent (sendLog s6 ctx cid (slots.headD 0)) tm) id)

/-- A team with nothing in it yet. -/
def Team.blank : Team := ⟨0, 0, 0, 0, 0, 0, 0, 0, 0, 1, [], 0, 0, 0, [], [], List.replicate 8 ⟨0, 0, 0#32⟩, 0#64, 0, false⟩

/-- Coordinates of a linear index (R98). -/
def coordinates (l : Launch) (i : Nat) : Nat × Nat × Nat := (i % l.nx, i / l.nx % l.ny, i / (l.nx * l.ny))

/-- The lowest core of a list on which a team fits, and where its run begins. -/
def lowestFit (s : State) (cores : List Nat) (k : Kernel) (pipes : Nat) : Option (Nat × Nat) :=
  cores.findSome? fun c => (fitsOn s c k pipes).map fun b => (c, b)

/-- The cores of a die. -/
def coresOf (die : Nat) : List Nat := (List.range 128).map (128 * die + ·)

/-- The cores of a region (R102). -/
def regionCores (die r : Nat) : List Nat := (List.range 8).map (128 * die + 8 * r + ·)

/-- Place team i of a grid. -/
def placeGridTeam (s : State) (die id : Nat) (l : Launch) (i : Nat) : Option State :=
  match l.kernels with
  | [] => none
  | k :: _ =>
    (lowestFit s (coresOf die) k 0).map fun p =>
      let (x, y, z) := coordinates l i
      (placeTeam s p.1 p.2 id 0 k { Team.blank with x := x, y := y, z := z, linear := i } (List.replicate 32 (Thread.start k.code)) []).2

/-- The pipes that a kernel of a launch's gangs consumes. -/
def consumed (l : Launch) (k : Nat) : List Nat := (List.range l.pipeMap.length).filter fun n => (nth (0, 0) l.pipeMap n).2 == k

/-- A core that is no core: where a pipe whose consumer is not placed lies. -/
def noCore : Nat := 2 ^ 20

/-- Place the kernels of a gang in a region, each on the lowest core that still has room, with the buffers of the pipes it consumes (R103, R107). -/
def placeKernels (die r id gang index : Nat) (l : Launch) : Nat → List Kernel → State → Option State
  | _, [], s => some s
  | n, k :: rest, s =>
    let ps := consumed l n
    match lowestFit s (regionCores die r) k ps.length with
    | none => none
    | some (cid, b) =>
      let (team, s1) := placeTeam s cid b id n k { Team.blank with gang := gang, gangIndex := index } (List.replicate 32 (Thread.start k.code)) []
      let units := (freeUnits s1 cid).take ps.length
      let x := look ⟨id, [], []⟩ s1.gangs gang
      let pipes := (ps.zip units).foldl (fun l p => modNth l p.1 fun q => { q with cid := cid, unit := p.2 }) x.pipes
      let s2 := units.foldl (fun s u => modCore s cid fun c =>
        setEmpty { c with scratch := blank c.scratch (4096 * u) 4096 } ((List.range 256).map fun n => 256 * u + n))
        { s1 with gangs := place s1.gangs gang { x with teams := x.teams ++ [team], pipes := pipes } }
      placeKernels die r id gang index l (n + 1) rest s2

/-- Place gang i, all or nothing, in the lowest region that takes it (R102, R107). -/
def placeGang (s : State) (die id : Nat) (l : Launch) (i : Nat) : Option State :=
  let (gang, s1) := takeId s
  let x : Gang := ⟨id, [], l.pipeMap.map fun p => ⟨p.1, p.2, noCore, 0, 0, 0⟩⟩
  (List.range 16).findSome? fun r => placeKernels die r id gang i l 0 l.kernels { s1 with gangs := place s1.gangs gang x }

/-- The READY bin of a pool that was ready first, the lower of two of one tick (R120). -/
def readyBin (p : PoolDie) : Option (Nat × Bin) :=
  (sortBy (fun a b => a.2.since ≤ b.2.since) (p.bins.filter fun b => b.2.state == 2)).head?

/-- POOL_GROUP_CREATE: the records of a READY bin become a group (R122). -/
def placeBin (s : State) (die id : Nat) (l : Launch) (p : Pool) : Option State :=
  match readyBin (poolDie p die), l.kernels with
  | some (n, b), k :: _ =>
    (lowestFit s (coresOf die) k 0).map fun c =>
      let count := b.records.length
      let start := Thread.start (k.code + BitVec.ofNat 64 b.code)
      let threads := (List.range 32).map fun t => if t < count then start else { start with exited := true }
      let regs := ((List.range 32).zip b.records).foldl (fun m r => (List.range 12).foldl (fun m j =>
        store Reg.zero m (128 * r.1 + j) ⟨BitVec.ofNat 32 (leNat ((r.2.drop (16 + 4 * j)).take 4)), 0#4⟩) m) []
      let s1 := modPoolDie s id die fun d => { d with bins := place d.bins n Bin.free }
      let s2 := (placeTeam (sendLog s1 (l.fn, l.q) c.1 0) c.1 c.2 id 0 k { Team.blank with poolKey := b.key } threads regs).2
      ringsReturn s2 die
  | _, _ => none

/-! ## Restoring teams (R145, R146) -/

/-- The snapshots of a group's convergence registers, moved to a new run. -/
def moveSnapshots (f : List (Nat × Byte) → List (Nat × Byte)) (g : Group) : Group := { g with cv := g.cv.map fun v => { v with before := f v.before } }

/-- Put the bytes of a list of offsets at a base. -/
def putBytes (base : Nat) (m : List (Nat × Byte)) (b : List (Nat × Byte)) : List (Nat × Byte) := b.foldl (fun m x => writeByte m (base + x.1) x.2) m

/-- Seat a saved team on a core: scratchpad, tiles and groups as they were, by offset and in order; its groups stay stopped. -/
def reseat (s : State) (cid base : Nat) (t : SavedTeam) : State :=
  let slots := (freeSlots s cid).take t.team.groups
  let tiles := (freeTiles s (pierNo cid)).take t.team.tiles.length
  let (age, s1) := takeId s
  let tm := { t.team with cid := cid, slots := slots, unitBase := base, tiles := tiles }
  let units := (freeUnits s cid).filter fun u => !(base ≤ u && u < base + t.team.units)
  let pipes := t.buffers.zip units
  let s2 := modCore { s1 with teams := place s1.teams t.id tm } cid fun c =>
    let c1 := setEmpty { c with scratch := blank c.scratch (4096 * base) (4096 * t.team.units) } ((List.range (256 * t.team.units)).map fun n => 256 * base + n)
    let c2 := setFull { c1 with scratch := putBytes (4096 * base) c1.scratch t.scratch } (t.full.map (256 * base + ·))
    pipes.foldl (fun c p =>
      let c3 := setEmpty { c with scratch := blank c.scratch (4096 * p.2) 4096 } ((List.range 256).map fun n => 256 * p.2 + n)
      setFull { c3 with scratch := putBytes (4096 * p.2) c3.scratch p.1.2.1 } (p.1.2.2.map (256 * p.2 + ·))) c2
  let s3 := match find? s2.gangs t.team.gang with
    | some g => { s2 with gangs := place s2.gangs t.team.gang { g with
        pipes := pipes.foldl (fun l p => modNth l p.1.1 fun q => { q with cid := cid, unit := p.2 }) g.pipes } }
    | none => s2
  let s4 := modPier s3 (pierNo cid) fun p => { p with
    tiles := t.tiles.foldl (fun m w => store 0#32 m (4096 * nth 0 tiles (w.1 / 4096) + w.1 % 4096) w.2) (p.tiles.filter fun w => !(tiles.contains (w.1 / 4096))) }
  let s5 := ((sortBy (fun a b => a.2.index ≤ b.2.index) t.groups).zip slots).foldl (fun s g =>
    let at_ := frameAddr s cid g.2
    let h := moveSnapshots (putBytes (4096 * base) []) { g.1.2 with age := age, active := false, stop := g.1.2.stop.map fun x => { x with frame := at_ } }
    setGroup { s with mem := putBytes at_ (blank s.mem at_ 8192) (look [] t.frames g.1.2.index) } cid g.2 h) s4
  modLaunch (notePresent s5 tm) t.team.launch fun l => { l with teams := l.teams ++ [t.id], cores := if l.cores.contains cid then l.cores else l.cores ++ [cid] }

/-- A saved team as a kernel, with the granules its groups hold now. -/
def SavedTeam.kernel (t : SavedTeam) : Kernel := ⟨t.team.code, 0, t.team.groups, (t.groups.map fun g => g.2.granules).foldl max 1, t.team.units, t.team.tiles.length⟩

/-- The granules a saved team needs: its groups may hold different counts. -/
def SavedTeam.fits (s : State) (cid : Nat) (t : SavedTeam) : Option Nat :=
  let need := (t.groups.map fun g => g.2.granules).sum
  if placeableGranules s cid < need then none else fitsOn s cid { t.kernel with granules := 0 } t.buffers.length

/-- Seat saved teams one after the other, each on the lowest core of a list that takes it. -/
def reseatAll (cores : List Nat) : List SavedTeam → State → Option State
  | [], s => some s
  | t :: r, s =>
    match cores.findSome? fun c => (SavedTeam.fits s c t).map fun b => (c, b) with
    | none => none
    | some (c, b) => reseatAll cores r (reseat s c b t)

/-- The units of a context that is being restored: a team, or the kernels of a gang together; each with the teams that remain without it. -/
def savedUnits (ts : List SavedTeam) : List (List SavedTeam × List SavedTeam) :=
  let gangs := dedup ((ts.map (·.team.gang)).filter fun g => !(g == 0))
  gangs.map (fun g => (ts.filter fun x => x.team.gang == g, ts.filter fun x => !(x.team.gang == g))) ++
    (ts.filter fun t => t.team.gang == 0).map fun t => ([t], ts.filter fun x => !(x.id == t.id))

/-- Seat a unit on a die: a team on its lowest core that takes it, a gang within one region (R107, R145). -/
def placeSavedUnit (s : State) (die : Nat) (unit : List SavedTeam) : Option State :=
  if unit.any fun t => !(t.team.gang == 0) then (List.range 16).findSome? fun r => reseatAll (regionCores die r) unit s
  else reseatAll (coresOf die) unit s

/-- Place a unit of a context that is being restored: the first in order that fits the die. -/
def placeSaved (s : State) (die key : Nat) : Option State :=
  match find? s.saved key with
  | none => none
  | some c => (savedUnits c.teams).findSome? fun u =>
      (placeSavedUnit s die u.1).map fun s => { s with saved := place s.saved key { c with teams := u.2 } }

/-! ## The placement pass (R105, R108) -/

/-- Restoring ends when the last saved team has been placed: the context resumes. -/
def savedLeft (s : State) (key : Nat) : Bool := match find? s.saved key with | some c => !c.teams.isEmpty | none => false

/-- A record of a die's list has a unit ready to place (R105); a context that is being pre-empted has none (R143). -/
def hasUnit (s : State) (die : Nat) (e : Nat × Bool) : Bool :=
  if e.2 then savedLeft s e.1 else
    match launchOf s e.1 with
    | none => false
    | some l => !(contextAway s l) && (
      if l.kind = .pool then (match l.pool with | some p => (readyBin (poolDie p die)).isSome | none => false)
      else match find? l.units die with | some i => i < l.count | none => false)

/-- Drop a record whose last unit on the die is placed.  A context that is being restored stands in the lists of both dies: with teams left, both
go on; with none, it leaves both and goes on to its resumption. -/
def leaveList (s : State) (die : Nat) (e : Nat × Bool) : State :=
  let dies := List.range (dieCount s)
  if e.2 then
    if savedLeft s e.1 then dies.foldl (fun s d => dueOnce s .placementPass { n0 := d }) s
    else
      dueOnce (dropRecords s fun x => x == e) .contextRestore { n0 := e.1 / 4096, n1 := e.1 % 4096, flag := true }
  else
    let gone := match launchOf s e.1 with
      | none => true
      | some l => !(l.kind = .pool) && (match find? l.units die with | some i => l.count ≤ i | none => true)
    if !gone then s else admitWaiting (modPlacer s die fun p => p.drop fun x => x == e) die

/-- Place the next unit of a record, if it fits. -/
def placeUnit (s : State) (die : Nat) (e : Nat × Bool) : Option State :=
  (if e.2 then placeSaved s die e.1 else
    match launchOf s e.1 with
    | none => none
    | some l =>
      match l.kind, l.pool, find? l.units die with
      | .pool, some p, _ => placeBin s die e.1 l p
      | .grid, _, some i =>
        (placeGridTeam s die e.1 l i).map fun s => modLaunch s e.1 fun l => { l with units := place l.units die (i + if sharedDies s l then 2 else 1) }
      | .gang, _, some i =>
        (placeGang s die e.1 l i).map fun s => modLaunch s e.1 fun l => { l with units := place l.units die (i + if sharedDies s l then 2 else 1) }
      | _, _, _ => none).map fun s => leaveList s die e

/-- Place units of a record until one does not fit: the state, and whether one was placed. -/
def placeMany (die : Nat) (e : Nat × Bool) : Nat → State → State × Bool
  | 0, s => (s, false)
  | n + 1, s =>
    if !(hasUnit s die e) then (s, false) else
      match placeUnit s die e with
      | some s1 => ((placeMany die e n s1).1, true)
      | none => (s, false)

/-- The most units a die can hold. -/
def mostUnits : Nat := 1920

/-- One placement pass (R108): the head's units, then back-fill unless the unit drains for the head.  A record that becomes the head starts with a
pass count of 0; a unit that drains goes on doing so until a head is placed. -/
def placementPass (die : Nat) : Nat → State → State
  | 0, s => s
  | n + 1, s =>
    let p0 := placerOf s die
    match p0.list.filter (hasUnit s die) with
    | [] => modPlacer s die fun p => { p with head := none, headPass := 0, state := 0 }
    | head :: rest =>
      let p := if p0.head == some head then p0 else { p0 with head := some head, headPass := 0 }
      let s := modPlacer s die fun _ => p
      let st := if p.state == 0 then 1 else p.state
      match placeUnit s die head with
      | some s1 => placementPass die n (modPlacer s1 die fun p => { p with headPass := 0, state := 1 })
      | none =>
        let s0 := modPlacer s die fun p => { p with state := st }
        if st == 2 || !p.backfill then s0
        else if p.ageLimit ≤ p.headPass then modPlacer s0 die fun p => { p with state := 2 }
        else
          let (s1, any) := rest.foldl (fun q e => let r := placeMany die e mostUnits q.1; (r.1, q.2 || r.2)) (s0, false)
          if !any then s1 else
            modPlacer s1 die fun q => { q with headPass := p.headPass + 1, state := if p.ageLimit ≤ p.headPass + 1 then 2 else 1 }

/-- PLACEMENT_PASS: the placement unit of die `n0` makes a pass (R108). -/
def execPlacementPass (s : State) : Out := .next (placementPass s.args.n0 (mostUnits + 2) s)

/-! ## Records arriving (R105, R110, R361) -/

/-- The dies of a launch's shares. -/
def diesOfLaunch (s : State) (l : Launch) : List Nat := if sharedDies s l then [0, 1] else [if l.die == 2 then 1 else 0]

/-- The entry stamp of a code address (R361): a pool's stamp is its code base, any other lies in the 8 bytes before the code address. -/
def stampAddr (pool : Bool) (code : Nat) : Nat := if pool then code else (code + 2 ^ 64 - 8) % 2 ^ 64

/-- Read the stamp at an address: an awaited line, a fault, a wrong magic, or the object base it names. -/
inductive StampRead where
  | base (b : Nat) (s : State)
  | wait (s : State)
  | fault (va subtype level : Nat)
  | wrong
  | poison (va : Nat)
  | down (va : Nat)

/-- Read an entry stamp as an instruction fetch (R361). -/
def readStamp (s : State) (cid asid fn : Nat) (supervisor pool : Bool) (code : Nat) : StampRead :=
  let va := stampAddr pool code
  match readAs s (placerAgent (cid / 128)) cid asid fn va 8 .execute supervisor with
  | .bytes b s1 => if leNat (b.take 4) == stampMagic then .base ((va + 2 ^ 64 - leNat (b.drop 4)) % 2 ^ 64) s1 else .wrong
  | .wait s1 => .wait s1
  | .fault a c => .fault va a c
  | .poison => .poison va
  | .down _ => .down va

/-- Every stamp of a launch's kernels, with the kernels' object bases. -/
def readStamps (s : State) (cid asid fn : Nat) (supervisor pool : Bool) : List Kernel → StampRead × List Kernel
  | [] => (.base 0 s, [])
  | k :: r =>
    match readStamp s cid asid fn supervisor pool k.code.toNat with
    | .base b s1 =>
      match readStamps s1 cid asid fn supervisor pool r with
      | (.base x s2, ks) => (.base x s2, { k with base := b } :: ks)
      | x => x
    | x => (x, [])

/-- A record that fails its acceptance: it completes, nothing of it is placed (R110, R361, R78). -/
def rejectLaunch (s : State) (id status detail : Nat) : State :=
  match launchOf s id with
  | none => s
  | some l => failRecord (discardLaunches s [id]) l.fn l.q l.rec_ status detail

/-- Every kernel of a launch fits on an empty core, or a gang on an empty region (R110). -/
def fitsAtAll (s : State) (l : Launch) : Bool :=
  if l.kind = .gang then
    (placeKernels 0 0 0 1 0 l 0 l.kernels { State.reset with
      gangs := [(1, ⟨0, [], l.pipeMap.map fun p => ⟨p.1, p.2, noCore, 0, 0, 0⟩⟩)], variant := s.variant, ids := 2 }).isSome
  else l.kernels.all fun k => fitsEmpty k 0

/-- The field that a failed acceptance check names (R110). -/
def fitDetail (l : Launch) : Nat := match l.kind with | .grid => 30 | .pool => 28 | .gang => 8

/-- A die notes the phases of a launch it has accepted, while it keeps a phase table (R114, R115). -/
def noteLaunch (s : State) (die : Nat) (l : Launch) : State :=
  modPlacer s die fun p => l.kernels.foldl (fun p k => if p.phaseBase.getLsbD 63 then notePhase p (k.code.toNat % 2 ^ 57) l.fn l.asid else p) p

/-- The record of a launch enters the placement list of a die; another that waits for an entry may follow. -/
def enterList (s : State) (die id : Nat) : State :=
  match launchOf s id with
  | none => s
  | some _ =>
    let s1 := modPlacer s die fun p => { p with list := p.list ++ [(id, false)] }
    admitWaiting (dueOnce (leaveList s1 die (id, false)) .placementPass { n0 := die }) die

/-- A launch record reaches the placement unit of die `n0` (R76, R110, R361): its stamps are read and its fit is checked, and it enters the list
or waits for an entry.  `n2` is 1 for one that has passed the checks and waited. -/
def arriveRecord (s : State) (die id : Nat) (checked : Bool) : State :=
  match launchOf s id with
  | none => s
  | some l =>
    let enter := fun (s : State) =>
      if listRoom s die l.parent.isSome then enterList s die id
      else modPlacer s die fun p => { p with waiting := p.waiting ++ [id] }
    if contextAway s l then
      if checked then modPlacer s die fun p => { p with waiting := p.waiting ++ [id] } else due s .placementRecordArrival s.args
    else if checked then enter s else
      match readStamps s (128 * die) l.asid l.fn l.supervisor (l.kind = .pool) l.kernels with
      | (.wait s1, _) => due s1 .placementRecordArrival s.args
      | (.fault va _ _, _) => rejectLaunch s id 6 (va % 2 ^ 32)
      | (.poison va, _) => rejectLaunch s id 6 (va % 2 ^ 32)
      | (.down va, _) => rejectLaunch s id 6 (va % 2 ^ 32)
      | (.wrong, _) => rejectLaunch s id 1 8
      | (.base _ s1, ks) =>
        if !(fitsAtAll s l) then rejectLaunch s1 id 1 (fitDetail l)
        else enter (noteLaunch (modLaunch s1 id fun l => { l with kernels := ks }) die { l with kernels := ks })

/-! ## Teams and launches that end (R82, R99, R386) -/

/-- TEAM_RETIRE: a team whose groups have all exited is gone, and what it held is free (R99). -/
def retireTeam (s : State) (id : Nat) : State :=
  match teamOf s id with
  | none => s
  | some t =>
    let s1 := removeTeam s id
    let s2 := modLaunch s1 t.launch fun l => { l with teams := l.teams.filter fun x => !(x == id) }
    let s3 := match find? s2.gangs t.gang with
      | some g => if g.teams.all fun x => (teamOf s2 x).isNone then { s2 with gangs := erase s2.gangs t.gang } else s2
      | none => s2
    watchdog (checkLaunch (dueOnce s3 .placementPass { n0 := t.cid / 128 }) t.launch) t.launch

/-- A group has engine work that has not ended. -/
def groupEngines (s : State) (cid slot : Nat) : Bool :=
  let p := pierOf s (pierNo cid)
  (p.copies.any fun c => c.cid == cid && c.slot == slot && !(c.kind == 5)) || (p.gathers.any fun c => c.cid == cid && c.slot == slot) ||
  (p.table.any fun m => m.cid == cid && m.slot == slot) || p.rays.any fun r => r.cid == cid && r.slot == slot

/-- The engine-error record of a group (R436): kind and address of the first one. -/
def groupError (g : Group) : Option (Nat × Nat) :=
  match g.unattached with
  | some e => some e
  | none => g.flags.findSome? (·.error)

/-- The detail of status ENGINE_ERROR (R90): the transfer engine's agent number, or the peer port of the address. -/
def errorDetail (s : State) (cid : Nat) (g : Group) (e : Nat × Nat) : Nat :=
  if e.1 == 0 then 2 ^ 31 + 512 * (cid / 128) + 320 + pierNo cid % 32
  else match resolve s (pierNo cid) (asidOf s g) (contextOf s g).1 e.2 .read true with
    | .hit x => portFor s (peerDevice (x.pa e.2))
    | _ => 0

/-- GROUP_EXIT: the group in slot `n1` of core `n0`, whose threads have all exited, exits once every instruction it issued has completed
(R386); the team retires with its last group (R99).  An engine error that no clause has met ends the launch (R436). -/
def execGroupExit (s : State) : Out :=
  let cid := s.args.n0
  let slot := s.args.n1
  match groupOf s cid slot with
  | none => .next s
  | some g =>
    if g.exitedWhole || !(liveLanes g = 0#32) || slot == 15 then .next s
    else if !g.ops.isEmpty || !g.replayQ.isEmpty || g.cv.any (·.pending) || !g.storesOut.isEmpty || groupEngines s cid slot || g.stop.isSome then .next (due s .groupExit s.args)
    else
      match groupError g, (teamOf s g.team).map (·.launch) with
      | some e, some l => .next (endLaunch s l 7 (errorDetail s cid g e))
      | _, _ =>
        let s1 := modGroup s cid slot fun g => { g with exitedWhole := true, latch := none }
        let s2 := modTeam (leaveActive s1 cid slot) g.team fun t => { t with resv := t.resv.filter fun r => !(r.1 == g.index) }
        let s3 := if (coreOf s2 cid).groups.any fun p => blockedGrow p.2 then dueOnce s2 .reggrowGrant { n0 := cid } else s2
        .next (if (teamGroups s3 g.team).all fun p => p.2.exitedWhole then retireTeam s3 g.team else s3)

/-- LAUNCH_COMPLETE: launch `n0`, whose teams, children and pool records are all gone, completes: a child is folded into its parent, and a
queue's launch posts its completion (R82, R100, R118, R125); one that has been ended posts what it ended with (R155, R231). -/
def execLaunchComplete (s : State) : Out :=
  let id := s.args.n0
  match launchOf s id with
  | none => .next s
  | some l =>
    if !(launchIdle s id l) then .next (if l.doomed.isSome then due s .launchComplete s.args else s) else
      let s1 := dropRecords { s with launches := erase s.launches id } fun e => !e.2 && e.1 == id
      match l.parent with
      | some p =>
        .next (checkLaunch (modLaunch s1 p fun x => { x with cores := dedup (x.cores ++ l.cores) }) p)
      | none =>
        let s2 := modQueue s1 l.fn l.q fun x => { x with cores := dedup (x.cores ++ l.cores) }
        let (status, detail) := l.doomed.getD <| match l.pool with
          | some p => if p.overflowed then (5, p.lost) else match p.badByte with | some b => (1, b) | none => (0, 0)
          | none => (0, 0)
        let s3 := complete (withdraw s2 fun d => d.step = .watchdogExpiry && d.args.n0 == id) l.fn l.q l.rec_ status (detail % 2 ^ 32)
          (launchScope l l.cores) (diesOf l.cores)
        .next ((List.range (dieCount s)).foldl (fun s d => dueOnce s .placementPass { n0 := d }) s3)

/-- WATCHDOG_EXPIRY: launch `n0` has been counted past its limit: its groups trap WATCHDOG, and the traps are resolved (R155, R162). -/
def execWatchdogExpiry (s : State) : Out :=
  let id := s.args.n0
  match launchOf s id with
  | none => .next s
  | some l =>
    match l.since with
    | none => .next s
    | some t =>
      if l.used + (now s - t) ≤ l.limit then .next s else
        let teams := (familyOf s id).flatMap fun x => ((launchOf s x).map (·.teams)).getD []
        let stops := fun (s : State) (cid slot : Nat) =>
          match groupOf s cid slot with
          | none => s
          | some g =>
            if g.exitedWhole then s else
              let s1 := abortLanes s cid slot (regionLanes g 0xFFFFFFFF#32) 6 0x0E 0#64
              due (stopGroup s1 cid slot (trapStop 0x0E 0 0 0 (liveLanes g))) .trapResolution { n0 := cid, n1 := slot }
        .next (teams.foldl (fun s t => match teamOf s t with | some tm => tm.slots.foldl (fun s k => stops s tm.cid k) s | none => s) s)

/-! ## The phase table (R114 to R117) -/

/-- The writes that bring one entry of a phase table up to date; `entry` is what the table holds now. -/
def phaseBytes (p : Phase) (entry : List Byte) (time : Nat) : List Byte :=
  let old := if p.fresh then List.replicate 4096 0#8 else entry
  let f := fun (o n : Nat) => leNat ((old.drop o).take n)
  let add := fun (c k : Nat) => match find? p.counts c with | some x => if k == 0 then x.1 else x.2 | none => 0
  leBytes 8 p.code ++ leBytes 1 p.fn ++ leBytes 1 p.asid ++ leBytes 2 0 ++ leBytes 4 ((f 12 4 + p.launches) % 2 ^ 32) ++
  leBytes 8 ((leNat ((entry.drop 16).take 8) + 2) % 2 ^ 64) ++ leBytes 8 time ++ leBytes 32 0 ++
  ((List.range 128).flatMap fun c => leBytes 8 (f (64 + 16 * c) 8 + add c 0) ++ leBytes 8 (f (72 + 16 * c) 8 + add c 1)) ++ leBytes 1984 0

/-- Write bytes of device memory whose lines the placement unit of a die has gathered, line by line (R210). -/
def putLines (s : State) (die : Nat) : Nat → Nat → List Byte → State
  | 0, _, _ => s
  | n + 1, pa, b =>
    let s1 := giveBack (writeLineBytes s pa (b.take 128)) (placerAgent die) (pa / 128) true
    match b.drop 128 with
    | [] => s1
    | r => putLines s1 die n (pa + 128) r

/-- The cores and phases of a die with a group of the phase resident now. -/
def presentPhases (s : State) (die : Nat) : List (Nat × Nat) :=
  dedup ((s.teams.filter fun t => t.2.cid / 128 == die).filterMap fun t => (teamPhase s t.2).map fun n => (t.2.cid, n))

/-- Bring the entries of a list up to date, one after the other. -/
def updatePhases (die base : Nat) : List (Nat × Phase) → State → State
  | [], s => s
  | (n, p) :: r, s =>
    let pa := base + 4096 * n
    if !p.fresh && p.launches == 0 && p.counts.all (fun c => c.2 == (0, 0)) then updatePhases die base r s else
      match gatherLines (placerAgent die) ((List.range 32).map (pa / 128 + ·)) s with
      | (some s0, _) =>
        let s1 := putLines s0 die 33 pa (phaseBytes p (readBytes s0.mem pa 4096) (now s))
        let counts := ((presentPhases s1 die).filter fun q => q.2 == n).map fun q => (q.1 % 128, (0, 0))
        updatePhases die base r (modPlacer s1 die fun x =>
          { x with phases := place x.phases n { p with fresh := false, launches := 0, counts := counts } })
      | (none, s1) => dueOnce s1 .phaseTableUpdate { n0 := die, flag := true }

/-- The idle cycles of the phases that have had a resident group since the last update, a free number for each phase and core (R116). -/
def idlePhases (s : State) (die : Nat) : State :=
  let counted := (placerOf s die).phases.flatMap fun p => p.2.counts.map fun c => (128 * die + c.1, p.1)
  (dedup (counted ++ presentPhases s die)).foldl (fun s p =>
    let (v, s) := takeFree s
    countPhase s p.1 p.2 0 v) s

/-- PHASE_TABLE_UPDATE: the placement unit of die `n0` adds what it has counted into the changed entries of the phase table (R117); the update
of an entry is one event, so its SEQ reads even. -/
def execPhaseTableUpdate (s : State) : Out :=
  let die := s.args.n0
  let p := placerOf s die
  if !(p.phaseBase.getLsbD 63) then .next (if s.args.flag then s else later s 1000000 .phaseTableUpdate { n0 := die }) else
    let s0 := if s.args.flag then s else idlePhases s die
    let s1 := updatePhases die (p.phaseBase.toNat % 2 ^ 52 / 2 ^ 18 * 2 ^ 18) (placerOf s0 die).phases s0
    .next (if s.args.flag then s1 else later s1 1000000 .phaseTableUpdate { n0 := die })

end Sys2Proof.Machine
end

