-- ==== Sys2Proof/Machine/Launches.lean ====
section
/-! DEFINITION.  Work that running programs make: LAUNCH (R486) and EMIT (R487), the checks of a LAUNCH_GRID body (R80), the step
PLACEMENT_RECORD_ARRIVAL, and the resolution of traps (R155). -/

namespace Sys2Proof.Machine

/-! ## Record bodies (R79, R80) -/

/-- A field of a record. -/
def recField (b : List Byte) (o n : Nat) : Nat := leNat ((b.drop o).take n)

/-- The offset of the first byte of a range that is not zero. -/
def firstNonzero (b : List Byte) (o n : Nat) : Option Nat := ((List.range n).map (o + ·)).find? fun k => !(recField b k 1 == 0)

/-- The first failing check of a list of offsets and verdicts. -/
def firstBad (l : List (Nat × Bool)) : Option Nat := (l.find? fun p => p.2).map (·.1)

/-- The first of two offsets. -/
def earlier (a b : Option Nat) : Option Nat :=
  match a, b with
  | some x, some y => some (min x y)
  | some x, none => some x
  | none, y => y

/-- The first bad field of a LAUNCH_GRID body (R80, R81). -/
def gridBad (s : State) (b : List Byte) : Option Nat :=
  let f := recField b
  earlier (firstBad [(8, !(f 8 8 % 4 == 0)), (24, f 24 2 == 0), (26, f 26 2 == 0), (28, f 28 2 == 0), (30, f 30 1 == 0 || 8 < f 30 1),
    (31, f 31 1 == 0 || 16 < f 31 1), (32, 96 < f 32 2), (34, 16 < f 34 1), (35, 3 < f 35 1 || (f 35 1 == 2 && dieCount s == 1))])
    (firstNonzero b 40 24)

/-- The units of a launch's shares before any is placed (R81). -/
def freshUnits (s : State) (die : Nat) : List (Nat × Nat) :=
  if die == 3 then (if dieCount s == 2 then [(0, 0), (1, 1)] else [(0, 0)]) else [(if die == 2 then 1 else 0, 0)]

/-- A launch with nothing in it. -/
def Launch.blank : Launch :=
  ⟨.grid, none, 0, 0, 0, 0, 0, 0, false, 0#64, 1, 1, 1, [], [], 0, 1, 0, 0, none, [], none, [], [], none, none⟩

/-- The launch that a LAUNCH_GRID body describes; `home` is the die that DIE = 0 means. -/
def gridLaunch (s : State) (b : List Byte) (home : Nat) : Launch :=
  let f := recField b
  let die := if f 35 1 == 0 then home + 1 else f 35 1
  { Launch.blank with
    kind := .grid, arg := BitVec.ofNat 64 (f 16 8), nx := f 24 2, ny := f 26 2, nz := f 28 2, count := f 24 2 * f 26 2 * f 28 2, die := die
    kernels := [⟨BitVec.ofNat 64 (f 8 8), 0, f 30 1, f 31 1, f 32 2, f 34 1⟩], units := freshUnits s die }

/-! ## LAUNCH (R486) -/

/-- A page fault of an instruction whose access is not a thread's ordinary one: the group stops, and the fault is raised (R140, R156). -/
def opFault (s : State) (cid slot op va sub lvl : Nat) (k : AccKind) : State :=
  match (groupOf s cid slot).bind fun g => opOf g op with
  | none => s
  | some o =>
    let s1 := modGroup s cid slot fun g => modOp g op fun o => { o with faulted := o.todo }
    raiseAll (stopGroup s1 cid slot (faultStop sub lvl va o.todo)) cid slot 0 [(va, sub, lvl, k)]

/-- LAUNCH writes its result, and is done (R486). -/
def endLaunchOp (s : State) (cid slot : Nat) (o : Op) (d : Word) : State :=
  modGroup s cid slot fun g =>
    finishLanes ((lanesOf o.todo).foldl (fun g t => writeResult g t ((destRegs o.instr).map fun v => (v, ⟨d, 12#4⟩))) g) o.id o.todo true

/-- LAUNCH goes on: with its record read, its stamp and its fit are checked, its release waits, an entry of the placement list is awaited, and
the child grid enters (R100, R105, R231, R486). -/
def launchOn (s : State) (cid slot : Nat) (g : Group) (o : Op) (b : List Byte) : State :=
  let again := fun (s : State) => due s .placementRecordArrival { n0 := cid, n1 := slot, n2 := o.id, flag := true, bytes := b }
  match teamOf s g.team, launchOfGroup s g with
  | some tm, some parent =>
    let header := recField b 0 1 == 1 && (firstNonzero b 1 3).isNone && (firstNonzero b 36 4).isNone
    if !header || (gridBad s b).isSome then endLaunchOp s cid slot o 1#32 else
      let l := { gridLaunch s b (cid / 128) with
        parent := some tm.launch, fn := parent.fn, q := parent.q, rec_ := parent.rec_, depth := parent.depth + 1, priority := parent.priority
        asid := parent.asid, supervisor := parent.supervisor, limit := parent.limit, acquire := parent.acquire }
      match readStamps s cid l.asid l.fn l.supervisor false l.kernels with
      | (.wait s1, _) => again s1
      | (.fault va x y, _) => opFault s cid slot o.id va x y .execute
      | (.poison va, _) => lateTrap s cid slot o.id (lowestLane o.todo) 0x12 va
      | (.down va, _) => lateTrap s cid slot o.id (lowestLane o.todo) 0x13 va
      | (.wrong, _) => endLaunchOp s cid slot o 1#32
      | (.base _ s1, ks) =>
        if !(fitsAtAll s l) then endLaunchOp s1 cid slot o 1#32
        else if contextAway s l then again s1
        else if !(releaseReady s1 cid slot (lowestLane o.todo) 3 o.id) || (diesOfLaunch s l).any (fun d => !(listRoom s1 d true)) then again s1
        else
          let (id, s2) := takeId s1
          let s3 := { s2 with launches := place s2.launches id { l with kernels := ks } }
          endLaunchOp ((diesOfLaunch s l).foldl (fun s d => enterList (noteLaunch s d { l with kernels := ks }) d id) s3) cid slot o 0#32
  | _, _ => s

/-- LAUNCH reads its record as a load, in its place among the accesses of its thread (R224, R228, R486). -/
def launchRead (s : State) (cid slot op : Nat) (b : List Byte) : State :=
  match groupOf s cid slot with
  | none => s
  | some g =>
    match opOf g op with
    | none => s
    | some o =>
      if !b.isEmpty then launchOn s cid slot g o b else
        let va := (nth 0#64 o.addrs (lowestLane o.todo)).toNat
        if !(mayPerform s cid g o (lowestLane o.todo)) then due s .placementRecordArrival { n0 := cid, n1 := slot, n2 := op, flag := true } else
        match readVirt s cid (asidOf s g) (fnOfGroup s g) va 64 .read g.supervisor with
        | .bytes r s1 => launchOn s1 cid slot g o r
        | .wait s1 => due s1 .placementRecordArrival { n0 := cid, n1 := slot, n2 := op, flag := true }
        | .fault x y => opFault s cid slot op va x y .read
        | .poison => lateTrap s cid slot op (lowestLane o.todo) 0x12 va
        | .down _ => lateTrap s cid slot op (lowestLane o.todo) 0x13 va

/-- launch d, [a]: in the team leader only (R486). -/
def execLaunch (x : Bool) (d a : RegIx) (s : State) : Out :=
  issueOn (.launch x d a) s fun s e =>
    let addr := fun (g : Group) (t : Nat) => (srcPair s.iss g t a.toNat)
    let leader := fun (g : Group) (t : Nat) => g.index == 0 && t == 0
    let deep := match (issGroup s).bind (launchOfGroup s) with | some l => l.depth == 10 | none => false
    let p0 := operandCheck 0x07 false (fun g t => if leader g t && !((addr g t).toNat % 64 == 0) then some (addr g t).toNat else none) (s, e)
    let p1 := operandCheck 0x0A false (fun g t => if leader g t then none else some 0) p0
    let p2 := operandCheck 0x0B false (fun _ _ => if deep then some 0 else none) p1
    if p2.2 = 0#32 then p2.1 else
      match issGroup p2.1 with
      | none => p2.1
      | some g =>
        let (op, s1) := beginOp (.launch x d a) p2.1 p2.2 (addr g)
        launchRead (onGroup s1 fun g => advance s.iss 1 p2.2 g) s.iss.cid s.iss.slot op []

/-- PLACEMENT_RECORD_ARRIVAL: the record of launch `n1` reaches the placement unit of die `n0` (R76, R110, R361; `n2` is 1 when it has passed its
checks and waited for an entry); or, with `flag`, the LAUNCH `n2` of slot `n1` of core `n0`, whose record stands in `bytes` once read, goes on. -/
def execPlacementRecordArrival (s : State) : Out :=
  let a := s.args
  .next (if a.flag then launchRead s a.n0 a.n1 a.n2 a.bytes else arriveRecord s a.n0 a.n1 (a.n2 == 1))

/-! ## EMIT (R487) -/

/-- emit a, b: each thread sends a continuation record to the pool of its launch, once its release at die scope has waited (R487). -/
def execEmit (x : Bool) (a b : RegIx) (s : State) : Out :=
  issueOn (.emit x a b) s fun s e =>
    let pool : Group → Bool := fun g => match launchOfGroup s g with | some l => decide (l.kind = .pool) | none => false
    let p0 := operandCheck 0x07 false (fun g t =>
      let v := (srcVal s.iss g t a.toNat).toNat
      if v % 4 == 0 then none else some v) (s, e)
    let p := operandCheck 0x02 false (fun g _ => if pool g then none else some 0) p0
    if p.2 = 0#32 then p.1 else
      match issGroup p.1 with
      | none => p.1
      | some g =>
        let (op, s1) := beginOp (.emit x a b) p.1 p.2 fun _ => 0#64
        let s2 := onGroup s1 fun g => advance s.iss 1 p.2 g
        let launch := ((teamOf s g.team).map (·.launch)).getD 0
        (lanesOf p.2).foldl (fun s t =>
          let w := fun (v : Nat) => (srcVal s.iss g t v).toNat
          let r := leBytes 4 (w a.toNat) ++ leBytes 2 (w (a.toNat + 1)) ++ leBytes 10 0 ++ (List.range 12).flatMap fun k => leBytes 4 (w (b.toNat + k))
          due s .poolRecordDeliver { n0 := s.iss.cid / 128, n1 := launch, n2 := op, n3 := (16 * s.iss.cid + s.iss.slot) * 32 + t, bytes := r }) s2

/-! ## The resolution of traps (R155) -/

/-- Set the status of the entries of a frame whose EMIT has stalled for good to DROP (R155). -/
def dropEmits (s : State) (st : Stop) : State :=
  ((List.range st.entries.length).filter fun e => st.drops.contains (nth 0 st.seqs e)).foldl
    (fun s e => { s with mem := writeNat s.mem (st.frame + 1024 + 640 * e + 20) 1 3 }) s

/-- What Soliracor makes of the trap of a stopped group (R155).  A group that stays stopped for another cause resumes with that (R161). -/
def resolveTrap (s : State) (cid slot : Nat) (g : Group) (st : Stop) : State :=
  match (teamOf s g.team).map (·.launch) with
  | none => s
  | some l =>
    if st.code == 0x0E then endLaunch s l 8 0
    else if st.code == 0x0C then
      resumeGroup (restateStop (dropEmits s st) cid slot fun x => { x with code := 0, causes := x.causes &&& 0xE, drops := [] }) cid slot
    else endLaunch s l 4 st.code

/-- TRAP_RESOLUTION: Soliracor resolves the trap of the group in slot `n1` of core `n0`.  A debugger attached to its context has it first: the
resolution then follows its release (R155, R161). -/
def execTrapResolution (s : State) : Out :=
  let cid := s.args.n0
  let slot := s.args.n1
  match groupOf s cid slot with
  | none => .next s
  | some g =>
    match g.stop with
    | none => .next s
    | some st => .next (if st.code == 0 || (attachedTo s g && !st.resolved) then s else resolveTrap s cid slot g st)

end Sys2Proof.Machine
end

