-- ==== Sys2Proof/Machine/Integer.lean ====
section
/-! DEFINITION.  Integer, logical, shift, bit-field, address, compare, select and group instructions and the indexed moves (R367 to R377, R382). -/

namespace Sys2Proof.Machine

/-- An INT32-tagged register value (R250). -/
def int32 (v : Word) : Reg := ⟨v, 12#4⟩

/-- A pair of INT32-tagged registers (R371). -/
def int64 (d : RegIx) (v : Dword) : List (Nat × Reg) := [(d.toNat, int32 (loWord v)), (d.toNat + 1, int32 (hiWord v))]

/-- One result from one source. -/
def unary (i : Instr) (d a : RegIx) (s : State) (f : Word → Word) : Out :=
  compute i s fun g t => [(d.toNat, int32 (f (srcVal s.iss g t a.toNat)))]

/-- One result from two sources. -/
def binary (i : Instr) (d a b : RegIx) (s : State) (f : Word → Word → Word) : Out :=
  compute i s fun g t => [(d.toNat, int32 (f (srcVal s.iss g t a.toNat) (srcVal s.iss g t b.toNat)))]

/-- One 64-bit result from a pair. -/
def unary64 (i : Instr) (d a : RegIx) (s : State) (f : Dword → Dword) : Out :=
  compute i s fun g t => int64 d (f (srcPair s.iss g t a.toNat))

/-- One 64-bit result from two pairs. -/
def binary64 (i : Instr) (d a b : RegIx) (s : State) (f : Dword → Dword → Dword) : Out :=
  compute i s fun g t => int64 d (f (srcPair s.iss g t a.toNat) (srcPair s.iss g t b.toNat))

/-- The 7-bit immediate, sign-extended (R343). -/
def sxImm (i : BitVec 7) : Word := i.signExtend 32

/-- A shift of R368: an amount at or above the width shifts everything out. `kind`: 0 left, 1 logical right, 2 arithmetic right. -/
def shiftBits {w : Nat} (kind : Nat) (x : BitVec w) (n : Nat) : BitVec w :=
  if w ≤ n then (if kind == 2 && x.msb then BitVec.allOnes w else 0#w)
  else if kind == 0 then x <<< n else if kind == 1 then x >>> n else x.sshiftRight n

/-- Clamp to the signed 32-bit range. -/
def clamp32 (n : Int) : Word := BitVec.ofInt 32 (max (-2147483648) (min 2147483647 n))

/-- Number of 1 bits. -/
def popcount (w : Word) : Nat := ((List.range 32).filter fun k => w.getLsbD k).length

/-- Number of leading 0 bits. -/
def leadingZeros (w : Word) : Nat := if w = 0#32 then 32 else 31 - Nat.log2 w.toNat

/-- Reversed bits (R367). -/
def reverseBits (w : Word) : Word := (List.range 32).foldl (fun r k => if w.getLsbD (31 - k) then r ||| (1#32 <<< k) else r) 0#32

/-- A mask of `n` ones. -/
def onesMask (n : Nat) : Word := BitVec.ofNat 32 (2 ^ n - 1)

/-- POS of a field literal (R369). -/
def fieldPos (lit : Word) : Nat := fieldOf lit 0 5
/-- WIDTH of a field literal (R369). -/
def fieldWidth (lit : Word) : Nat := fieldOf lit 8 6

/-- The bit field of R369, zero-extended. -/
def extractField (a lit : Word) : Word := (a >>> fieldPos lit) &&& onesMask (fieldWidth lit)

/-- The bit field of R369, sign-extended from its top bit. -/
def extractSigned (a lit : Word) : Word :=
  if a.getLsbD (fieldPos lit + fieldWidth lit - 1) then extractField a lit ||| ~~~(onesMask (fieldWidth lit)) else extractField a lit

/-- BFI (R369). -/
def insertField (d a lit : Word) : Word :=
  (d &&& ~~~(onesMask (fieldWidth lit) <<< fieldPos lit)) ||| ((a &&& onesMask (fieldWidth lit)) <<< fieldPos lit)

/-- MOV.b32: the value with its tag (R250, R367). -/
def execMovB32 (x : Bool) (d a : RegIx) (s : State) : Out :=
  compute (.movB32 x d a) s fun g t => [(d.toNat, srcReg s.iss g t a.toNat)]

/-- MOV.b32 of a literal, tagged RAW (R367). -/
def execMovB32Lit (x : Bool) (d : RegIx) (lit : Word) (s : State) : Out :=
  compute (.movB32Lit x d lit) s fun _ _ => [(d.toNat, ⟨lit, 0#4⟩)]

/-- MOV.b64 (R367). -/
def execMovB64 (x : Bool) (d a : RegIx) (s : State) : Out :=
  compute (.movB64 x d a) s fun g t => [(d.toNat, srcReg s.iss g t a.toNat), (d.toNat + 1, srcReg s.iss g t (a.toNat + 1))]

/-- MOV.s64 of a sign-extended literal, both tags RAW (R367). -/
def execMovS64Lit (x : Bool) (d : RegIx) (lit : Word) (s : State) : Out :=
  compute (.movS64Lit x d lit) s fun _ _ => [(d.toNat, ⟨lit, 0#4⟩), (d.toNat + 1, ⟨hiWord (lit.signExtend 64), 0#4⟩)]

/-- IADD (R367). -/
def execIaddS32 (x : Bool) (d a b : RegIx) (s : State) : Out := binary (.iaddS32 x d a b) d a b s fun p q => p + q
/-- IADD with an immediate (R367). -/
def execIaddS32Imm (x : Bool) (d a : RegIx) (i : BitVec 7) (s : State) : Out := unary (.iaddS32Imm x d a i) d a s fun p => p + sxImm i
/-- IADD with a literal (R367). -/
def execIaddS32Lit (x : Bool) (d a : RegIx) (lit : Word) (s : State) : Out := unary (.iaddS32Lit x d a lit) d a s fun p => p + lit
/-- ISUB (R367). -/
def execIsubS32 (x : Bool) (d a b : RegIx) (s : State) : Out := binary (.isubS32 x d a b) d a b s fun p q => p - q
/-- IMUL (R367). -/
def execImulS32 (x : Bool) (d a b : RegIx) (s : State) : Out := binary (.imulS32 x d a b) d a b s fun p q => p * q
/-- IMUL with a literal (R367). -/
def execImulS32Lit (x : Bool) (d a : RegIx) (lit : Word) (s : State) : Out := unary (.imulS32Lit x d a lit) d a s fun p => p * lit
/-- IMULHI.s32 (R367). -/
def execImulhiS32 (x : Bool) (d a b : RegIx) (s : State) : Out :=
  binary (.imulhiS32 x d a b) d a b s fun p q => hiWord (p.signExtend 64 * q.signExtend 64)
/-- IMULHI.n32 (R367). -/
def execImulhiN32 (x : Bool) (d a b : RegIx) (s : State) : Out :=
  binary (.imulhiN32 x d a b) d a b s fun p q => hiWord (p.setWidth 64 * q.setWidth 64)
/-- IMAD (R367). -/
def execImadS32 (x : Bool) (d a b : RegIx) (s : State) : Out :=
  compute (.imadS32 x d a b) s fun g t =>
    [(d.toNat, int32 (srcVal s.iss g t d.toNat + srcVal s.iss g t a.toNat * srcVal s.iss g t b.toNat))]
/-- IADD.s32.sat (R367). -/
def execIaddS32Sat (x : Bool) (d a b : RegIx) (s : State) : Out := binary (.iaddS32Sat x d a b) d a b s fun p q => clamp32 (p.toInt + q.toInt)
/-- ISUB.s32.sat (R367). -/
def execIsubS32Sat (x : Bool) (d a b : RegIx) (s : State) : Out := binary (.isubS32Sat x d a b) d a b s fun p q => clamp32 (p.toInt - q.toInt)
/-- INEG (R367). -/
def execInegS32 (x : Bool) (d a : RegIx) (s : State) : Out := unary (.inegS32 x d a) d a s fun p => 0#32 - p
/-- IMIN.s32 (R367). -/
def execIminS32 (x : Bool) (d a b : RegIx) (s : State) : Out := binary (.iminS32 x d a b) d a b s fun p q => if q.slt p then q else p
/-- IMIN.n32 (R367). -/
def execIminN32 (x : Bool) (d a b : RegIx) (s : State) : Out := binary (.iminN32 x d a b) d a b s fun p q => if q.ult p then q else p
/-- IMAX.s32 (R367). -/
def execImaxS32 (x : Bool) (d a b : RegIx) (s : State) : Out := binary (.imaxS32 x d a b) d a b s fun p q => if p.slt q then q else p
/-- IMAX.n32 (R367). -/
def execImaxN32 (x : Bool) (d a b : RegIx) (s : State) : Out := binary (.imaxN32 x d a b) d a b s fun p q => if p.ult q then q else p
/-- IABS; the most negative number gives itself (R367). -/
def execIabsS32 (x : Bool) (d a : RegIx) (s : State) : Out := unary (.iabsS32 x d a) d a s fun p => if p.msb then 0#32 - p else p
/-- AND (R367). -/
def execAndB32 (x : Bool) (d a b : RegIx) (s : State) : Out := binary (.andB32 x d a b) d a b s fun p q => p &&& q
/-- AND with a literal (R367). -/
def execAndB32Lit (x : Bool) (d a : RegIx) (lit : Word) (s : State) : Out := unary (.andB32Lit x d a lit) d a s fun p => p &&& lit
/-- OR (R367). -/
def execOrB32 (x : Bool) (d a b : RegIx) (s : State) : Out := binary (.orB32 x d a b) d a b s fun p q => p ||| q
/-- OR with a literal (R367). -/
def execOrB32Lit (x : Bool) (d a : RegIx) (lit : Word) (s : State) : Out := unary (.orB32Lit x d a lit) d a s fun p => p ||| lit
/-- XOR (R367). -/
def execXorB32 (x : Bool) (d a b : RegIx) (s : State) : Out := binary (.xorB32 x d a b) d a b s fun p q => p ^^^ q
/-- XOR with a literal (R367). -/
def execXorB32Lit (x : Bool) (d a : RegIx) (lit : Word) (s : State) : Out := unary (.xorB32Lit x d a lit) d a s fun p => p ^^^ lit
/-- ANDN (R367). -/
def execAndnB32 (x : Bool) (d a b : RegIx) (s : State) : Out := binary (.andnB32 x d a b) d a b s fun p q => p &&& ~~~q
/-- NOT (R367). -/
def execNotB32 (x : Bool) (d a : RegIx) (s : State) : Out := unary (.notB32 x d a) d a s fun p => ~~~p
/-- SHL (R368). -/
def execShlB32 (x : Bool) (d a b : RegIx) (s : State) : Out := binary (.shlB32 x d a b) d a b s fun p q => shiftBits 0 p q.toNat
/-- SHL by an immediate (R368). -/
def execShlB32Imm (x : Bool) (d a : RegIx) (i : BitVec 7) (s : State) : Out := unary (.shlB32Imm x d a i) d a s fun p => shiftBits 0 p i.toNat
/-- SHR.n32 (R368). -/
def execShrN32 (x : Bool) (d a b : RegIx) (s : State) : Out := binary (.shrN32 x d a b) d a b s fun p q => shiftBits 1 p q.toNat
/-- SHR.n32 by an immediate (R368). -/
def execShrN32Imm (x : Bool) (d a : RegIx) (i : BitVec 7) (s : State) : Out := unary (.shrN32Imm x d a i) d a s fun p => shiftBits 1 p i.toNat
/-- SHR.s32 (R368). -/
def execShrS32 (x : Bool) (d a b : RegIx) (s : State) : Out := binary (.shrS32 x d a b) d a b s fun p q => shiftBits 2 p q.toNat
/-- SHR.s32 by an immediate (R368). -/
def execShrS32Imm (x : Bool) (d a : RegIx) (i : BitVec 7) (s : State) : Out := unary (.shrS32Imm x d a i) d a s fun p => shiftBits 2 p i.toNat
/-- BFX.n32 (R369). -/
def execBfxN32 (x : Bool) (d a : RegIx) (lit : Word) (s : State) : Out := unary (.bfxN32 x d a lit) d a s fun p => extractField p lit
/-- BFX.s32 (R369). -/
def execBfxS32 (x : Bool) (d a : RegIx) (lit : Word) (s : State) : Out := unary (.bfxS32 x d a lit) d a s fun p => extractSigned p lit
/-- BFI (R369). -/
def execBfiB32 (x : Bool) (d a : RegIx) (lit : Word) (s : State) : Out :=
  compute (.bfiB32 x d a lit) s fun g t => [(d.toNat, int32 (insertField (srcVal s.iss g t d.toNat) (srcVal s.iss g t a.toNat) lit))]
/-- POPC (R367). -/
def execPopcB32 (x : Bool) (d a : RegIx) (s : State) : Out := unary (.popcB32 x d a) d a s fun p => BitVec.ofNat 32 (popcount p)
/-- CLZ (R367). -/
def execClzB32 (x : Bool) (d a : RegIx) (s : State) : Out := unary (.clzB32 x d a) d a s fun p => BitVec.ofNat 32 (leadingZeros p)
/-- BREV (R367). -/
def execBrevB32 (x : Bool) (d a : RegIx) (s : State) : Out := unary (.brevB32 x d a) d a s reverseBits
/-- IADD.s64 (R367). -/
def execIaddS64 (x : Bool) (d a b : RegIx) (s : State) : Out := binary64 (.iaddS64 x d a b) d a b s fun p q => p + q
/-- IADD.s64 with a literal (R367). -/
def execIaddS64Lit (x : Bool) (d a : RegIx) (lit : Word) (s : State) : Out := unary64 (.iaddS64Lit x d a lit) d a s fun p => p + lit.signExtend 64
/-- ISUB.s64 (R367). -/
def execIsubS64 (x : Bool) (d a b : RegIx) (s : State) : Out := binary64 (.isubS64 x d a b) d a b s fun p q => p - q
/-- LEA.s32 (R367, R370). -/
def execLeaS32 (x : Bool) (d a b : RegIx) (lit : Word) (s : State) : Out :=
  compute (.leaS32 x d a b lit) s fun g t =>
    int64 d (srcPair s.iss g t a.toNat + ((srcVal s.iss g t b.toNat).signExtend 64 <<< fieldOf lit 0 3))
/-- LEA.n32 (R367, R370). -/
def execLeaN32 (x : Bool) (d a b : RegIx) (lit : Word) (s : State) : Out :=
  compute (.leaN32 x d a b lit) s fun g t =>
    int64 d (srcPair s.iss g t a.toNat + ((srcVal s.iss g t b.toNat).setWidth 64 <<< fieldOf lit 0 3))
/-- SHL.b64 (R368). -/
def execShlB64 (x : Bool) (d a : RegIx) (i : BitVec 7) (s : State) : Out := unary64 (.shlB64 x d a i) d a s fun p => shiftBits 0 p i.toNat
/-- SHR.n64 (R368). -/
def execShrN64 (x : Bool) (d a : RegIx) (i : BitVec 7) (s : State) : Out := unary64 (.shrN64 x d a i) d a s fun p => shiftBits 1 p i.toNat
/-- SHR.s64 (R368). -/
def execShrS64 (x : Bool) (d a : RegIx) (i : BitVec 7) (s : State) : Out := unary64 (.shrS64 x d a i) d a s fun p => shiftBits 2 p i.toNat
/-- IMULW.s32 (R367). -/
def execImulwS32 (x : Bool) (d a b : RegIx) (s : State) : Out :=
  compute (.imulwS32 x d a b) s fun g t => int64 d ((srcVal s.iss g t a.toNat).signExtend 64 * (srcVal s.iss g t b.toNat).signExtend 64)
/-- IMULW.n32 (R367). -/
def execImulwN32 (x : Bool) (d a b : RegIx) (s : State) : Out :=
  compute (.imulwN32 x d a b) s fun g t => int64 d ((srcVal s.iss g t a.toNat).setWidth 64 * (srcVal s.iss g t b.toNat).setWidth 64)

/-! ## Compare and select (R372, R373) -/

/-- ICMP.s32 (R372). -/
def execIcmpS32 (x : Bool) (c : BitVec 3) (d a b : RegIx) (s : State) : Out :=
  compute (.icmpS32 x c d a b) s fun g t =>
    [(d.toNat, boolReg (condition c.toNat (srcVal s.iss g t a.toNat).toInt (srcVal s.iss g t b.toNat).toInt))]
/-- ICMP.n32 (R372). -/
def execIcmpN32 (x : Bool) (c : BitVec 3) (d a b : RegIx) (s : State) : Out :=
  compute (.icmpN32 x c d a b) s fun g t =>
    [(d.toNat, boolReg (condition c.toNat (srcVal s.iss g t a.toNat).toNat (srcVal s.iss g t b.toNat).toNat))]
/-- ICMP.s32 with a literal (R372). -/
def execIcmpS32Lit (x : Bool) (c : BitVec 3) (d a : RegIx) (lit : Word) (s : State) : Out :=
  compute (.icmpS32Lit x c d a lit) s fun g t => [(d.toNat, boolReg (condition c.toNat (srcVal s.iss g t a.toNat).toInt lit.toInt))]
/-- SEL.b32: the condition is the old d; the value keeps its tag (R373). -/
def execSelB32 (x : Bool) (d a b : RegIx) (s : State) : Out :=
  compute (.selB32 x d a b) s fun g t =>
    [(d.toNat, if srcVal s.iss g t d.toNat = 0#32 then srcReg s.iss g t b.toNat else srcReg s.iss g t a.toNat)]
/-- SEL.b64: the condition is the even register of d (R372). -/
def execSelB64 (x : Bool) (d a b : RegIx) (s : State) : Out :=
  compute (.selB64 x d a b) s fun g t =>
    let v := if srcVal s.iss g t d.toNat = 0#32 then b.toNat else a.toNat
    [(d.toNat, srcReg s.iss g t v), (d.toNat + 1, srcReg s.iss g t (v + 1))]
/-- ICMP.eq.b64 (R372). -/
def execIcmpEqB64 (x : Bool) (d a b : RegIx) (s : State) : Out :=
  compute (.icmpEqB64 x d a b) s fun g t => [(d.toNat, boolReg (srcPair s.iss g t a.toNat == srcPair s.iss g t b.toNat))]
/-- ICMP.lt.s64 (R372). -/
def execIcmpLtS64 (x : Bool) (d a b : RegIx) (s : State) : Out :=
  compute (.icmpLtS64 x d a b) s fun g t => [(d.toNat, boolReg ((srcPair s.iss g t a.toNat).slt (srcPair s.iss g t b.toNat)))]
/-- ICMP.lt.n64 (R372). -/
def execIcmpLtN64 (x : Bool) (d a b : RegIx) (s : State) : Out :=
  compute (.icmpLtN64 x d a b) s fun g t => [(d.toNat, boolReg ((srcPair s.iss g t a.toNat).ult (srcPair s.iss g t b.toNat)))]

/-! ## Group operations (R374 to R377) -/

/-- An instruction whose result depends on the lanes that execute it: `f` also receives E. -/
def computeOver (i : Instr) (s : State) (f : Lanes → Group → Nat → List (Nat × Reg)) : Out :=
  issueOn i s fun s e => onGroup s (writeBack s.iss (lengthOf i) e (f e))

/-- The lanes of E whose value satisfies a test. -/
def lanesWith (e : Lanes) (p : Nat → Bool) : Lanes := laneSet ((lanesOf e).filter p)

/-- VOTE.ballot (R374). -/
def execVoteBallot (x : Bool) (d a : RegIx) (s : State) : Out :=
  computeOver (.voteBallot x d a) s fun e g _ => [(d.toNat, int32 (lanesWith e fun u => !(srcVal s.iss g u a.toNat = 0#32)))]
/-- VOTE.any (R374). -/
def execVoteAny (x : Bool) (d a : RegIx) (s : State) : Out :=
  computeOver (.voteAny x d a) s fun e g _ => [(d.toNat, boolReg ((lanesOf e).any fun u => !(srcVal s.iss g u a.toNat = 0#32)))]
/-- VOTE.all (R374). -/
def execVoteAll (x : Bool) (d a : RegIx) (s : State) : Out :=
  computeOver (.voteAll x d a) s fun e g _ => [(d.toNat, boolReg ((lanesOf e).all fun u => !(srcVal s.iss g u a.toNat = 0#32)))]

/-- What a shuffle gives thread t from source lane u, computed exactly: the value and tag of u when u is a lane of E, else of t (R375). -/
def shuffled (iss : Issue) (e : Lanes) (g : Group) (t a : Nat) (u : Int) : Reg :=
  if 0 ≤ u && u ≤ 31 && e.getLsbD u.toNat then srcReg iss g u.toNat a else srcReg iss g t a

/-- SHFL.idx (R374, R375). -/
def execShflIdx (x : Bool) (d a b : RegIx) (s : State) : Out :=
  computeOver (.shflIdx x d a b) s fun e g t => [(d.toNat, shuffled s.iss e g t a.toNat (srcVal s.iss g t b.toNat).toNat)]
/-- SHFL.up (R374, R375). -/
def execShflUp (x : Bool) (d a b : RegIx) (s : State) : Out :=
  computeOver (.shflUp x d a b) s fun e g t => [(d.toNat, shuffled s.iss e g t a.toNat ((t : Int) - (srcVal s.iss g t b.toNat).toNat))]
/-- SHFL.down (R374, R375). -/
def execShflDown (x : Bool) (d a b : RegIx) (s : State) : Out :=
  computeOver (.shflDown x d a b) s fun e g t => [(d.toNat, shuffled s.iss e g t a.toNat ((t : Int) + (srcVal s.iss g t b.toNat).toNat))]
/-- SHFL.xor (R374, R375). -/
def execShflXor (x : Bool) (d a b : RegIx) (s : State) : Out :=
  computeOver (.shflXor x d a b) s fun e g t =>
    [(d.toNat, shuffled s.iss e g t a.toNat ((BitVec.ofNat 32 t ^^^ srcVal s.iss g t b.toNat).toNat : Nat))]
/-- SHFL.down with an immediate (R374, R375). -/
def execShflDownImm (x : Bool) (d a : RegIx) (i : BitVec 5) (s : State) : Out :=
  computeOver (.shflDownImm x d a i) s fun e g t => [(d.toNat, shuffled s.iss e g t a.toNat ((t : Int) + i.toNat))]
/-- SHFL.xor with an immediate (R374, R375). -/
def execShflXorImm (x : Bool) (d a : RegIx) (i : BitVec 5) (s : State) : Out :=
  computeOver (.shflXorImm x d a i) s fun e g t => [(d.toNat, shuffled s.iss e g t a.toNat ((BitVec.ofNat 5 t ^^^ i).toNat : Nat))]
/-- MATCH (R374). -/
def execMatchB32 (x : Bool) (d a : RegIx) (s : State) : Out :=
  computeOver (.matchB32 x d a) s fun e g t =>
    [(d.toNat, int32 (lanesWith e fun u => srcVal s.iss g u a.toNat = srcVal s.iss g t a.toNat))]

/-- The combination of GRED with operation code `o` (R377). -/
def gredOp (o : Nat) (p q : Word) : Word :=
  if o == 0 then p + q
  else if o == 1 then (if q.slt p then q else p)
  else if o == 2 then (if p.slt q then q else p)
  else if o == 3 then (if q.ult p then q else p)
  else if o == 4 then (if p.ult q then q else p)
  else if o == 5 then p &&& q
  else if o == 6 then p ||| q
  else p ^^^ q

/-- GRED over E (R377). -/
def execGred (x : Bool) (d a : RegIx) (o : BitVec 3) (s : State) : Out :=
  computeOver (.gred x d a o) s fun e g _ =>
    match (lanesOf e).map fun u => srcVal s.iss g u a.toNat with
    | [] => []
    | v :: r => [(d.toNat, int32 (r.foldl (gredOp o.toNat) v))]

/-! ## Indexed moves (R382) -/

/-- The REG_RANGE check of an indexed move (R382): the index, and for a pair its evenness and its odd register. -/
def indexBad (pair : Bool) (g : Group) (idx : Nat) : Bool := regBound g ≤ idx || (pair && (idx % 2 == 1 || regBound g ≤ idx + 1))

/-- Lanes in a region whose log has no room for the registers a computed index names (R442). -/
def indexLogFull (pair : Bool) (g : Group) (e : Lanes) (idx : Nat → Nat) : Lanes :=
  laneSet ((lanesOf (regionLanes g e)).filter fun t =>
    match (threadOf g t).region with
    | some r => 32 < r.log.length + (((if pair then [idx t, idx t + 1] else [idx t]).filter fun v =>
        !(r.quad ≤ v && v < r.quad + 4) && !(r.log.any fun w => w.1 == v)).length)
    | none => false)

/-- An indexed move: the check of step 8 comes first, then the registers that `f` gives for the index. `wr` says that the index names the destination. -/
def indexed (i : Instr) (pair wr : Bool) (ix : RegIx) (s : State) (f : Group → Nat → Nat → List (Nat × Reg)) : Out :=
  issueOn i s fun s e =>
    let idx := fun (g : Group) (t : Nat) => (srcVal s.iss g t ix.toNat).toNat
    let p := operandCheck 0x04 false (fun g t => if indexBad pair g (idx g t) then some 0 else none) (s, e)
    let full := match issGroup p.1 with
      | some g => if wr then indexLogFull pair g p.2 (idx g) else 0#32
      | none => 0#32
    let s1 := abortLanes p.1 s.iss.cid s.iss.slot full 0x05 0 0#64
    onGroup s1 (writeBack s1.iss (lengthOf i) (stillThere s1 (p.2 &&& ~~~full)) fun g t => f g t (idx g t))

/-- MOVX.rd (R382). -/
def execMovxRd (x : Bool) (d a : RegIx) (s : State) : Out :=
  indexed (.movxRd x d a) false false a s fun g t k => [(d.toNat, regOf g t k)]
/-- MOVX.wr (R382); the register written inside a region is logged like any other. -/
def execMovxWr (x : Bool) (d a : RegIx) (s : State) : Out :=
  indexed (.movxWr x d a) false true d s fun g t k => [(k, srcReg s.iss g t a.toNat)]
/-- MOVX.rd.b64 (R382). -/
def execMovxRdB64 (x : Bool) (d a : RegIx) (s : State) : Out :=
  indexed (.movxRdB64 x d a) true false a s fun g t k => [(d.toNat, regOf g t k), (d.toNat + 1, regOf g t (k + 1))]
/-- MOVX.wr.b64 (R382). -/
def execMovxWrB64 (x : Bool) (d a : RegIx) (s : State) : Out :=
  indexed (.movxWrB64 x d a) true true d s fun g t k => [(k, srcReg s.iss g t a.toNat), (k + 1, srcReg s.iss g t (a.toNat + 1))]

end Sys2Proof.Machine
end

