-- ==== Sys2Proof/Machine/Float.lean ====
section
/-! DEFINITION.  FP32, packed FP16 and BF16, and the correctly rounded functions (R395 to R400). -/

namespace Sys2Proof.Machine

/-- An FP32-tagged register value (R250, R410). -/
def fpReg (n : Nat) : Reg := ⟨BitVec.ofNat 32 n, 1#4⟩

/-- One FP32 result from two sources. -/
def fp2 (i : Instr) (d a b : RegIx) (s : State) (f : Nat → Nat → Nat) : Out :=
  compute i s fun g t => [(d.toNat, fpReg (f (srcVal s.iss g t a.toNat).toNat (srcVal s.iss g t b.toNat).toNat))]

/-- One FP32 result from one source. -/
def fp1 (i : Instr) (d a : RegIx) (s : State) (f : Nat → Nat) : Out :=
  compute i s fun g t => [(d.toNat, fpReg (f (srcVal s.iss g t a.toNat).toNat))]

/-- FADD (R395, R396). -/
def execFaddF32 (x : Bool) (r : BitVec 2) (d a b : RegIx) (s : State) : Out :=
  fp2 (.faddF32 x r d a b) d a b s fun p q => faddEnc fp32 (rmode r.toNat) p q
/-- FSUB (R395, R396). -/
def execFsubF32 (x : Bool) (r : BitVec 2) (d a b : RegIx) (s : State) : Out :=
  fp2 (.fsubF32 x r d a b) d a b s fun p q => fsubEnc fp32 (rmode r.toNat) p q
/-- FMUL (R395, R396). -/
def execFmulF32 (x : Bool) (r : BitVec 2) (d a b : RegIx) (s : State) : Out :=
  fp2 (.fmulF32 x r d a b) d a b s fun p q => fmulEnc fp32 (rmode r.toNat) p q
/-- FFMA: a × b + old d, one rounding (R396). -/
def execFfmaF32 (x : Bool) (r : BitVec 2) (d a b : RegIx) (s : State) : Out :=
  compute (.ffmaF32 x r d a b) s fun g t =>
    [(d.toNat, fpReg (ffmaEnc fp32 (rmode r.toNat) (srcVal s.iss g t a.toNat).toNat (srcVal s.iss g t b.toNat).toNat
      (srcVal s.iss g t d.toNat).toNat))]
/-- FMIN (R397). -/
def execFminF32 (x : Bool) (d a b : RegIx) (s : State) : Out := fp2 (.fminF32 x d a b) d a b s (fminmaxEnc fp32 false)
/-- FMAX (R397). -/
def execFmaxF32 (x : Bool) (d a b : RegIx) (s : State) : Out := fp2 (.fmaxF32 x d a b) d a b s (fminmaxEnc fp32 true)
/-- FNEG: bit 31 inverted (R396). -/
def execFnegF32 (x : Bool) (d a : RegIx) (s : State) : Out :=
  compute (.fnegF32 x d a) s fun g t => [(d.toNat, ⟨srcVal s.iss g t a.toNat ^^^ 0x80000000#32, 1#4⟩)]
/-- FABS: bit 31 cleared (R396). -/
def execFabsF32 (x : Bool) (d a : RegIx) (s : State) : Out :=
  compute (.fabsF32 x d a) s fun g t => [(d.toNat, ⟨srcVal s.iss g t a.toNat &&& 0x7FFFFFFF#32, 1#4⟩)]
/-- FCMP with condition c - 4 of R372, as opcode bits 3:0 hold it (R397). -/
def execFcmpF32 (x : Bool) (c : BitVec 4) (d a b : RegIx) (s : State) : Out :=
  compute (.fcmpF32 x c d a b) s fun g t =>
    [(d.toNat, boolReg (fcmpVal (c.toNat - 4) (f32 (srcVal s.iss g t a.toNat)) (f32 (srcVal s.iss g t b.toNat))))]
/-- FCMP.unord (R395). -/
def execFcmpUnordF32 (x : Bool) (d a b : RegIx) (s : State) : Out :=
  compute (.fcmpUnordF32 x d a b) s fun g t =>
    [(d.toNat, boolReg ((f32 (srcVal s.iss g t a.toNat)).isNan || (f32 (srcVal s.iss g t b.toNat)).isNan))]
/-- FCLASS (R397). -/
def execFclassF32 (x : Bool) (d a : RegIx) (s : State) : Out := unary (.fclassF32 x d a) d a s fclassOf
/-- FADD with a literal, RNE (R395). -/
def execFaddF32Lit (x : Bool) (d a : RegIx) (lit : Word) (s : State) : Out :=
  fp1 (.faddF32Lit x d a lit) d a s fun p => faddEnc fp32 .rne p lit.toNat
/-- FMUL with a literal, RNE (R395). -/
def execFmulF32Lit (x : Bool) (d a : RegIx) (lit : Word) (s : State) : Out :=
  fp1 (.fmulF32Lit x d a lit) d a s fun p => fmulEnc fp32 .rne p lit.toNat
/-- FRINT (R396). -/
def execFrintF32 (x : Bool) (r : BitVec 2) (d a : RegIx) (s : State) : Out :=
  compute (.frintF32 x r d a) s fun g t => [(d.toNat, ⟨frintOf (rmode r.toNat) (srcVal s.iss g t a.toNat), 1#4⟩)]
/-- FGRED.add: the exact sum over E, rounded once (R398). -/
def execFgredAddF32 (x : Bool) (d a : RegIx) (s : State) : Out :=
  computeOver (.fgredAddF32 x d a) s fun e g _ =>
    [(d.toNat, ⟨toF32 .rne (sumVals ((lanesOf e).map fun u => f32 (srcVal s.iss g u a.toNat))), 1#4⟩)]

/-- FGRED.min and FGRED.max (R398). -/
def fgredPick (maxi : Bool) (i : Instr) (d a : RegIx) (s : State) : Out :=
  computeOver i s fun e g _ =>
    match (lanesOf e).map fun u => (srcVal s.iss g u a.toNat).toNat with
    | [] => []
    | v :: r => [(d.toNat, fpReg (r.foldl (fminmaxEnc fp32 maxi) (fminmaxEnc fp32 maxi v v)))]
/-- FGRED.min (R398). -/
def execFgredMinF32 (x : Bool) (d a : RegIx) (s : State) : Out := fgredPick false (.fgredMinF32 x d a) d a s
/-- FGRED.max (R398). -/
def execFgredMaxF32 (x : Bool) (d a : RegIx) (s : State) : Out := fgredPick true (.fgredMaxF32 x d a) d a s

/-! ## Packed FP16 and BF16 (R399) -/

/-- The format of opcode bit 3 (R399). -/
def halfFmt (f : BitVec 1) : Fmt := if f == 0#1 then fp16 else bf16
/-- The tag of opcode bit 3 (R399). -/
def halfTag (f : BitVec 1) : BitVec 4 := if f == 0#1 then 2#4 else 3#4
/-- Element k of a packed register (R311). -/
def halfOf (w : Word) (k : Nat) : Nat := (w.extractLsb' (16 * k) 16).toNat
/-- A packed register from its two elements. -/
def packHalf (lo hi : Nat) : Word := BitVec.ofNat 16 hi ++ BitVec.ofNat 16 lo
/-- A packed operation on two sources. -/
def half2 (i : Instr) (f : BitVec 1) (d a b : RegIx) (s : State) (h : Nat → Nat → Nat) : Out :=
  compute i s fun g t =>
    let p := srcVal s.iss g t a.toNat
    let q := srcVal s.iss g t b.toNat
    [(d.toNat, ⟨packHalf (h (halfOf p 0) (halfOf q 0)) (h (halfOf p 1) (halfOf q 1)), halfTag f⟩)]

/-- HADD (R399). -/
def execHadd (x : Bool) (f : BitVec 1) (d a b : RegIx) (s : State) : Out := half2 (.hadd x f d a b) f d a b s (faddEnc (halfFmt f) .rne)
/-- HSUB (R399). -/
def execHsub (x : Bool) (f : BitVec 1) (d a b : RegIx) (s : State) : Out := half2 (.hsub x f d a b) f d a b s (fsubEnc (halfFmt f) .rne)
/-- HMUL (R399). -/
def execHmul (x : Bool) (f : BitVec 1) (d a b : RegIx) (s : State) : Out := half2 (.hmul x f d a b) f d a b s (fmulEnc (halfFmt f) .rne)
/-- HFMA (R399). -/
def execHfma (x : Bool) (f : BitVec 1) (d a b : RegIx) (s : State) : Out :=
  compute (.hfma x f d a b) s fun g t =>
    let p := srcVal s.iss g t a.toNat
    let q := srcVal s.iss g t b.toNat
    let r := srcVal s.iss g t d.toNat
    let h := fun k => ffmaEnc (halfFmt f) .rne (halfOf p k) (halfOf q k) (halfOf r k)
    [(d.toNat, ⟨packHalf (h 0) (h 1), halfTag f⟩)]
/-- HMIN (R399). -/
def execHmin (x : Bool) (f : BitVec 1) (d a b : RegIx) (s : State) : Out := half2 (.hmin x f d a b) f d a b s (fminmaxEnc (halfFmt f) false)
/-- HMAX (R399). -/
def execHmax (x : Bool) (f : BitVec 1) (d a b : RegIx) (s : State) : Out := half2 (.hmax x f d a b) f d a b s (fminmaxEnc (halfFmt f) true)
/-- HNEG: the sign bits inverted (R399). -/
def execHneg (x : Bool) (f : BitVec 1) (d a : RegIx) (s : State) : Out :=
  compute (.hneg x f d a) s fun g t => [(d.toNat, ⟨srcVal s.iss g t a.toNat ^^^ 0x80008000#32, halfTag f⟩)]
/-- HABS: the sign bits cleared (R399). -/
def execHabs (x : Bool) (f : BitVec 1) (d a : RegIx) (s : State) : Out :=
  compute (.habs x f d a) s fun g t => [(d.toNat, ⟨srcVal s.iss g t a.toNat &&& 0x7FFF7FFF#32, halfTag f⟩)]

/-! ## Correctly rounded functions (R400) -/

/-- A function of R315 in the mode of field b. -/
def fpFunction (i : Instr) (k : Nat) (d a : RegIx) (r : BitVec 2) (s : State) : Out :=
  compute i s fun g t => [(d.toNat, ⟨functionOf k (rmode r.toNat) (srcVal s.iss g t a.toNat), 1#4⟩)]
/-- RCP (R315, R400). -/
def execRcpF32 (x : Bool) (d a : RegIx) (r : BitVec 2) (s : State) : Out := fpFunction (.rcpF32 x d a r) 0 d a r s
/-- SQRT (R315, R400). -/
def execSqrtF32 (x : Bool) (d a : RegIx) (r : BitVec 2) (s : State) : Out := fpFunction (.sqrtF32 x d a r) 1 d a r s
/-- RSQ (R315, R400). -/
def execRsqF32 (x : Bool) (d a : RegIx) (r : BitVec 2) (s : State) : Out := fpFunction (.rsqF32 x d a r) 2 d a r s
/-- EXP2 (R315, R400). -/
def execExp2F32 (x : Bool) (d a : RegIx) (r : BitVec 2) (s : State) : Out := fpFunction (.exp2F32 x d a r) 3 d a r s
/-- LOG2 (R315, R400). -/
def execLog2F32 (x : Bool) (d a : RegIx) (r : BitVec 2) (s : State) : Out := fpFunction (.log2F32 x d a r) 4 d a r s
/-- SIN (R315, R400). -/
def execSinF32 (x : Bool) (d a : RegIx) (r : BitVec 2) (s : State) : Out := fpFunction (.sinF32 x d a r) 5 d a r s
/-- COS (R315, R400). -/
def execCosF32 (x : Bool) (d a : RegIx) (r : BitVec 2) (s : State) : Out := fpFunction (.cosF32 x d a r) 6 d a r s

end Sys2Proof.Machine
end

