-- ==== Sys2Proof/Machine/Convert.lean ====
section
/-! DEFINITION.  Conversions, scale-aware packing and unpacking, and tags (R401 to R409), with the element formats of R316 to R318. -/

namespace Sys2Proof.Machine

/-- Bits of one element of a tag code, as placed in a register (R316). -/
def elemBits (k : Nat) : Nat := 32 / tagElems k

/-- The floating format of a tag code, if it has one; TF32 by its 19 significant bits (R309, R318). -/
def tagFmt (k : Nat) : Option Fmt :=
  if k == 1 then some fp32 else if k == 2 then some fp16 else if k == 3 then some bf16 else if k == 4 then some tf32
  else if k == 5 then some e4m3 else if k == 6 then some e5m2 else if k == 7 then some e2m3 else if k == 8 then some e3m2
  else if k == 9 then some e2m1 else if k == 14 then some e3m5 else none

/-- The value of an integer. -/
def intVal (n : Int) : Val := .fin (n < 0) n.natAbs 0

/-- The value of one element, from its bits (R309, R310, R317, R318); `uns` reads a code-12 source unsigned (R404). -/
def elemVal (k : Nat) (uns : Bool) (bits : Nat) : Val :=
  if k == 4 then valueOf tf32 (bits / 2 ^ 13)
  else if k == 7 || k == 8 then valueOf (if k == 7 then e2m3 else e3m2) (bits % 64)
  else if k == 10 then intVal (BitVec.ofNat 8 bits).toInt
  else if k == 11 then intVal (BitVec.ofNat 4 bits).toInt
  else if k == 12 then (if uns then intVal bits else intVal (BitVec.ofNat 32 bits).toInt)
  else if k == 13 then (if bits == 255 then .nan else .fin false 1 ((bits : Int) - 127))
  else match tagFmt k with
    | some f => valueOf f bits
    | none => .fin false 0 0

/-- Clamp a rounded value to an integer range; NaN gives 0 (R329). -/
def toInt (mode : RMode) (lo hi : Int) : Val → Int
  | .nan => 0
  | .inf neg => if neg then lo else hi
  | .fin neg m e => max lo (min hi (if 70 < (Nat.log2 m : Int) + e then (if neg then lo else hi) else roundInt mode neg m e))

/-- Conversion to E8M0 (R404). -/
def toE8m0 (mode : RMode) (sat : Bool) : Val → Nat
  | .nan => 0xFF
  | .inf neg => if neg then 0xFF else if sat then 0xFE else 0xFF
  | .fin neg m e =>
    if neg || m == 0 then 0xFF
    else
      let l := Nat.log2 m
      let k : Int := (l : Int) + e
      let exact := m == 2 ^ l
      let up := match mode with
        | .rz => false
        | .rd => false
        | .ru => !exact
        | .rne => 3 * 2 ^ l < 2 * m || (3 * 2 ^ l == 2 * m && (k + 127) % 2 == 1)
      let k := if up then k + 1 else k
      if k < -127 then 0 else if 127 < k then (if sat then 0xFE else 0xFF) else (k + 127).toNat

/-- Conversion to E3M5 (R404). -/
def toE3m5 (mode : RMode) : Val → Nat
  | .nan => 0
  | .inf neg => if neg then 0 else 0xFF
  | .fin neg m e => if neg || m == 0 then 0 else roundMag e3m5 mode true false m e false

/-- The bits of one converted element (R329, R404). -/
def convertElem (toward : Nat) (mode : RMode) (sat uns : Bool) (v : Val) : Nat :=
  if toward == 4 then roundVal tf32 mode sat v * 2 ^ 13
  else if toward == 10 then (BitVec.ofInt 8 (toInt mode (-128) 127 v)).toNat
  else if toward == 11 then (BitVec.ofInt 4 (toInt mode (-8) 7 v)).toNat
  else if toward == 12 then (BitVec.ofInt 32 (if uns then toInt mode 0 4294967295 v else toInt mode (-2147483648) 2147483647 v)).toNat
  else if toward == 13 then toE8m0 mode sat v
  else if toward == 14 then toE3m5 mode v
  else match tagFmt toward with
    | some f => roundVal f mode sat v
    | none => 0

/-- Element k of a register of a tag code (R316). -/
def elemOf (tag : Nat) (w : Word) (k : Nat) : Nat := w.toNat / 2 ^ (elemBits tag * k) % 2 ^ elemBits tag

/-- A register of a tag code from its elements, counted from element 0. -/
def packElems (tag : Nat) (es : List Nat) : Word :=
  BitVec.ofNat 32 (es.foldr (fun e r => e % 2 ^ elemBits tag + 2 ^ elemBits tag * r) 0)

/-- The tags whose sources a conversion checks (R405). -/
def checkedTag (k : Nat) : Bool := (5 ≤ k && k ≤ 11) || k == 13 || k == 14

/-- A tag check of step 8 (R251, R393): FORMAT in the lanes where a listed register lacks its tag. -/
def tagCheck (want : List (Nat × BitVec 4)) (p : State × Lanes) : State × Lanes :=
  operandCheck 0x05 false
    (fun g t => if want.all fun w => (srcReg p.1.iss g t w.1).tag == w.2 then none else some 0) p

/-- An instruction with a tag check. -/
def computeTagged (i : Instr) (s : State) (want : List (Nat × BitVec 4)) (f : Group → Nat → List (Nat × Reg)) : Out :=
  issueOn i s fun s e =>
    let p := tagCheck want (s, e)
    if p.2 = 0#32 then p.1 else onGroup p.1 (writeBack p.1.iss (lengthOf i) p.2 f)

/-- CVT (R401 to R405). -/
def execCvt (x : Bool) (d a : RegIx) (lit : Word) (s : State) : Out :=
  let from_ := fieldOf lit 0 4
  let toward := fieldOf lit 4 4
  let mode := rmode (fieldOf lit 8 2)
  let sat := fieldOf lit 10 1 == 1
  let uns := fieldOf lit 11 1 == 1
  let nf := tagElems from_
  let nt := tagElems toward
  let n := max nf nt
  computeTagged (.cvt x d a lit) s
    (if checkedTag from_ then (List.range (n / nf)).map fun k => (a.toNat + k, BitVec.ofNat 4 from_) else [])
    fun g t => (List.range (n / nt)).map fun r =>
      (d.toNat + r, ⟨packElems toward ((List.range nt).map fun j =>
        let i := r * nt + j
        convertElem toward mode sat uns (elemVal from_ uns (elemOf from_ (srcVal s.iss g t (a.toNat + i / nf)) (i % nf)))), BitVec.ofNat 4 toward⟩)

/-! ## Packing (R330, R331, R406, R407) -/

/-- Tag of PACK.MX format F (R406, R319). -/
def mxTag (f : BitVec 3) : Nat :=
  if f.toNat == 0 then 5 else if f.toNat == 1 then 6 else if f.toNat == 2 then 7 else if f.toNat == 3 then 8 else if f.toNat == 4 then 9 else 10

/-- emax of R330. -/
def mxEmax (f : BitVec 3) : Int :=
  if f.toNat == 0 then 8 else if f.toNat == 1 then 15 else if f.toNat == 3 then 4 else if f.toNat == 5 then 0 else 2

/-- A finite value times a power of two. -/
def shiftVal (k : Int) : Val → Val
  | .fin neg m e => .fin neg m (e + k)
  | v => v

/-- The value is NaN or infinite. -/
def notFinite : Val → Bool
  | .fin _ _ _ => false
  | _ => true

/-- Magnitude of a value. -/
def absVal : Val → Val
  | .fin _ m e => .fin false m e
  | .inf _ => .inf false
  | .nan => .nan

/-- The greatest magnitude of a list. -/
def maxAbs (vs : List Val) : Val :=
  vs.foldl (fun r v => if cmpVal r (absVal v) == .lt then absVal v else r) (.fin false 0 0)

/-- PACK.MX of a block (R330): the scale code and the elements. -/
def packBlock (f : BitVec 3) (vs : List Val) : Nat × List Nat :=
  if vs.any notFinite then (0xFF, vs.map fun _ => 0)
  else
    let x : Int := match maxAbs vs with
      | .fin _ m e => if m == 0 then -127 else min 127 (max (-127) ((Nat.log2 m : Int) + e - mxEmax f))
      | _ => -127
    ((x + 127).toNat, vs.map fun v =>
      if f.toNat == 5 then (BitVec.ofInt 8 (toInt .rne (-128) 127 (shiftVal (6 - x) v))).toNat
      else convertElem (mxTag f) .rne true false (shiftVal (-x) v))

/-- Replace byte e of a word. -/
def setByte (w : Word) (e b : Nat) : Word := (w &&& ~~~(0xFF#32 <<< (8 * e))) ||| (BitVec.ofNat 32 (b % 256) <<< (8 * e))

/-- Byte e of a word. -/
def byteOf (w : Word) (e : Nat) : Nat := (w.extractLsb' (8 * e) 8).toNat

/-- SELEM of a packing literal (R406). -/
def sElem (lit : Word) : Nat := fieldOf lit 8 2

/-- PACK.MX (R406): elements in d onwards, the scale in byte e of the scale register. -/
def execPackMx (x : Bool) (f : BitVec 3) (d a : RegIx) (lit : Word) (s : State) : Out :=
  let tag := mxTag f
  let per := tagElems tag
  computeTagged (.packMx x f d a lit) s ((List.range 32).map fun k => (a.toNat + k, 1#4)) fun g t =>
    let r := packBlock f ((List.range 32).map fun k => f32 (srcVal s.iss g t (a.toNat + k)))
    ((List.range (mxRegs f)).map fun k => (d.toNat + k, ⟨packElems tag ((r.2.drop (per * k)).take per), BitVec.ofNat 4 tag⟩)) ++
    [(sReg lit, ⟨setByte (srcVal s.iss g t (sReg lit)) (sElem lit) r.1, 13#4⟩)]

/-- One element of UNPACK.MX (R406). -/
def unpackElem (f : BitVec 3) (scale bits : Nat) : Word :=
  if scale == 255 then BitVec.ofNat 32 fp32.nan
  else
    let v := if f.toNat == 5 then shiftVal (-6) (intVal (BitVec.ofNat 8 bits).toInt) else elemVal (mxTag f) false bits
    toF32 .rne (shiftVal ((scale : Int) - 127) v)

/-- UNPACK.MX (R406). -/
def execUnpackMx (x : Bool) (f : BitVec 3) (d a : RegIx) (lit : Word) (s : State) : Out :=
  let tag := mxTag f
  let per := tagElems tag
  computeTagged (.unpackMx x f d a lit) s
    (((List.range (mxRegs f)).map fun k => (a.toNat + k, BitVec.ofNat 4 tag)) ++ [(sReg lit, 13#4)]) fun g t =>
    let sc := byteOf (srcVal s.iss g t (sReg lit)) (sElem lit)
    (List.range 32).map fun i =>
      (d.toNat + i, ⟨unpackElem f sc (elemOf tag (srcVal s.iss g t (a.toNat + i / per)) (i % per)), 1#4⟩)

/-- The positive finite fraction m × 2^e of a band scale, if it is one (R331). -/
def positiveFinite : Val → Option (Nat × Int)
  | .fin false m e => if m == 0 then none else some (m, e)
  | _ => none

/-- p × 2^j ≤ q × 2^k, exactly. -/
def leScaled (p : Nat) (j : Int) (q : Nat) (k : Int) : Bool :=
  let b := min j k
  p * 2 ^ (j - b).toNat ≤ q * 2 ^ (k - b).toNat

/-- The smallest E3M5 code whose value times 6 × B is at least m, or 0xFF (R331). -/
def aq4Scale (bm : Nat) (be : Int) (m : Nat) (e : Int) : Nat :=
  (((List.range 255).map (· + 1)).find? fun c =>
    match valueOf e3m5 c with
    | .fin _ cm ce => leScaled m e (6 * bm * cm) (be + ce)
    | _ => false).getD 0xFF

/-- The E2M1 element nearest to v / (B × block), with ties to even and saturation, by exact comparison (R331). -/
def aq4Elem (bm : Nat) (be : Int) (c : Nat) (v : Val) : Nat :=
  match v, valueOf e3m5 c with
  | .fin neg m e, .fin _ cm ce =>
    if m == 0 then (if neg then 8 else 0)
    else
      let den := bm * cm
      let k : Int := e - (be + ce)
      -- the quotient m / den × 2^k with 64 further bits and a sticky remainder
      let q := m * 2 ^ 64 / den
      let st := !(m * 2 ^ 64 % den == 0)
      if q == 0 then (if neg then 8 else 0) else roundMag e2m1 .rne true neg q (k - 64) st
  | _, _ => 0

/-- PACK.AQ4 of a block (R331): block scale and elements. -/
def packAq4Block (band : Val) (vs : List Val) : Nat × List Nat :=
  match positiveFinite band with
  | none => (0, vs.map fun _ => 0)
  | some (bm, be) =>
    if vs.any notFinite then (0, vs.map fun _ => 0)
    else
      let block := match maxAbs vs with
        | .fin _ m e => if m == 0 then 0 else aq4Scale bm be m e
        | _ => 0
      (block, vs.map fun v =>
        if block == 0 then (match v with | .fin true _ _ => 8 | _ => 0) else aq4Elem bm be block v)

/-- PACK.AQ4 (R407). -/
def execPackAq4 (x : Bool) (d a b : RegIx) (lit : Word) (s : State) : Out :=
  computeTagged (.packAq4 x d a b lit) s (((List.range 8).map fun k => (a.toNat + k, 1#4)) ++ [(b.toNat, 1#4)]) fun g t =>
    let r := packAq4Block (f32 (srcVal s.iss g t b.toNat)) ((List.range 8).map fun k => f32 (srcVal s.iss g t (a.toNat + k)))
    [(d.toNat, ⟨packElems 9 r.2, 9#4⟩), (sReg lit, ⟨setByte (srcVal s.iss g t (sReg lit)) (sElem lit) r.1, 14#4⟩)]

/-- UNPACK.AQ4 (R407). -/
def execUnpackAq4 (x : Bool) (d a b : RegIx) (lit : Word) (s : State) : Out :=
  computeTagged (.unpackAq4 x d a b lit) s [(a.toNat, 9#4), (b.toNat, 1#4), (sReg lit, 14#4)] fun g t =>
    let band := f32 (srcVal s.iss g t b.toNat)
    let sc := valueOf e3m5 (byteOf (srcVal s.iss g t (sReg lit)) (sElem lit))
    (List.range 8).map fun k =>
      (d.toNat + k, ⟨if notFinite band then BitVec.ofNat 32 fp32.nan
        else toF32 .rne (mulVal (mulVal (valueOf e2m1 (elemOf 9 (srcVal s.iss g t a.toNat) k)) band) sc), 1#4⟩)

/-- TAG (R409). -/
def execTag (x : Bool) (d a : RegIx) (k : BitVec 4) (s : State) : Out :=
  compute (.tag x d a k) s fun g t => [(d.toNat, ⟨srcVal s.iss g t a.toNat, k⟩)]

/-- RDTAG (R409). -/
def execRdtag (x : Bool) (d a : RegIx) (s : State) : Out :=
  compute (.rdtag x d a) s fun g t => [(d.toNat, int32 ((srcReg s.iss g t a.toNat).tag.setWidth 32))]

end Sys2Proof.Machine
end

