-- ==== Sys2Proof/Machine/Matrix.lean ====
section
/-! DEFINITION.  The matrix engine: accumulator tiles and their reservations (R472, R473), signing of an MMA (R474 to R478, R251, R257 to
R259), and the step MATRIX_PASS (R131 to R133, R234, R319 to R328, R477). -/

namespace Sys2Proof.Machine

/-! ## Formats (R319, R320) -/

/-- A tag of a matrix format. -/
def matTag (c : Nat) : Nat := nth 0 [0, 9, 9, 7, 8, 5, 6, 5, 6, 10, 10, 11, 3, 2, 4] c

/-- Scale mode of a matrix format: 0 none, 1 MX, 2 AQ4. -/
def matMode (c : Nat) : Nat := nth 0 [0, 2, 1, 1, 1, 1, 1, 0, 0, 1, 0, 0, 0, 0, 0] c

/-- K of one dense MMA. -/
def matK (c : Nat) : Nat := nth 0 [0, 128, 128, 64, 64, 64, 64, 64, 64, 64, 64, 128, 32, 32, 16] c

/-- The format code of an A tag in a scale mode; 0 when no row matches (R320). -/
def matCode (tag mode : Nat) : Nat := ((List.range 15).find? fun c => 1 ≤ c && matTag c == tag && matMode c == mode).getD 0

/-- A legal pair of A and B formats (R320). -/
def pairLegal (a b : Nat) : Bool := a == b || (3 ≤ a && a ≤ 6 && 3 ≤ b && b ≤ 6) || (7 ≤ a && a ≤ 8 && 7 ≤ b && b ≤ 8)

/-- Logical K of an MMA: twice the dense K in the sparse form (R319). -/
def logicalK (c : Nat) (sp : Bool) : Nat := if sp then 2 * matK c else matK c

/-- Scale registers per thread (R475). -/
def scaleRegs (c : Nat) (sp : Bool) : Nat :=
  if matMode c == 1 then logicalK c sp / 64 else if matMode c == 2 then logicalK c sp / 16 else 0

/-- Metadata registers per thread (R475). -/
def metaRegs (c : Nat) (sp : Bool) : Nat := if sp then logicalK c sp / 16 else 0

/-! ## The literal and the descriptor (R257, R474, R476) -/

/-- SM of an MMA literal. -/
def mmaMode (lit : Word) : Nat := fieldOf lit 15 2
/-- META of an MMA literal. -/
def mmaMeta (lit : Word) : Nat := fieldOf lit 8 7
/-- NEGA of an MMA literal. -/
def mmaNegA (lit : Word) : Bool := lit.getLsbD 19
/-- NEGB of an MMA literal. -/
def mmaNegB (lit : Word) : Bool := lit.getLsbD 18
/-- ZC of an MMA literal. -/
def mmaZero (lit : Word) : Bool := lit.getLsbD 17

/-- A field of a descriptor. -/
def descField (v : Dword) (lo n : Nat) : Nat := v.toNat / 2 ^ lo % 2 ^ n
/-- TRANSPOSE. -/
def descTranspose (v : Dword) : Bool := v.getLsbD 26
/-- FMT. -/
def descFmt (v : Dword) : Nat := descField v 22 4
/-- PITCH in bytes. -/
def descPitch (v : Dword) : Nat := 16 * descField v 15 7
/-- BASE in bytes. -/
def descBase (v : Dword) : Nat := 16 * descField v 0 15
/-- SBASE in bytes. -/
def descScales (v : Dword) : Nat := 16 * descField v 32 15

/-- Stored rows of a B tile. -/
def storedRows (v : Dword) (k : Nat) : Nat := if descTranspose v then 64 else k
/-- Bytes of a stored row of a B tile. -/
def storedLength (v : Dword) (k : Nat) : Nat := (if descTranspose v then k else 64) * elemBits (matTag (descFmt v)) / 8

/-- Check 5 of R478: the descriptor, the pair of formats and the sparse form. -/
def descriptorBad (v : Dword) (a : Nat) (sp : Bool) (mode : Nat) : Bool :=
  let b := descFmt v
  !(descField v 27 5 == 0) || b == 0 || b == 15 || !(descField v 47 17 == 0) || (mode == 0 && !(descScales v == 0)) ||
  a == 0 || !(pairLegal a b) || (sp && (9 ≤ a || 9 ≤ b)) || descPitch v == 0 || 96 * 16 < descPitch v ||
  descPitch v < storedLength v (logicalK b sp)

/-- Bytes of the scale area (R476). -/
def scaleBytes (k mode : Nat) : Nat := if mode == 1 then 64 * (k / 32) else if mode == 2 then 16 + 64 * (k / 8) else 0

/-- Check 6 of R478: the offset of a tile or a scale area that does not lie in the run. -/
def placementBad (tm : Team) (v : Dword) (k mode : Nat) : Option Nat :=
  if !(inRun tm (descBase v) ((storedRows v k - 1) * descPitch v + storedLength v k)) then some (descBase v)
  else if !(mode == 0) && !(inRun tm (descScales v) (scaleBytes k mode)) then some (descScales v)
  else none

/-- A legal metadata nibble (R327, R328). -/
def nibbleLegal (n : Nat) : Bool := n % 4 < n / 4

/-! ## Reservations (R472) -/

/-- The tile is below the tile count of the group's team. -/
def tileKnown (s : State) (g : Group) (n : Nat) : Bool := match teamOf s g.team with | some t => n < t.tiles.length | none => false

/-- The group holds the reservation of a tile. -/
def holdsTile (s : State) (g : Group) (n : Nat) : Bool := match teamOf s g.team with | some t => t.resv.contains (g.index, n) | none => false

/-- mrsv d, #N (R472). -/
def execMrsv (x : Bool) (d : RegIx) (n : BitVec 4) (s : State) : Out :=
  issueOn (.mrsv x d n) s fun s e =>
    let p := operandCheck 0x04 false (fun g _ => if tileKnown s g n.toNat then none else some 0) (s, e)
    if p.2 = 0#32 then p.1 else
      match issGroup p.1 with
      | none => p.1
      | some g =>
        let taken := match teamOf p.1 g.team with
          | some t => t.resv.any fun r => r.2 == n.toNat && !(r.1 == g.index)
          | none => true
        let s1 := if taken || holdsTile p.1 g n.toNat then p.1 else modTeam p.1 g.team fun t => { t with resv := t.resv ++ [(g.index, n.toNat)] }
        onGroup s1 (writeBack s.iss 1 p.2 fun _ _ => [(d.toNat, boolReg !taken)])

/-- mrel #N (R472). -/
def execMrel (x : Bool) (n : BitVec 4) (s : State) : Out :=
  issueOn (.mrel x n) s fun s e =>
    let p := operandCheck 0x04 false (fun g _ => if tileKnown s g n.toNat then none else some 0) (s, e)
    if p.2 = 0#32 then p.1 else
      match issGroup p.1 with
      | none => p.1
      | some g =>
        onGroup (modTeam p.1 g.team fun t => { t with resv := t.resv.filter fun r => !(r == (g.index, n.toNat)) }) fun g => advance s.iss 1 p.2 g

/-! ## MRD, MWR and MZERO (R473) -/

/-- Put an entry into the pier's reservation table (R131). -/
def enterTable (s : State) (p : Nat) (e : MatEntry) : State :=
  dueOnce (modPier s p fun x => { x with table := x.table ++ [e] }) .matrixPass { n0 := p }

/-- Issue of MRD, MWR or MZERO: the reservation is checked, a full table makes the threads wait, and otherwise `k` enters the table. -/
def accumulator (i : Instr) (n : BitVec 4) (s : State) (k : State → Lanes → Group → State) : Out :=
  issueOn i s fun s e =>
    let p := operandCheck 0x04 false (fun g _ => if holdsTile s g n.toNat then none else some 0) (s, e)
    if p.2 = 0#32 then p.1 else
      if 16 ≤ (pierOf p.1 (pierNo s.iss.cid)).table.length then onGroup p.1 fun g => waitLanes p.2 (.tileTable s.iss.word s.iss.lit s.iss.flag) g
      else match issGroup p.1 with
        | none => p.1
        | some g => k p.1 p.2 g

/-- A table entry of an accumulator instruction. -/
def accEntry (s : State) (g : Group) (id : Nat) (i : Instr) (n : BitVec 4) (e : Lanes) (flags : List Nat) (op : Nat)
    (data : List (Nat × List Word)) : MatEntry :=
  let tile := match teamOf s g.team with | some t => nth 0 t.tiles n.toNat | none => 0
  ⟨id, i, s.iss.cid, s.iss.slot, g.team, tile, n.toNat, priorityOf s g, e, flags, op, 0#32, 0#64, 0, [], data, 0, []⟩

/-- Issue of MRD: an unfinished instruction that the engine holds. -/
def readTile (i : Instr) (n : BitVec 4) (s : State) : Out :=
  accumulator i n s fun s e g =>
    let (op, s1) := beginOp i s e fun _ => 0#64
    let s2 := onGroup s1 fun g => advance s.iss 1 e (modOp g op fun o => { o with sent := true })
    enterTable s2 (pierNo s.iss.cid) (accEntry s g op i n e [] op [])

/-- Issue of MWR or MZERO: the table takes the registers at issue. -/
def writeTile (i : Instr) (n : BitVec 4) (s : State) (data : Group → Nat → List Word) : Out :=
  accumulator i n s fun s e g =>
    let (id, s1) := takeId s
    let s2 := onGroup s1 fun g => advance s.iss 1 e (attachIssue s.iss g)
    enterTable s2 (pierNo s.iss.cid) (accEntry s g id i n e [s.iss.flag] 0 ((lanesOf e).map fun t => (t, data g t)))

/-- mrd.f32 vd:vd+15, accN, #c (R473). -/
def execMrdF32 (x : Bool) (d : RegIx) (c : BitVec 3) (n : BitVec 4) (s : State) : Out := readTile (.mrdF32 x d c n) n s
/-- mrd.s32 vd:vd+15, accN, #c (R473). -/
def execMrdS32 (x : Bool) (d : RegIx) (c : BitVec 3) (n : BitVec 4) (s : State) : Out := readTile (.mrdS32 x d c n) n s
/-- mwr accN, va:va+15, #c (R473). -/
def execMwr (x : Bool) (a : RegIx) (c : BitVec 3) (n : BitVec 4) (s : State) : Out :=
  writeTile (.mwr x a c n) n s fun g t => (List.range 16).map fun k => srcVal s.iss g t (a.toNat + k)
/-- mzero accN (R473). -/
def execMzero (x : Bool) (n : BitVec 4) (s : State) : Out := writeTile (.mzero x n) n s fun _ _ => []

/-! ## Signing (R258, R259, R475, R478) -/

/-- The A format a thread's registers, or the latch, give in a scale mode (R320); 0 when no row matches. -/
def aFormat (iss : Issue) (d : RegIx) (lit : Word) (g : Group) (t : Nat) : Nat :=
  match g.latch with
  | some l => matCode (matTag l.fmt) (mmaMode lit)
  | none => matCode (srcReg iss g t d.toNat).tag.toNat (mmaMode lit)

/-- The descriptor of a thread. -/
def descOf (iss : Issue) (a : RegIx) (g : Group) (t : Nat) : Dword := srcPair iss g t a.toNat

/-- Check 1 of R478: scale or metadata registers beyond the group's bound. -/
def signBound (iss : Issue) (sp : Bool) (d b : RegIx) (lit : Word) (g : Group) (t : Nat) : Option Nat :=
  let c := aFormat iss d lit g t
  let scales := if mmaMode lit == 0 then 0 else b.toNat + max 1 (scaleRegs c sp)
  let metas := if sp then mmaMeta lit + max 1 (metaRegs c sp) else 0
  if regBound g < scales || regBound g < metas then some 0 else none

/-- Check 3 of R478: membership, no second signing, and the first signer's words. -/
def signMember (iss : Issue) (n : Nat) (lit : Word) (g : Group) (t : Nat) : Option Nat :=
  let v := nth Cv.empty g.cv n
  if !(v.members.getLsbD t) || v.signed.getLsbD t || (!v.flags.isEmpty && !(v.word = iss.word && v.lit = lit)) then some 0 else none

/-- Check 4 of R478: the tags of A and of the scales, and the alignment of scales and metadata, against the format `want`. -/
def signTags (iss : Issue) (sp : Bool) (d b : RegIx) (lit : Word) (want : Nat) (g : Group) (t : Nat) : Option Nat :=
  if g.latch.isSome then none else
    let tagOf := fun (v : Nat) => (srcReg iss g t v).tag.toNat
    let ns := scaleRegs want sp
    let nm := metaRegs want sp
    if want == 0 || !(aFormat iss d lit g t == want) || ((List.range 32).any fun k => !(tagOf (d.toNat + k) == matTag want)) ||
       (!(ns == 0) && !(b.toNat % ns == 0)) || (!(nm == 0) && !(mmaMeta lit % nm == 0)) ||
       ((List.range ns).any fun k => !(tagOf (b.toNat + k) == (if mmaMode lit == 1 then 13 else 14))) then some 0 else none

/-- Check 7 of R478: the metadata nibbles of the thread's two rows (R328). -/
def signMeta (iss : Issue) (sp : Bool) (lit : Word) (want : Nat) (g : Group) (t : Nat) : Option Nat :=
  if g.latch.isSome || !sp then none
  else if (List.range (metaRegs want sp)).any fun k => (List.range 8).any fun q =>
      !(nibbleLegal ((srcVal iss g t (mmaMeta lit + k)).toNat / 16 ^ q % 16)) then some 0 else none

/-- Free words in place of scales or metadata that a latched A does not have, because it was captured under another scale mode or form:
the spec states none (log entry 20). -/
def freeWords (s : State) (n : Nat) : List Word := (List.range n).map fun k => BitVec.ofNat 32 (Config.freeNat (s.free + k))

/-- The rows a signing thread supplies: captured, or the latch's (R258, R259). -/
def signRows (s : State) (sp : Bool) (d b : RegIx) (lit : Word) (want : Nat) (g : Group) (t : Nat) : List ARows :=
  let ns := scaleRegs want sp
  let nm := metaRegs want sp
  match g.latch with
  | none =>
    let vals := fun (v n : Nat) => (List.range n).map fun k => srcVal s.iss g t (v + k)
    [⟨t, vals d.toNat 32, vals b.toNat ns, vals (mmaMeta lit) nm⟩]
  | some l =>
    (l.rows.filter fun r => r.lane == t).map fun r =>
      { r with scales := if l.fmt == want && r.scales.length == ns then r.scales else freeWords s ns
               meta_ := if r.meta_.length == nm then r.meta_ else freeWords s nm }

/-- Issue of MMA and MMA.SP: the checks of R478 in order, then every thread of E signs (R477). -/
def mmaIssue (i : Instr) (sp : Bool) (d a b : RegIx) (lit : Word) (s : State) : Out :=
  issueOn i s fun s e =>
    let n := mmaCv lit
    let want := match issGroup s with
      | none => 0
      | some g =>
        let v := nth Cv.empty g.cv n
        if v.flags.isEmpty then (((lanesOf e).map (aFormat s.iss d lit g)).find? fun c => !(c == 0)).getD 0 else v.fmt
    let checks := [
      (0x04, signBound s.iss sp d b lit),
      (0x04, fun g _ => if holdsTile s g (mmaTile lit) then none else some 0),
      (0x02, signMember s.iss n lit),
      (0x05, signTags s.iss sp d b lit want),
      (0x05, fun g t => if descriptorBad (descOf s.iss a g t) want sp (mmaMode lit) then some 0 else none),
      (0x07, fun g t => (teamOf s g.team).bind fun tm => placementBad tm (descOf s.iss a g t) (logicalK want sp) (mmaMode lit)),
      (0x06, signMeta s.iss sp lit want)]
    let p := checks.foldl (fun p c => operandCheck c.1 false c.2 p) (s, e)
    if p.2 = 0#32 then p.1 else
      match issGroup p.1 with
      | none => p.1
      | some g =>
        let v := nth Cv.empty g.cv n
        let pier := pierNo s.iss.cid
        let done : Bool := v.members &&& ~~~(v.signed ||| p.2) = 0#32
        if done && 16 ≤ (pierOf p.1 pier).table.length then onGroup p.1 fun g => waitLanes p.2 .matrixTable g
        else if mmaReuse lit && g.latch.isNone && 8 ≤ heldLatches p.1 pier then onGroup p.1 fun g => waitLanes p.2 .latch g
        else
          let last := ((lanesOf p.2).getLast?).getD 0
          let v1 : Cv := { v with
            signed := v.signed ||| p.2, word := s.iss.word, lit := lit, desc := descOf s.iss a g last, fmt := want
            rows := v.rows ++ (lanesOf p.2).flatMap (signRows p.1 sp d b lit want g)
            flags := v.flags ++ [s.iss.flag]
            seqs := v.seqs ++ (lanesOf p.2).map fun t => (t, p.1.ids)
            before := if v.flags.isEmpty then (coreOf p.1 s.iss.cid).scratch else v.before }
          let s1 := onGroup { p.1 with ids := p.1.ids + 1, free := if g.latch.isSome then p.1.free + 32 else p.1.free } fun g =>
            advance s.iss 2 p.2 (attachIssue s.iss { g with cv := setNth g.cv n v1 })
          if done then mmaSend s1 s.iss.cid s.iss.slot n i else s1

/-- mma (R477). -/
def execMma (x : Bool) (d a b : RegIx) (lit : Word) (s : State) : Out := mmaIssue (.mma x d a b lit) false d a b lit s
/-- mma.sp (R477). -/
def execMmaSp (x : Bool) (d a b : RegIx) (lit : Word) (s : State) : Out := mmaIssue (.mmaSp x d a b lit) true d a b lit s

/-! ## The arithmetic of a pass (R322 to R328) -/

/-- Byte `n` of a list of words. -/
def wordByte (ws : List Word) (n : Nat) : Nat := (nth 0#32 ws (n / 4)).toNat / 256 ^ (n % 4) % 256

/-- The value of one element of a format, from its bits: an MXINT8 element is its integer times 2^-6 (R318). -/
def matElem (c bits : Nat) : Val :=
  match elemVal (matTag c) false bits with
  | .fin neg m e => if c == 9 then .fin neg m (e - 6) else .fin neg m e
  | v => v

/-- An element times its effective scale (R322, R323): block scale byte `q` and, for AQ4, the band scale. -/
def scaleElem (mode : Nat) (band : Val) (q : Nat) (v : Val) : Val :=
  if mode == 1 then mulVal v (elemVal 13 false q)
  else if mode == 2 then
    match band with
    | .fin _ _ _ => mulVal v (mulVal band (valueOf e3m5 q))
    | _ => .nan
  else v

/-- Negate when asked. -/
def negIf (b : Bool) (v : Val) : Val := if b then negVal v else v

/-- Row `r` (0 or 1) of a thread's rows of A: one value for each logical k, none where the metadata drops it (R324, R327, R475). -/
def aRow (c : Nat) (sp neg : Bool) (band : Val) (x : ARows) (r : Nat) : List (Option Val) :=
  let tag := matTag c
  let per := tagElems tag
  let k := logicalK c sp
  let stored := fun (m : Nat) => elemOf tag (nth 0#32 x.regs (16 * r + m / per)) (m % per)
  let scale := fun (q : Nat) => if matMode c == 1 then wordByte x.scales (r * (k / 32) + q / 32) else wordByte x.scales (r * (k / 8) + q / 8)
  (List.range k).map fun q =>
    let bits? := if sp then
        let nib := (nth 0#32 x.meta_ (r * (k / 32) + q / 32)).toNat / 16 ^ (q / 4 % 8) % 16
        if q % 4 == nib % 4 then some (stored (2 * (q / 4))) else if q % 4 == nib / 4 then some (stored (2 * (q / 4) + 1)) else none
      else some (stored q)
    bits?.map fun bits => negIf neg (scaleElem (matMode c) band (scale q) (matElem c bits))

/-- Bits of an element in memory from the bytes that hold it (R317). -/
def memElem (bits : Nat) (get : Nat → Byte) (n : Nat) : Nat :=
  if bits == 4 then (get (n / 2)).toNat / 16 ^ (n % 2) % 16
  else leNat ((List.range (bits / 8)).map fun k => get (bits / 8 * n + k))

/-- Column `j` of B: one value for each logical k (R257, R476).  `get` reads a byte of the run in a group's pass. -/
def bColumn (v : Dword) (k : Nat) (neg : Bool) (band : Val) (get : Nat → Nat → Byte) (j : Nat) : List Val :=
  let c := descFmt v
  let bits := elemBits (matTag c)
  let mode := matMode c
  (List.range k).map fun q =>
    let (row, el) := if descTranspose v then (j, q) else (q, j)
    let e := memElem bits (fun n => get (q / 16) (descBase v + row * descPitch v + n)) el
    let s := if mode == 1 then (get (q / 16) (descScales v + j * (k / 32) + q / 32)).toNat
             else if mode == 2 then (get (q / 16) (descScales v + 16 + j * (k / 8) + q / 8)).toNat else 0
    negIf neg (scaleElem mode band s (matElem c e))

/-- One group of 16 k: the exact sum with the accumulator, rounded once (R324, R325). -/
def groupStep (a : List (Option Val)) (b : List Val) (acc : Val) (g : Nat) : Val :=
  let ps := (((a.zip b).drop (16 * g)).take 16).filterMap fun p => p.1.map fun x => mulVal x p.2
  valueOf fp32 (roundVal fp32 .rne false (sumVals (acc :: ps)))

/-- The integer of a value that is one. -/
def intOf : Val → Int
  | .fin neg m e => scaled 0 neg m e
  | _ => 0

/-- One element of D (R324 to R326). -/
def dElem (c k : Nat) (a : List (Option Val)) (b : List Val) (c0 : Word) : Word :=
  if c == 10 || c == 11 then
    BitVec.ofInt 32 ((a.zip b).foldl (fun t p => t + (match p.1 with | some x => intOf x * intOf p.2 | none => 0)) c0.toInt)
  else BitVec.ofNat 32 (roundVal fp32 .rne false ((List.range (k / 16)).foldl (groupStep a b) (f32 c0)))

/-- The word of a tile. -/
def tileWord (p : Pier) (tile r c : Nat) : Word := look 0#32 p.tiles (4096 * tile + 64 * r + c)

/-- Replace the 4,096 words of a tile. -/
def setTile (p : Pier) (tile : Nat) (ws : List Word) : Pier :=
  { p with tiles := (p.tiles.filter fun x => x.1 < 4096 * tile) ++
      (((List.range 4096).zip ws).filterMap fun x => if x.2 = 0#32 then none else some (4096 * tile + x.1, x.2)) ++
      p.tiles.filter fun x => 4096 * (tile + 1) ≤ x.1 }

/-- The rows of a lane that supplies none are zero; times a band scale of A that is no finite number, every product is NaN (R258, R323, R325). -/
def absentRow (mode k : Nat) (neg : Bool) (band : Val) : List (Option Val) :=
  List.replicate k (some (match mode, band with
    | 2, .fin .. => negIf neg (mulVal band (.fin false 0 0))
    | 2, _ => .nan
    | _, _ => negIf neg (.fin false 0 0)))

/-- The tile an MMA entry leaves (R324 to R326, R477). -/
def mmaTileWords (s : State) (e : MatEntry) (sp : Bool) : List Word :=
  let v := e.desc
  let c := e.fmt
  let k := logicalK (descFmt v) sp
  let base := match teamOf s e.team with | some t => 4096 * t.unitBase | none => 0
  let get := passByte e.before (coreOf s e.cid).scratch s.free base
  let band := fun (o : Nat) => valueOf bf16 (leNat [get 0 (descScales v + o), get 0 (descScales v + o + 1)])
  let mode := matMode c
  let bandA := if mode == 2 then band 0 else .nan
  let bandB := if mode == 2 then band 2 else .nan
  let cols := (List.range 64).map (bColumn v k (mmaNegB e.lit) bandB get)
  let p := pierOf s (pierNo e.cid)
  (List.range 64).flatMap fun i =>
    let row := match e.rows.find? fun r => r.lane == i / 2 with
      | some r => aRow c sp (mmaNegA e.lit) bandA r (i % 2)
      | none => absentRow mode k (mmaNegA e.lit) bandA
    ((List.range 64).zip cols).map fun x => dElem (descFmt v) k row x.2 (if mmaZero e.lit then 0#32 else tileWord p e.tile i x.1)

/-! ## MATRIX_PASS (R132) -/

/-- The entries no older entry of the same tile holds back (R132). -/
def eligible : List Nat → List MatEntry → List MatEntry
  | _, [] => []
  | seen, e :: r => if seen.contains e.tile then eligible seen r else e :: eligible (e.tile :: seen) r

/-- An entry may not be granted: its context is being pre-empted or is saved (R139), or a group of it is halted (R296). -/
def entryHeld (s : State) (pier : Nat) (e : MatEntry) : Bool :=
  match (groupOf s e.cid e.slot).map (contextOf s) with
  | none => false
  | some c =>
    frozen s c.1 c.2 (.matrix pier) ||
    s.cores.any fun x => x.2.groups.any fun g => (match g.2.stop with | some st => st.halted | none => false) && contextOf s g.2 = c

/-- The entry the next grant goes to (R132): every eighth grant is an ageing grant. -/
def grantEntry (s : State) (pier : Nat) : Option MatEntry :=
  let p := pierOf s pier
  let es := (eligible [] p.table).filter fun e => !(entryHeld s pier e)
  if (p.grants + 1) % 8 == 0 then es.head?
  else (sortBy (fun a b => a.priority ≤ b.priority) es).head?

/-- An MMA's pass is its last by a free value, and at the latest after K/16 passes: the spec gives no number of passes (log entry 19). -/
def lastPass (s : State) (e : MatEntry) : Bool :=
  match e.instr with
  | .mma .. => matK (descFmt e.desc) / 16 ≤ e.passes + 1 || Config.freeNat s.free % 2 == 0
  | .mmaSp .. => matK (descFmt e.desc) / 16 ≤ e.passes + 1 || Config.freeNat s.free % 2 == 0
  | _ => true

/-- The effect of an entry's last pass on its tile and, for MRD, on the registers (R473, R477). -/
def applyEntry (s : State) (e : MatEntry) : State :=
  let p := pierNo e.cid
  let x := pierOf s p
  let read := fun (tag : BitVec 4) (d c : Nat) =>
    modGroup s e.cid e.slot fun g =>
      finishLanes ((lanesOf e.lanes).foldl (fun g t =>
        writeResult g t ((List.range 16).map fun k => (d + k, ⟨tileWord x e.tile (2 * t + k / 8) (8 * c + k % 8), tag⟩))) g) e.op e.lanes true
  match e.instr with
  | .mma .. => modPier s p fun x => setTile x e.tile (mmaTileWords s e false)
  | .mmaSp .. => modPier s p fun x => setTile x e.tile (mmaTileWords s e true)
  | .mzero .. => modPier s p fun x => setTile x e.tile []
  | .mwr _ _ c _ =>
    modPier s p fun x => { x with tiles := e.data.foldl (fun m d => (((List.range 16).zip d.2)).foldl (fun m w =>
      store 0#32 m (4096 * e.tile + 64 * (2 * d.1 + w.1 / 8) + 8 * c.toNat + w.1 % 8) w.2) m) x.tiles }
  | .mrdF32 _ d c _ => read 1#4 d.toNat c.toNat
  | .mrdS32 _ d c _ => read 12#4 d.toNat c.toNat
  | _ => s

/-- MATRIX_PASS: the engine of pier `n0` grants one pass and executes it; after an entry's last pass its tile is written, its flags clear and
it leaves the table (R131, R132, R260, R473, R477).  Operations whose send has waited are sent as soon as there is room (R258). -/
def execMatrixPass (s : State) : Out :=
  let p := s.args.n0
  let s := sendPending s p
  match grantEntry s p with
  | none => .next s
  | some e =>
    let last := lastPass s e
    let s0 := modPier s p fun x => { x with
      grants := x.grants + 1
      table := if last then x.table.filter (fun y => !(y.id == e.id)) else x.table.map fun y => if y.id == e.id then { y with passes := y.passes + 1 } else y }
    let s1 := if last then
        sendPending (modGroup (applyEntry s0 e) e.cid e.slot fun g => e.flags.foldl completeFlag g) p
      else s0
    let s2 := match e.instr with
      | .mma .. => { s1 with free := s1.free + 1 + 2 ^ 18 }
      | .mmaSp .. => { s1 with free := s1.free + 1 + 2 ^ 18 }
      | _ => s1
    .next (if (pierOf s2 p).table.isEmpty then s2 else dueOnce s2 .matrixPass { n0 := p })

end Sys2Proof.Machine
end

