-- ==== Sys2Proof/Machine/Transfer.lean ====
section
/-! DEFINITION.  The transfer engine: COPY, GATHER and SCATTER commands (R431 to R436) and the step TRANSFER_BURST (R261, R262). -/

namespace Sys2Proof.Machine

/-! ## Issue (R431 to R433) -/

/-- Size of a gather element (R433). -/
def gatherSize (lit : Word) : Nat := 16 * 2 ^ fieldOf lit 16 2
/-- Count of a gather (R433). -/
def gatherCount (lit : Word) : Nat := fieldOf lit 0 13

/-- A scratchpad span that is misaligned or not within the run (R252, R432, R433): the offset. -/
def spanBad (s : State) (g : Group) (off len align : Nat) : Option Nat :=
  let within := match teamOf s g.team with | some tm => inRun tm off len | none => false
  if off < 2 ^ 19 && within && off % align == 0 then none else some (off % 2 ^ 19)

/-- A global address that is not 16-byte aligned. -/
def addressBad (v : Nat) : Option Nat := if v % 16 == 0 then none else some v

/-- The source, destination and index list of a command, as its lowest lane names them: kind, source, destination, list. -/
structure Ends where
  kind : Nat
  src : Nat
  dst : Nat
  list_ : Nat
  len : Nat
  size : Nat
  deriving DecidableEq, Repr

/-- The operands of a command in a lane (R432, R433). -/
def endsOf (iss : Issue) (i : Instr) (g : Group) (t : Nat) : Ends :=
  let one := fun (v : RegIx) => (srcVal iss g t v.toNat).toNat
  let two := fun (v : RegIx) => (srcPair iss g t v.toNat).toNat
  match i with
  | .copyG2s _ d a b => ⟨0, two a, one d, 0, one b, 1⟩
  | .copyS2g _ d a b => ⟨1, one a, two d, 0, one b, 1⟩
  | .copyG2g _ d a b => ⟨2, two a, two d, 0, one b, 1⟩
  | .gather _ d a b lit => ⟨3, two a, one d, one b, gatherCount lit, gatherSize lit⟩
  | .scatter _ d a b lit => ⟨4, one a, two d, one b, gatherCount lit, gatherSize lit⟩
  | _ => ⟨2, 0, 0, 0, 16, 1⟩

/-- The checks of step 8 (R432, R433), all MISALIGN: the failing address or offset; a bad LEN fails with no address. -/
def endsBad (s : State) (g : Group) (x : Ends) : Option Nat :=
  let most := if x.kind == 2 then 4294967280 else 393216
  if x.kind < 3 && !(x.len % 16 == 0 && 16 ≤ x.len && x.len ≤ most) then some 0
  else
    let bytes := x.len * x.size
    let checks : List (Option Nat) :=
      if x.kind == 0 then [addressBad x.src, spanBad s g x.dst bytes 16]
      else if x.kind == 1 then [spanBad s g x.src bytes 16, addressBad x.dst]
      else if x.kind == 2 then [addressBad x.src, addressBad x.dst]
      else if x.kind == 3 then [addressBad x.src, spanBad s g x.dst bytes 16, spanBad s g x.list_ (4 * x.len) 4]
      else [spanBad s g x.src bytes 16, addressBad x.dst, spanBad s g x.list_ (4 * x.len) 4]
    checks.findSome? id

/-- Issue of a command: its lowest lane's operands are checked, a full stream makes the threads wait, and otherwise the stream takes one
command (R261, R431). -/
def transfer (i : Instr) (s : State) : Out :=
  issueOn i s fun s e =>
    let p := operandCheck 0x07 false (fun g t => if t == lowestLane e then endsBad s g (endsOf s.iss i g t) else none) (s, e)
    if p.2 = 0#32 then p.1 else
      match issGroup p.1 with
      | none => p.1
      | some g =>
        let x := endsOf s.iss i g (lowestLane p.2)
        let pier := pierNo s.iss.cid
        let gather := 3 ≤ x.kind
        let queue := if gather then (pierOf p.1 pier).gathers else (pierOf p.1 pier).copies
        if 16 ≤ queue.length then onGroup p.1 fun g => waitLanes p.2 (.stream gather s.iss.word s.iss.lit s.iss.flag) g
        else
          let (id, s1) := takeId p.1
          let (fn, q) := contextOf s g
          let c : XCmd := ⟨id, x.kind, s.iss.cid, s.iss.slot, g.team, p.2, s.iss.flag, x.src, x.dst, x.list_, x.len, x.size, 0, fn, q, 0,
            asidOf s g, g.supervisor, [], s.iss.word, s.iss.lit, (coreOf s s.iss.cid).scratch⟩
          let s2 := modPier s1 pier fun y => if gather then { y with gathers := y.gathers ++ [c] } else { y with copies := y.copies ++ [c] }
          let s3 := onGroup s2 fun g => advance s.iss (lengthOf i) p.2 (attachIssue s.iss g)
          dueOnce s3 .transferBurst { n0 := pier, n1 := if gather then 1 else 0 }

/-- copy.g2s d, [a], b (R432). -/
def execCopyG2s (x : Bool) (d a b : RegIx) (s : State) : Out := transfer (.copyG2s x d a b) s
/-- copy.s2g [d], a, b (R432). -/
def execCopyS2g (x : Bool) (d a b : RegIx) (s : State) : Out := transfer (.copyS2g x d a b) s
/-- copy.g2g [d], [a], b (R432). -/
def execCopyG2g (x : Bool) (d a b : RegIx) (s : State) : Out := transfer (.copyG2g x d a b) s
/-- gather.eS d, [a], b, #count (R433). -/
def execGather (x : Bool) (d a b : RegIx) (lit : Word) (s : State) : Out := transfer (.gather x d a b lit) s
/-- scatter.eS [d], a, b, #count (R433). -/
def execScatter (x : Bool) (d a b : RegIx) (lit : Word) (s : State) : Out := transfer (.scatter x d a b lit) s

/-! ## Moving data (R233, R262, R432, R434) -/

/-- How one move of a command ends: how far it has come, and whether something is awaited, a page faults, or an error ends the command
(kind 0 uncorrectable data, 1 a peer port that is down). -/
inductive Moved where
  | done (s : State) (cur : Nat)
  | wait (s : State) (cur : Nat)
  | fault (s : State) (cur va subtype level : Nat) (k : AccKind)
  | error (s : State) (cur kind va port : Nat)

/-- Whose command it is; a queue's COPY has no issuing threads. -/
def XCmd.who (c : XCmd) : Who := ⟨c.cid, c.slot, if c.kind == 5 then 0#32 else c.lanes, c.id, c.asid, c.fn, c.supervisor,
  transferAgent (pierNo c.cid), c.cid⟩

/-- The first byte of the scratchpad run of a command's team. -/
def runBase (s : State) (c : XCmd) : Nat := match teamOf s c.team with | some t => 4096 * t.unitBase | none => 0

/-- Bytes of the run that the engine reads (R435). -/
def runBytes (s : State) (c : XCmd) (off n : Nat) : List Byte :=
  (List.range n).map fun k => passByte c.before (coreOf s c.cid).scratch s.free (runBase s c) 0 (off + k)

/-- Write bytes of the run and fill their granules (R254). -/
def fillRun (s : State) (c : XCmd) (off : Nat) (b : List Byte) : State :=
  let a := runBase s c + off
  modCore s c.cid fun x => setFull (writeScratch x a b) (granulesOf a b.length)

/-- What the end of a read that gave no bytes makes of a command. -/
def readStop (s : State) (cur : Nat) (r : Fetch × Nat) : Moved :=
  match r.1 with
  | .bytes _ s1 => .done s1 cur
  | .wait s1 => .wait s1 cur
  | .fault a b => .fault s cur r.2 a b .read
  | .poison => .error s cur 0 r.2 0
  | .down port => .error s cur 1 r.2 port

/-- What the end of a write makes of a command that has then come to `next`. -/
def writeStop (s : State) (cur next : Nat) (r : Put × Nat) : Moved :=
  match r.1 with
  | .done s1 => .done s1 next
  | .wait s1 => .wait s1 cur
  | .fault a b => .fault s cur r.2 a b .write
  | .poison => .error s cur 0 r.2 0
  | .down port => .error s cur 1 r.2 port

/-- The source and destination of a copy in memory overlap: the destination contents are unspecified (R83, R432). -/
def overlapping (c : XCmd) : Bool := (c.kind == 2 || c.kind == 5) && c.src < c.dst + c.len && c.dst < c.src + c.len

/-- The bytes a copy stores for those it read: the same ones, or free ones where its ranges overlap. -/
def copiedBytes (s : State) (c : XCmd) (b : List Byte) : List Byte × State := if overlapping c then freeBytes s b.length else (b, s)

/-- One piece of a copy, at most one line of its destination (R432). -/
def copyPiece (s : State) (c : XCmd) (cur n : Nat) : Moved :=
  let store := fun (s : State) (b : List Byte) =>
    if c.kind == 0 then
      if earlierAccess s c.who true (c.dst + cur) n then Moved.wait s cur else .done (fillRun s c (c.dst + cur) b) (cur + n)
    else writeStop s cur (cur + n) (writeSpan s c.who 3 (c.dst + cur) b)
  if c.kind == 1 then
    if earlierAccess s c.who true (c.src + cur) n then .wait s cur else store s (runBytes s c (c.src + cur) n)
  else
    match readSpan s c.who 3 (c.src + cur) n with
    | (.bytes b s1, _) =>
      let (b1, s2) := copiedBytes s1 c b
      store s2 b1
    | r => readStop s cur r

/-- What is left of the 64 KiB window of its destination in memory that a copy has come to (R210). -/
def copyWindow (c : XCmd) (cur : Nat) : List (Nat × Nat) :=
  if c.kind == 0 then [] else [(c.dst + cur, min c.len (windowBytes * (cur / windowBytes + 1)) - cur)]

/-- A burst of a copy, piece by piece up to byte `stop`. -/
def copyBurst (c : XCmd) (stop : Nat) : Nat → State → Nat → Moved
  | 0, s, cur => .done s cur
  | f + 1, s, cur =>
    if stop ≤ cur then .done s cur else
      let room := if c.kind == 0 then 128 - (c.src + cur) % 128 else 128 - (c.dst + cur) % 128
      match copyPiece s c cur (min room (stop - cur)) with
      | .done s1 cur1 => copyBurst c stop f s1 cur1
      | r => r

/-- One element of a gather or scatter (R434). -/
def elementMove (s : State) (c : XCmd) (j : Nat) : Moved :=
  if earlierAccess s c.who true (c.list_ + 4 * j) 4 then .wait s j else
    let x := leNat (runBytes s c (c.list_ + 4 * j) 4)
    if c.kind == 3 then
      if earlierAccess s c.who true (c.dst + j * c.size) c.size then .wait s j else
        match readSpan s c.who 3 ((c.src + x * c.size) % 2 ^ 64) c.size with
        | (.bytes b s1, _) => .done (fillRun s1 c (c.dst + j * c.size) b) (j + 1)
        | r => readStop s j r
    else if earlierAccess s c.who true (c.src + j * c.size) c.size then .wait s j
    else writeStop s j (j + 1) (writeSpan s c.who 3 ((c.dst + x * c.size) % 2 ^ 64) (runBytes s c (c.src + j * c.size) c.size))

/-- A block of a gather or scatter, up to index `stop`. -/
def elementBlock (c : XCmd) (stop : Nat) : Nat → State → Nat → Moved
  | 0, s, j => .done s j
  | f + 1, s, j =>
    if stop ≤ j then .done s j else
      match elementMove s c j with
      | .done s1 j1 => elementBlock c stop f s1 j1
      | r => r

/-- The destinations in memory of the elements of a scatter from index `j` to `stop`, once its index list can be read (R210, R434). -/
def scatterWindow (s : State) (c : XCmd) (j stop : Nat) : List (Nat × Nat) :=
  if !(c.kind == 4) || earlierAccess s c.who true (c.list_ + 4 * j) (4 * (stop - j)) then [] else
    (List.range (stop - j)).map fun k => ((c.dst + leNat (runBytes s c (c.list_ + 4 * (j + k)) 4) * c.size) % 2 ^ 64, c.size)

/-- One burst of a copy or one block of a gather or scatter: the tokens of its destination lines are gathered first (R210, R261). -/
def moveBurst (s : State) (c : XCmd) (gather : Bool) : Moved :=
  let stop := if gather then min c.len (32 * (c.cursor / 32 + 1)) else min c.len (4096 * (c.cursor / 4096 + 1))
  match gatherWindow s c.who (if gather then scatterWindow s c c.cursor stop else copyWindow c c.cursor) with
  | (none, s1) => .wait s1 c.cursor
  | (some s1, _) => if gather then elementBlock c stop 33 s1 c.cursor else copyBurst c stop 513 s1 c.cursor

/-! ## TRANSFER_BURST -/

/-- A command stands at a boundary where its engine stops for a pre-emption (R139). -/
def atBoundary (c : XCmd) : Bool := if 3 ≤ c.kind && c.kind ≤ 4 then c.cursor % 32 == 0 else c.cursor % 4096 == 0

/-- A command is held: by a fault, or at a boundary by the pre-emption of its context. -/
def cmdHeld (s : State) (p : Nat) (c : XCmd) : Bool :=
  !c.faults.isEmpty || (atBoundary c && frozen s c.fn c.q (if 3 ≤ c.kind && c.kind ≤ 4 then .gatherStream p else .copyStream p))

/-- The commands a stream may work on: started ones, and the first one not yet started, those that are held left aside (R137, R156, R261). -/
def movable (held : XCmd → Bool) : List XCmd → List XCmd
  | [] => []
  | c :: r => if held c then movable held r else if c.cursor == 0 then [c] else c :: movable held r

/-- Change a command of a pier. -/
def modCmd (s : State) (p id : Nat) (f : XCmd → XCmd) : State :=
  modPier s p fun x => { x with copies := x.copies.map (fun c => if c.id == id then f c else c),
                                gathers := x.gathers.map fun c => if c.id == id then f c else c }

/-- A command is gone. -/
def dropCmd (s : State) (p id : Nat) : State :=
  modPier s p fun x => { x with copies := x.copies.filter (fun c => !(c.id == id)), gathers := x.gathers.filter fun c => !(c.id == id) }

/-- A command completes: its flag clears, or its record completes (R83, R256). -/
def finishCmd (s : State) (p : Nat) (c : XCmd) : State :=
  let s1 := dropCmd s p c.id
  if c.kind == 5 then complete s1 c.fn c.q c.rec_ 0 0 0 (2 ^ (p / 32))
  else modGroup s1 c.cid c.slot fun g => completeFlag g c.flag

/-- ENGINE_ERROR_RECORD: a command ends with an error (R436); a queue COPY completes with ENGINE_ERROR (R83, R90). -/
def failCmd (s : State) (p : Nat) (c : XCmd) (kind va port : Nat) : State :=
  let s1 := releaseEngine (dropCmd s p c.id) (transferAgent p)
  if c.kind == 5 then
    let detail := if kind == 0 then 2 ^ 31 + 512 * (p / 32) + 320 + p % 32 else port
    complete s1 c.fn c.q c.rec_ 7 detail 0 (2 ^ (p / 32))
  else modGroup s1 c.cid c.slot fun g => completeFlag (recordError g c.flag kind va) c.flag

/-- A page fault of a command holds it and raises a fault with agent 1 (R156, R436). -/
def faultCmd (s : State) (p : Nat) (c : XCmd) (va sub lvl : Nat) (k : AccKind) : State :=
  let launch := if c.kind == 5 then none else (teamOf s c.team).map (·.launch)
  let (id, s1, ring) := raiseFault s c.fn c.q c.asid va sub lvl k 1 launch
  let s2 := modCmd s1 p c.id fun x => { x with faults := x.faults ++ [id] }
  if ring then s2 else abortFault s2 c.fn id

/-- TRANSFER_BURST: stream `n1` (0 copy, 1 gather) of pier `n0` moves one burst of 4 KiB or one block of 32 indices of one of its commands
(R261, R262); the two streams take turns.  A burst that meets a line it must wait for goes on from there. -/
def execTransferBurst (s : State) : Out :=
  let p := s.args.n0
  let gather := s.args.n1 == 1
  let x := pierOf s p
  let mine := movable (cmdHeld s p) (if gather then x.gathers else x.copies)
  let other := movable (cmdHeld s p) (if gather then x.copies else x.gathers)
  if mine.isEmpty then .next s
  else if !(x.turn == gather) && !other.isEmpty then
    .next (due (dueOnce s .transferBurst { n0 := p, n1 := if gather then 0 else 1 }) .transferBurst s.args)
  else
    let (c, s1) := if mine.length ≤ 1 then (mine.head?, s) else (mine[Config.freeNat s.free % mine.length]?, { s with free := s.free + 1 })
    match c with
    | none => .next s
    | some c =>
      let s2 := modPier s1 p fun x => { x with turn := !gather }
      let r := moveBurst s2 c gather
      let used := fun (s : State) => if c.before = (coreOf s c.cid).scratch then s else { s with free := s.free + 2 ^ 15 }
      let at_ := fun (s : State) (cur : Nat) => used (modCmd s p c.id fun y => { y with cursor := cur })
      let again := fun (s : State) => dueOnce s .transferBurst { n0 := p, n1 := s1.args.n1 }
      match r with
      | .done s3 cur => .next (again (if c.len ≤ cur then used (finishCmd s3 p c) else at_ s3 cur))
      | .wait s3 cur => .next (again (at_ s3 cur))
      | .fault s3 cur va sub lvl k => .next (again (faultCmd (at_ s3 cur) p c va sub lvl k))
      | .error s3 _ kind va port => .next (again (used (failCmd s3 p c kind va port)))

end Sys2Proof.Machine
end

