-- ==== Sys2Proof/Machine/Context.lean ====
section
/-! DEFINITION.  Pre-emption (R136 to R147, R160): stopping the work of a context, saving it, placing it again and resuming it; and the steps
PREEMPT_STOP, STOPPING_UNIT_REACHED, CONTEXT_IMAGE_WRITTEN and CONTEXT_RESTORE. -/

namespace Sys2Proof.Machine

/-! ## What a context is -/

/-- The key of a queue's context. -/
def contextKey (fn q : Nat) : Nat := 4096 * fn + q

/-- The launches of a context, children among them. -/
def contextLaunches (s : State) (fn q : Nat) : List Nat := (s.launches.filter fun l => l.2.fn == fn && l.2.q == q).map (·.1)

/-- The placed teams of a context, in the order of placement. -/
def contextTeams (s : State) (fn q : Nat) : List (Nat × Team) :=
  let ls := contextLaunches s fn q
  s.teams.filter fun t => ls.contains t.2.launch

/-- Slots of a core that hold groups of a context. -/
def contextSlots (s : State) (fn q cid : Nat) : List Nat := ((contextTeams s fn q).filter fun t => t.2.cid == cid).flatMap (·.2.slots)

/-- The launches that queue commands made, of a context. -/
def contextRoots (s : State) (fn q : Nat) : List Nat :=
  (contextLaunches s fn q).filter fun l => match launchOf s l with | some x => x.parent.isNone | none => false

/-- Some leaf under a table that serves a level has a frame that meets one of `frames`, of `n` bytes each. -/
def mapsFrame (s : State) (frames : List Nat) (n : Nat) : Nat → Nat → Bool
  | 0, _ => false
  | lvl + 1, t => (List.range 512).any fun i =>
    let e := readEntry8 s (t + 8 * i)
    pteV e && (if pteLeaf e then frames.any fun f => f < pteFrame e + pageSize (lvl + 1) && pteFrame e < f + n else mapsFrame s frames n lvl (pteFrame e))

/-- The swap engine of a die is exchanging a frame mapped in one of a context's address spaces (R139). -/
def swapsFor (s : State) (fn q die : Nat) : Bool :=
  let w := look Swap.reset s.swaps die
  let asids := dedup (absAsid s fn (queueOf s fn q).asid :: (contextLaunches s fn q).filterMap fun l => (launchOf s l).map (·.asid))
  w.status == 1 && asids.any fun a =>
    let root := readEntry8 s (s.rootTable + 8 * a)
    root.getLsbD 0 && mapsFrame s [pteFrame w.leafA, pteFrame w.leafB] (swapBytes w.span) 5 (root.toNat % 2 ^ 52 / 4096 * 4096)

/-- The units that a context's work may be on (R139, R143): its cores with their pier's engines, engines with commands of it, the builders and
compactors that work for it, and a swap engine that exchanges a frame of it. -/
def contextUnits (s : State) (fn q : Nat) : List StopUnit :=
  let cids := dedup ((contextTeams s fn q).map (·.2.cid))
  let busy := fun (p : Nat × Pier) => (p.2.copies ++ p.2.gathers).any (fun c => c.fn == fn && c.q == q) || p.2.rays.any fun r => r.fn == fn && r.q == q
  let piers := dedup (cids.map pierNo ++ (s.piers.filter busy).map (·.1))
  let dies := dedup (cids.map (· / 128) ++ (s.builds.filter fun b => b.2.fn == fn && b.2.q == q).flatMap (fun b => b.2.die :: b.2.tasks.map (·.die)) ++
    (s.compacts.filter fun c => c.2.fn == fn && c.2.q == q).map (·.2.die))
  cids.map .core ++ piers.flatMap (fun p => [.matrix p, .copyStream p, .gatherStream p, .traversal p]) ++
    dies.flatMap (fun d => [.builder d, .compactor d]) ++ ((diesHere s).filter (swapsFor s fn q)).map .swap

/-! ## Discarding (R52, R57) -/

/-- A queue's COPY commands are gone. -/
def dropCopies (s : State) (fn q : Nat) : State :=
  let mine := fun (c : XCmd) => c.kind == 5 && c.fn == fn && c.q == q
  let at_ := (s.piers.filter fun p => p.2.copies.any mine).map (·.1)
  at_.foldl (fun s p => dueOnce (releaseEngine s (transferAgent p)) .transferBurst { n0 := p, n1 := 0 })
    { s with piers := s.piers.map fun p => (p.1, { p.2 with copies := p.2.copies.filter fun c => !(mine c) }) }

/-- The builder and compactor work of a context is gone, with the tokens its engines had gathered and the counts of its retired generations. -/
def dropBuilds (s : State) (fn q : Nat) : State :=
  let bs := s.builds.filter fun b => b.2.fn == fn && b.2.q == q
  let cs := s.compacts.filter fun c => c.2.fn == fn && c.2.q == q
  let s1 := bs.foldl (fun s b => (diesHere s).foldl (fun s d => releaseEngine s (builderAgent d b.1)) s) s
  let s2 := cs.foldl (fun s c => releaseEngine s (compactorAgent c.2.die)) s1
  { s2 with
    builds := s2.builds.filter (fun b => !(b.2.fn == fn && b.2.q == q))
    compacts := s2.compacts.filter (fun c => !(c.2.fn == fn && c.2.q == q))
    rayCounts := cs.foldl (fun l c => erase l (generationKey c.2.place c.2.target c.2.generation)) s2.rayCounts }

/-- Everything a context holds is discarded, and every outstanding record of its queue completes TERMINATED (R52, R57, R90). -/
def discardContext (s : State) (fn q : Nat) : State :=
  let ls := contextLaunches s fn q
  let s1 := dropBuilds (dropCopies (discardLaunches s ls) fn q) fn q
  let s2 := dropRecords { s1 with saved := erase s1.saved (contextKey fn q) } fun e => e == (contextKey fn q, true)
  let s3 := modQueue s2 fn q fun x => { x with saved := false, preempt := none }
  ((queueOf s3 fn q).recs.map (·.n)).foldl (fun s n => complete s fn q n 9 0 0 0) s3

/-! ## Saving (R138, R139, R148) -/

/-- The bytes of a span, by offset. -/
def spanBytes (m : List (Nat × Byte)) (a n : Nat) : List (Nat × Byte) :=
  m.filterMap fun (x : Nat × Byte) => if a ≤ x.1 && x.1 < a + n then some (x.1 - a, x.2) else none

/-- The full granules of a span, by offset. -/
def spanFull (full : List Nat) (a n : Nat) : List Nat := full.filterMap fun x => if a ≤ x && x < a + n then some (x - a) else none

/-- A saved context with nothing in it. -/
def Saved.empty : Saved := ⟨[], [], [], [], [], [], []⟩

/-- The trap frame of a group as the image of its team has it (R149); of one that has exited and so has no frame, what a frame would say (log entry
101). -/
def groupFrame (s : State) (g : Group) : List (Nat × Byte) :=
  match g.stop with
  | some st => spanBytes s.mem st.frame 8192
  | none => writeFields [] 0 (frameFields g preemptStop [])

/-- The image of a team (R146, R148). -/
def saveTeam (s : State) (id : Nat) (t : Team) : SavedTeam :=
  let c := coreOf s t.cid
  let p := pierOf s (pierNo t.cid)
  let groups := c.groups.filter fun g => g.2.team == id
  let pipes := match find? s.gangs t.gang with
    | some g => ((List.range g.pipes.length).zip g.pipes).filter fun (x : Nat × Pipe) => x.2.consumer == t.kernel && x.2.cid == t.cid
    | none => []
  { id := id, team := t
    groups := groups.map fun g => (g.1, moveSnapshots (fun m => spanBytes m (4096 * t.unitBase) (4096 * t.units)) g.2)
    frames := groups.map fun g => (g.2.index, groupFrame s g.2)
    scratch := spanBytes c.scratch (4096 * t.unitBase) (4096 * t.units)
    full := spanFull c.full (256 * t.unitBase) (256 * t.units)
    buffers := pipes.map fun (x : Nat × Pipe) => (x.1, spanBytes c.scratch (4096 * x.2.unit) 4096, spanFull c.full (256 * x.2.unit) 256)
    tiles := ((List.range t.tiles.length).zip t.tiles).flatMap fun (n : Nat × Nat) =>
      p.tiles.filterMap fun (w : Nat × Word) => if w.1 / 4096 == n.2 then some (4096 * n.1 + w.1 % 4096, w.2) else none }

/-- The first number that names a team and not a core. -/
def teamNames : Nat := 2 ^ 32

/-- Engine work names its group by team and index while the context is saved. -/
def byTeam (s : State) (cid slot : Nat) : Nat × Nat :=
  match groupOf s cid slot with
  | some g => (teamNames + g.team, g.index)
  | none => (cid, slot)

/-- Engine work names its group by core and slot again. -/
def bySlot (s : State) (cid slot : Nat) : Nat × Nat :=
  match teamOf s (cid - teamNames) with
  | some t => if teamNames ≤ cid then (t.cid, nth 0 t.slots slot) else (cid, slot)
  | none => (cid % 256, slot)

/-- A snapshot of a core's scratchpad, cut to the run of a team. -/
def cutSnapshot (s : State) (team : Nat) (m : List (Nat × Byte)) : List (Nat × Byte) :=
  match teamOf s team with
  | some t => spanBytes m (4096 * t.unitBase) (4096 * t.units)
  | none => m

/-- A cut snapshot at the run a team has now. -/
def putSnapshot (s : State) (team : Nat) (m : List (Nat × Byte)) : List (Nat × Byte) :=
  match teamOf s team with
  | some t => putBytes (4096 * t.unitBase) [] m
  | none => m

/-- A team leaves its core for the save area; groups blocked in REGGROW are looked at anew (R247, R248). -/
def unseat (s : State) (id : Nat) (t : Team) : State :=
  let s0 := modCore s t.cid fun c => { c with groups := c.groups.filter fun g => !(g.2.team == id) }
  let s1 := if (coreOf s0 t.cid).groups.any fun p => blockedGrow p.2 then dueOnce s0 .reggrowGrant { n0 := t.cid } else s0
  let s2 := modLaunch { s1 with teams := erase s1.teams id } t.launch fun l => { l with teams := l.teams.filter fun x => !(x == id) }
  match find? s2.gangs t.gang with
  | some g => { s2 with gangs := place s2.gangs t.gang { g with pipes := g.pipes.map fun p => if p.consumer == t.kernel then { p with cid := noCore } else p } }
  | none => s2

/-- The engine work of a context moves into its image (R139); the streams go on with other contexts' commands (R137). -/
def saveEngines (s : State) (fn q : Nat) (ts : List Nat) : State :=
  let moveX := fun (c : XCmd) =>
    let (a, b) := byTeam s c.cid c.slot
    if c.kind == 5 then c else { c with cid := a, slot := b, before := cutSnapshot s c.team c.before }
  let mine := fun (c : XCmd) => c.fn == fn && c.q == q
  let sv := look Saved.empty s.saved (contextKey fn q)
  let sv1 : Saved := { sv with
    entries := sv.entries ++ s.piers.flatMap fun p => (p.2.table.filter fun e => ts.contains e.team).map fun e =>
      let (a, b) := byTeam s e.cid e.slot
      { e with cid := a, slot := b, before := cutSnapshot s e.team e.before }
    copies := sv.copies ++ s.piers.flatMap fun p => (p.2.copies.filter mine).map fun c => (p.1, moveX c)
    gathers := sv.gathers ++ s.piers.flatMap fun p => (p.2.gathers.filter mine).map moveX
    rays := sv.rays ++ s.piers.flatMap fun p => (p.2.rays.filter fun r => r.fn == fn && r.q == q).map fun r =>
      let (a, b) := byTeam s r.cid r.slot
      { r with cid := a, slot := b } }
  let streams := (s.piers.filter fun p => (p.2.copies ++ p.2.gathers).any mine).map (·.1)
  let s := streams.foldl (fun s p => dueOnce (dueOnce s .transferBurst { n0 := p, n1 := 0 }) .transferBurst { n0 := p, n1 := 1 }) s
  { s with
    saved := place s.saved (contextKey fn q) sv1
    piers := s.piers.map fun p => (p.1, { p.2 with
      table := p.2.table.filter (fun e => !(ts.contains e.team)), copies := p.2.copies.filter (fun c => !(mine c)),
      gathers := p.2.gathers.filter (fun c => !(mine c)), rays := p.2.rays.filter fun r => !(r.fn == fn && r.q == q) })
    builds := s.builds.map fun b => (b.1, if b.2.fn == fn && b.2.q == q then
      let (c, k) := byTeam s b.2.cid b.2.slot
      { b.2 with cid := c, slot := k } else b.2)
    compacts := s.compacts.map fun b => (b.1, if b.2.fn == fn && b.2.q == q then
      let (c, k) := byTeam s b.2.cid b.2.slot
      { b.2 with cid := c, slot := k } else b.2) }

/-- Teams of a context that are on cores move into its image, ahead of those that already are in it. -/
def saveTeams (s : State) (fn q : Nat) : State :=
  let ts := contextTeams s fn q
  let images := ts.map fun t => saveTeam s t.1 t.2
  let sv := look Saved.empty s.saved (contextKey fn q)
  ts.foldl (fun s t => unseat s t.1 t.2) { s with saved := place s.saved (contextKey fn q) { sv with teams := images ++ sv.teams } }

/-! ## Stopping (R136 to R144) -/

/-- Take the launch records of a context out of the placement lists (R138). -/
def takeRecords (s : State) (fn q : Nat) : State :=
  let ls := contextLaunches s fn q
  let sv := look Saved.empty s.saved (contextKey fn q)
  let kept := s.placers.flatMap fun p => (p.2.list.filter fun e => !e.2 && ls.contains e.1).map (fun e => (p.1, e.1)) ++
    (p.2.waiting.filter ls.contains).map fun l => (p.1, l)
  dropRecords { s with saved := place s.saved (contextKey fn q) { sv with launches := sv.launches ++ kept } } fun e => !e.2 && ls.contains e.1

/-- The device decides to pre-empt the context of a queue (R136, R143); with `discard` it ends discarded and terminated (R57).  A context that
is being restored goes back into its image. -/
def startPreempt (s : State) (fn q : Nat) (discard : Bool) : State :=
  let x := queueOf s fn q
  match x.preempt with
  | some p => modQueue s fn q fun x => { x with preempt := some { p with discard := p.discard || discard } }
  | none =>
    if x.saved then
      if discard then discardContext s fn q else
        dropRecords (saveTeams s fn q) fun e => e == (contextKey fn q, true)
    else if x.recs.isEmpty && (contextLaunches s fn q).isEmpty then s
    else
      let s1 := takeRecords s fn q
      let us := contextUnits s1 fn q
      let s2 := modQueue s1 fn q fun x => { x with preempt := some ⟨us, us, discard⟩ }
      let s3 := (contextRoots s2 fn q).foldl watchdog s2
      let s4 := if us.isEmpty then due s3 .contextImageWritten { n0 := fn, n1 := q } else s3
      us.foldl (fun s u => due s .preemptStop { n0 := fn, n1 := q, unit := u }) s4

/-- The stop of a group for pre-emption: open regions abort with PREEMPT, and the group stops at its boundary (R141, R151). -/
def stopForPreempt (s : State) (cid slot : Nat) : State :=
  match groupOf s cid slot with
  | none => s
  | some g =>
    if g.exitedWhole then s else
      stopGroup (abortLanes s cid slot (regionLanes g 0xFFFFFFFF#32) 7 0 0#64) cid slot preemptStop

/-- PREEMPT_STOP: the collector's stop for the context of queue `n1` of function `n0` reaches `unit` (R139, R143). -/
def execPreemptStop (s : State) : Out :=
  let fn := s.args.n0
  let q := s.args.n1
  let u := s.args.unit
  match (queueOf s fn q).preempt with
  | none => .next s
  | some p =>
    if !(p.toStop.contains u) then .next s else
      let s1 := modQueue s fn q fun x => { x with preempt := some { p with toStop := p.toStop.filter fun v => !(v = u) } }
      let s2 := match u with
        | .core cid => (contextSlots s fn q cid).foldl (fun s k => stopForPreempt s cid k) s1
        | _ => s1
      .next (due s2 .stoppingUnitReached s.args)

/-- Builds of a context in whose piece the builders of a die are (R139). -/
def busyBuilds (s : State) (fn q die : Nat) : List (Nat × Build) :=
  s.builds.filter fun b => b.2.fn == fn && b.2.q == q && b.2.faults.isEmpty && b.2.tasks.any fun t => t.begun && t.die == die

/-- A unit has come to its stopping unit: a core when it has drained the context's stores and the traps of its groups are resolved, an engine at its
boundary (R139, R142, R161). -/
def unitStopped (s : State) (fn q : Nat) (u : StopUnit) : Bool :=
  let mine := fun (c : XCmd) => c.fn == fn && c.q == q && c.faults.isEmpty && !(atBoundary c)
  match u with
  | .core cid =>
    let slots := contextSlots s fn q cid
    ((coreOf s cid).sb.all fun e => !(slots.contains e.slot)) &&
    !(s.agenda.any fun d => d.step = .trapResolution && d.args.n0 == cid && slots.contains d.args.n1)
  | .copyStream p => !((pierOf s p).copies.any mine)
  | .gatherStream p => !((pierOf s p).gathers.any mine)
  | .builder d => (busyBuilds s fn q d).isEmpty
  | .swap d => !((look Swap.reset s.swaps d).status == 1)
  | _ => true

/-- What a unit still does on the way to its stopping unit: a core drains the context's stores (R142, R209). -/
def driveUnit (s : State) (fn q : Nat) (u : StopUnit) : State :=
  match u with
  | .core cid =>
    let slots := contextSlots s fn q cid
    ((coreOf s cid).sb.filter fun e => slots.contains e.slot).foldl (fun s e => dueOnce s .drainWrite { n0 := cid, n1 := e.id }) s
  | .copyStream p => dueOnce s .transferBurst { n0 := p, n1 := 0 }
  | .gatherStream p => dueOnce s .transferBurst { n0 := p, n1 := 1 }
  | .builder d => (busyBuilds s fn q d).foldl (fun s b => dueBuild s b.1) s
  | _ => s

/-- A unit that has stopped returns the tokens of lines that it has not written, and of the fences that its rays watched (R142). -/
def releaseUnit (s : State) (fn q : Nat) (u : StopUnit) : State :=
  match u with
  | .copyStream p => releaseEngine s (transferAgent p)
  | .gatherStream p => releaseEngine s (transferAgent p)
  | .traversal p => ((pierOf s p).rays.filter fun r => r.fn == fn && r.q == q).foldl (fun s r => unwatch s p r) s
  | .builder d => (s.builds.filter fun b => b.2.fn == fn && b.2.q == q).foldl (fun s b => releaseEngine s (builderAgent d b.1)) s
  | .compactor d => releaseEngine s (compactorAgent d)
  | _ => s

/-- STOPPING_UNIT_REACHED: `unit` comes to the stopping unit of the context of queue `n1` of function `n0` and acknowledges (R139, R142, R143). -/
def execStoppingUnitReached (s : State) : Out :=
  let fn := s.args.n0
  let q := s.args.n1
  let u := s.args.unit
  match (queueOf s fn q).preempt with
  | none => .next s
  | some p =>
    if p.toStop.contains u || !(p.toAck.contains u) then .next s
    else if !(unitStopped s fn q u) then .next (due (driveUnit s fn q u) .stoppingUnitReached s.args)
    else
      let left := p.toAck.filter fun v => !(v = u)
      let s1 := releaseUnit (modQueue s fn q fun x => { x with preempt := some { p with toAck := left } }) fn q u
      .next (if left.isEmpty then due s1 .contextImageWritten { n0 := fn, n1 := q } else s1)

/-! ## Restoring (R145 to R147, R154, R160) -/

/-- Put a context that is saved at the head of the placement lists of both dies, behind others that are being restored: its teams go on either
die (R145).  While a list has no entry free, it waits (R113). -/
def beginRestore (s : State) (fn q : Nat) : State :=
  let key := contextKey fn q
  if s.placers.any fun p => p.2.list.contains (key, true) then s
  else if !(savedLeft s key) then dueOnce s .contextRestore { n0 := fn, n1 := q, flag := true }
  else if (diesHere s).any fun d => 64 ≤ (placerOf s d).list.length then dueOnce s .contextRestore { n0 := fn, n1 := q }
  else (diesHere s).foldl (fun s die =>
    dueOnce (modPlacer s die fun p => { p with list := p.list.filter (·.2) ++ (key, true) :: p.list.filter fun e => !e.2 }) .placementPass { n0 := die }) s

/-- The engines take up the saved work, each on the pier its team is on now (R147). -/
def restoreEngines (s : State) (fn q : Nat) : State :=
  let key := contextKey fn q
  let sv := look Saved.empty s.saved key
  let s1 := sv.entries.foldl (fun (s : State) (e : MatEntry) =>
    let (c, k) := bySlot s e.cid e.slot
    let tile := match teamOf s e.team with | some t => nth 0 t.tiles e.tileName | none => e.tile
    dueOnce (modPier s (pierNo c) fun p => { p with
      table := p.table ++ [{ e with cid := c, slot := k, tile := tile, before := putSnapshot s e.team e.before }] }) .matrixPass { n0 := pierNo c }) s
  let s2 := sv.copies.foldl (fun (s : State) (x : Nat × XCmd) =>
    let (c, k) := bySlot s x.2.cid x.2.slot
    let (p, cmd) := if x.2.kind == 5 then x else (pierNo c, { x.2 with cid := c, slot := k, before := putSnapshot s x.2.team x.2.before })
    dueOnce (modPier s p fun y => { y with copies := y.copies ++ [cmd] }) .transferBurst { n0 := p, n1 := 0 }) s1
  let s3 := sv.gathers.foldl (fun (s : State) (x : XCmd) =>
    let (c, k) := bySlot s x.cid x.slot
    dueOnce (modPier s (pierNo c) fun y => { y with gathers := y.gathers ++ [{ x with cid := c, slot := k, before := putSnapshot s x.team x.before }] })
      .transferBurst { n0 := pierNo c, n1 := 1 }) s2
  let s4 := sv.rays.foldl (fun (s : State) (r : Ray) =>
    let (c, k) := bySlot s r.cid r.slot
    due (modPier s (pierNo c) fun y => { y with rays := y.rays ++ [{ r with cid := c, slot := k }] })
      (if r.parked then .fenceRecheck else .nodeVisit) { n0 := pierNo c, n1 := r.id }) s3
  let s5 : State := { s4 with builds := s4.builds.map fun (b : Nat × Build) => (b.1, if b.2.fn == fn && b.2.q == q then
      let (c, k) := bySlot s4 b.2.cid b.2.slot
      { b.2 with cid := c, slot := k } else b.2) }
  let s5 : State := { s5 with compacts := s5.compacts.map fun (b : Nat × Compact) => (b.1, if b.2.fn == fn && b.2.q == q then
      let (c, k) := bySlot s5 b.2.cid b.2.slot
      { b.2 with cid := c, slot := k } else b.2) }
  let s6 := (s5.builds.filter fun b => b.2.fn == fn && b.2.q == q).foldl (fun s b => dueBuild s b.1) s5
  let s7 := (s6.compacts.filter fun c => c.2.fn == fn && c.2.q == q).foldl (fun s c => dueOnce s .compactorBlock { n0 := c.1 }) s6
  let queued := (s7.piers.filter fun p => p.2.copies.any fun c => c.fn == fn && c.q == q).map (·.1)
  let s8 := queued.foldl (fun s p => dueOnce s .transferBurst { n0 := p, n1 := 0 }) s7
  let signed := (contextTeams s8 fn q).filter fun t => (teamGroups s8 t.1).any fun g => g.2.cv.any (·.pending)
  signed.foldl (fun s t => dueOnce s .matrixPass { n0 := pierNo t.2.cid }) s8

/-- A group whose context has been restored goes on: a fault that is not resumed, or a halt that is not released, keeps it stopped (R161); a trap
that is pending is resolved; otherwise it resumes through its replay queue (R154). -/
def resumeRestored (s : State) (cid slot : Nat) : State :=
  match (groupOf s cid slot).bind (·.stop) with
  | none => s
  | some st =>
    let s1 := restateStop s cid slot fun x => { x with causes := x.causes &&& 7 }
    if !(st.code == 0) then dueOnce s1 .trapResolution { n0 := cid, n1 := slot }
    else if st.halted || !st.faults.isEmpty then s1
    else resumeGroup s1 cid slot

/-- CONTEXT_RESTORE: the context of queue `n1` of function `n0` is placed again (R145); with `flag`, its last team has been placed: engines take
up their work, groups resume, its launch records return to the lists, and the faults aborted meanwhile take effect (R138, R147, R160). -/
def execContextRestore (s : State) : Out :=
  let fn := s.args.n0
  let q := s.args.n1
  let key := contextKey fn q
  if !(queueOf s fn q).saved then .next s
  else if !s.args.flag then .next (beginRestore s fn q)
  else if savedLeft s key then .next s
  else
    let records := (look Saved.empty s.saved key).launches
    let s1 := restoreEngines s fn q
    let s2 := modQueue { s1 with saved := erase s1.saved key } fn q fun x => { x with saved := false }
    let s3 := (contextTeams s2 fn q).foldl (fun s t => t.2.slots.foldl (fun s k => resumeRestored s t.2.cid k) s) s2
    let s4 := (diesHere s3).foldl admitWaiting (records.foldl (fun s r => due s .placementRecordArrival { n0 := r.1, n1 := r.2, n2 := 1 }) s3)
    let s5 := (contextRoots s4 fn q).foldl watchdog s4
    let s6 := (contextLaunches s5 fn q).foldl checkLaunch s5
    let s7 := ((fnOf s6 fn).faults.filter fun f => f.aborted && f.q == q).foldl (fun s f => abortFault s fn f.id.toNat) s6
    .next ((queueOf s7 fn q).recs.foldl (fun s r => if r.started then s else dueOnce s .recordStart { n0 := fn, n1 := q, n2 := r.n }) s7)

end Sys2Proof.Machine
end

