-- ==== Sys2Proof/Machine/Image.lean ====
section
/-! DEFINITION.  The context image (R148, R149): its sections as bytes, and the step CONTEXT_IMAGE_WRITTEN, which writes them and ends a
pre-emption (R143). -/

namespace Sys2Proof.Machine

/-! ## Sections (R148) -/

/-- A section: kind, zero, length with the header, and what follows. -/
def sectionOf (kind : Nat) (body : List Byte) : List Byte := leBytes 4 kind ++ leBytes 4 0 ++ leBytes 8 (16 + body.length) ++ body

/-- The bytes of a table of offsets. -/
def bytesOf (m : List (Nat × Byte)) (n : Nat) : List Byte := (List.range n).map (readByte m)

/-- The full/empty bits of `n` granules, granule 0 in bit 0 of the first byte. -/
def bitsOf (full : List Nat) (n : Nat) : List Byte :=
  (List.range (n / 8)).map fun k => BitVec.ofNat 8 ((List.range 8).map fun b => if full.contains (8 * k + b) then 2 ^ b else 0).sum

/-- IMAGE: the first section of an image. -/
def imageHeader (s : State) (fn q asid sections : Nat) : List Byte :=
  sectionOf 1 (leBytes 8 (now s) ++ leBytes 2 q ++ leBytes 1 fn ++ leBytes 1 asid ++ leBytes 4 sections ++ leBytes 32 0)

/-- TEAM: coordinates, sizes, barriers, scratchpad and pipe buffers. -/
def teamSection (t : SavedTeam) : List Byte :=
  let tm := t.team
  sectionOf 2 (leBytes 2 tm.x ++ leBytes 2 tm.y ++ leBytes 2 tm.z ++ leBytes 1 tm.groups ++ leBytes 1 tm.granules ++ leBytes 2 tm.units ++
    leBytes 1 tm.tiles.length ++ leBytes 1 t.buffers.length ++ leBytes 4 0 ++
    ((List.range 8).flatMap fun b =>
      let x := nth ⟨0, 0, 0#32⟩ tm.barriers b
      leBytes 4 x.expected ++ leBytes 4 x.arrived ++ leBytes 4 x.phase.toNat ++ leBytes 4 0) ++
    leBytes 3936 0 ++ bytesOf t.scratch (4096 * tm.units) ++ bitsOf t.full (256 * tm.units) ++
    t.buffers.flatMap fun b => bytesOf b.2.1 4096 ++ bitsOf b.2.2 256)

/-- GROUP: the trap frame, the registers and their tags (R149). -/
def groupSection (g : Group) (frame : List (Nat × Byte)) : List Byte :=
  sectionOf 3 (bytesOf frame 8192 ++
    ((List.range 128).flatMap fun v => (List.range 32).flatMap fun t => leBytes 4 (regOf g t v).val.toNat) ++
    (List.range 128).flatMap fun v => (List.range 16).map fun h => BitVec.ofNat 8 ((regOf g (2 * h) v).tag.toNat + 16 * (regOf g (2 * h + 1) v).tag.toNat))

/-- TILES: the accumulator tiles of a team, row-major, in the order of their allocation. -/
def tilesSection (t : SavedTeam) : List Byte :=
  sectionOf 4 ((List.range (4096 * t.team.tiles.length)).flatMap fun k => leBytes 4 (look 0#32 t.tiles k).toNat)

/-- The sections of a team: TEAM, a GROUP for each group, TILES. -/
def teamSections (t : SavedTeam) : List (List Byte) :=
  teamSection t :: (t.groups.map fun g => groupSection g.2 (look [] t.frames g.2.index)) ++ if t.team.tiles.isEmpty then [] else [tilesSection t]

/-- POOL: the records a pool's bins hold, 64 bytes each, bin by bin in the order of their arrival. -/
def poolSection (p : Pool) : List Byte := sectionOf 9 (p.dies.flatMap fun d => d.2.bins.flatMap fun b => b.2.records.flatMap (·.take 64))

/-- FAULT: the faults of the context that are outstanding, in the form of their entries. -/
def faultSection (s : State) (fn q : Nat) : List Byte := sectionOf 11 (((fnOf s fn).faults.filter fun f => f.q == q).flatMap (·.entry))

/-- A section whose layout is specific to the stepping, if there is anything to put into it. -/
def workSection (free kind : Nat) (some_ : Bool) : List (List Byte) := if some_ then [sectionOf kind (Config.imageWork (free + kind))] else []

/-- A die's part of the image of a saved context: the teams that were on it; die 0's part holds the rest as well. -/
def imagePart (s : State) (fn q die : Nat) (c : Saved) : List (List Byte) :=
  let ls := contextLaunches s fn q
  ((c.teams.filter fun t => t.team.cid / 128 == die).flatMap teamSections) ++
  if !(die == 0) then [] else
    workSection s.free 5 (!c.entries.isEmpty) ++ workSection s.free 6 (!(c.copies.isEmpty && c.gathers.isEmpty)) ++
    workSection s.free 7 (!c.rays.isEmpty) ++ workSection s.free 8 (s.builds.any fun b => b.2.fn == fn && b.2.q == q) ++
    (ls.filterMap fun l => ((launchOf s l).bind (·.pool)).map poolSection) ++
    workSection s.free 10 (!c.launches.isEmpty) ++
    if (fnOf s fn).faults.any fun f => f.q == q then [faultSection s fn q] else []

/-- Where the images of a function begin on a die: the save area that Soliracor reserved when the function was enabled (R143, R148). -/
def imageArea (s : State) (fn die : Nat) : Nat := (fnOf s fn).area + 2 ^ 36 * die

/-- Where the next image of a function on a die goes: behind those of its contexts that are saved. -/
def imageBase (s : State) (fn die : Nat) : Nat :=
  ((s.saved.filter fun c => c.1 / 4096 == fn).map fun c => look 0 c.2.area die).foldl max (imageArea s fn die)

/-- Write the image of a saved context into the save areas (R143, R148). -/
def writeImage (s : State) (fn q : Nat) : State :=
  let key := contextKey fn q
  let c := look Saved.empty s.saved key
  let parts := (List.range (dieCount s)).map fun d => (d, imagePart s fn q d c)
  let count := 1 + (parts.map fun p => p.2.length).sum
  let whole := parts.map fun p => (p.1, (if p.1 == 0 then imageHeader s fn q (absAsid s fn (queueOf s fn q).asid) count else []) ++ p.2.flatten)
  let m := whole.foldl (fun m p => writeBytes m (imageBase s fn p.1) p.2) s.mem
  { s with mem := m, free := s.free + 16
           saved := place s.saved key { c with area := whole.map fun p => (p.1, imageBase s fn p.1 + p.2.length) } }

/-- The engines write the bytes a context's COPY commands have moved into the cursor fields of their records (R83): none while a line of one must be
waited for.  A record that cannot be written keeps its cursor; the engine's own goes on. -/
def writeCursors (fn q : Nat) : List XCmd → State → Option State × State
  | [], s => (some s, s)
  | c :: r, s =>
    let at_ := match (queueOf s fn q).recs.find? fun x => x.n == c.rec_ with | some x => x.copyAt | none => 0
    match writeVirt s c.cid c.asid fn at_ (leBytes 8 c.cursor) true with
    | .done s1 => writeCursors fn q r s1
    | .wait s1 => (none, s1)
    | _ => writeCursors fn q r s

/-- CONTEXT_IMAGE_WRITTEN: every unit has acknowledged; the dies write the image of the context of queue `n1` of function `n0`, and the pre-emption
is complete (R143), or the context is discarded (R57). -/
def execContextImageWritten (s : State) : Out :=
  let fn := s.args.n0
  let q := s.args.n1
  match (queueOf s fn q).preempt with
  | none => .next s
  | some p =>
    if !p.toAck.isEmpty then .next s
    else if p.discard then .next (discardContext s fn q)
    else
      let copies := s.piers.flatMap fun p => p.2.copies.filter fun c => c.kind == 5 && c.fn == fn && c.q == q
      match writeCursors fn q copies s with
      | (none, s1) => .next (due s1 .contextImageWritten s.args)
      | (some s0, _) =>
        let s1 := saveTeams (saveEngines s0 fn q ((contextTeams s fn q).map (·.1))) fn q
        let s2 := (diesHere s).foldl ringsReturn (modQueue (writeImage s1 fn q) fn q fun x => { x with preempt := none, saved := true })
        .next (if (queueOf s2 fn q).mapped then dueOnce s2 .contextRestore { n0 := fn, n1 := q } else s2)

end Sys2Proof.Machine
end

