-- ==== Sys2Proof/Machine/Queues.lean ====
section
/-! DEFINITION.  Functions, queues and completion queues (R61 to R73, R77, R91 to R95), SR-IOV (R53, R136), the placement registers (R111 to
R114), and the fault ring (R156 to R160): register writes, doorbells, the mapping pass, and the steps that go with them. -/

namespace Sys2Proof.Machine

/-! ## Measurements (R53) -/

/-- Extend measurement register n with a digest. -/
def extendMeasure (s : State) (n : Nat) (d : List Byte) : State :=
  { s with trust := { s.trust with measures := modNth s.trust.measures n fun m => sha256 (m ++ d) } }

/-- Extend FW_MEASURE5 with a change of a function's configuration. -/
def measureFn (s : State) (fn : Nat) : State :=
  let f := fnOf s fn
  extendMeasure s 5 (Config.eventDigest (leBytes 1 fn ++ leBytes 1 (if f.enabled then 1 else 0) ++ leBytes 2 f.limit ++ leBytes 1 f.top ++
    leBytes 2 f.asidCount ++ leBytes 1 f.asidBase))

/-- The device runs an image accepted as FULL: it takes work (R41, R48, R51). -/
def working (s : State) : Bool := s.trust.life = .operational

/-! ## Fields of registers -/

/-- Bits h to l of a 64-bit register value (R6). -/
def fieldAt (v : Dword) (h l : Nat) : Nat := v.toNat / 2 ^ l % 2 ^ (h + 1 - l)

/-- Bit n of a register value. -/
def bitAt (v : Dword) (n : Nat) : Bool := v.getLsbD n

/-- An address field, bits 56:12 of a base word (R65). -/
def baseField (v : Dword) : Dword := v &&& 0x01FFFFFFFFFFF000#64

/-! ## Functions (R62 to R64, R136) -/

/-- A write to HQ_FN_CFGn would be ignored whole (R64). -/
def fnCfgBad (s : State) (n : Nat) (v : Dword) : Bool :=
  let base := fieldAt v 7 0
  let count := fieldAt v 16 8
  256 < base + count || 4096 < fieldAt v 52 40 ||
  (s.fns.any fun f => !(f.1 == n) && !(f.2.asidCount == 0) && !(count == 0) && base < f.2.asidBase + f.2.asidCount && f.2.asidBase < base + count) ||
  s.queues.any fun q => q.1 / 4096 == n && !(q.2.state == 0)

/-- A write of `v` to HQ_FN_CFGn (R63, R64). -/
def writeFnCfg (s : State) (n : Nat) (v : Dword) : State :=
  if 64 ≤ n || fnCfgBad s n v then s else
    measureFn (modFn s n fun f =>
      { f with limit := fieldAt v 52 40, top := fieldAt v 33 32, asidCount := fieldAt v 16 8, asidBase := fieldAt v 7 0 }) n

/-- HQ_FN_CFG_WRITE: the physical function writes `val` to HQ_FN_CFG of function `n0` (R63, R64). -/
def execHqFnCfgWrite (s : State) : Out := .next (writeFnCfg s s.args.n0 s.args.val)

/-- SRIOV_VF_ENABLE: functions 1 to `n0` are enabled through SR-IOV (R20, R53, R61), each with a save area (R148); a RESTRICTED image enables none
(R48). -/
def execSriovVfEnable (s : State) : Out :=
  if !(working s) then .next s else
    .next ((((List.range (min s.args.n0 63)).map (· + 1)).filter fun n => !(fnOf s n).enabled).foldl (fun s n =>
      measureFn (modFn s n fun f => { f with enabled := true, area := areaOf n }) n) s)

/-- SRIOV_VF_DISABLE: function `n0` is disabled through SR-IOV, and the contexts of its queues are pre-empted (R53, R136). -/
def execSriovVfDisable (s : State) : Out :=
  let n := s.args.n0
  if n == 0 || !(fnOf s n).enabled then .next s else
    let s1 := measureFn (modFn s n fun f => { f with enabled := false }) n
    let qs := (s.queues.filter fun q => q.1 / 4096 == n).map (·.1 % 4096)
    .next (qs.foldl (fun s q => startPreempt (modQueue s n q fun x => { x with mapped := false, since := now s }) n q false) s1)

/-! ## Queues (R65 to R69) -/

/-- Agents claim the records of a mapped queue: a claim is due when one is left (R74, R75, R93).  Which core's agent claims is a free value. -/
def dueClaim (s : State) (fn q : Nat) : State :=
  let x := queueOf s fn q
  if x.mapped && x.state == 1 && !(x.tail = x.ticket) then
    if s.agenda.any fun d => d.step = .recordClaim && d.args.n0 == fn && d.args.n1 == q then s else
      let (v, s1) := takeFree s
      due s1 .recordClaim { n0 := fn, n1 := q, n2 := v % (128 * dieCount s) }
  else s

/-- Queues of a function whose ENABLE is 1. -/
def enabledQueues (s : State) (fn : Nat) : Nat := (s.queues.filter fun q => q.1 / 4096 == fn && (q.2.state == 1 || q.2.state == 2)).length

/-- The fields of a disabled queue are valid (R68). -/
def queueValid (s : State) (fn : Nat) (x : Queue) : Bool :=
  let f := fnOf s fn
  x.log2 ≤ 10 && x.asid < f.asidCount && f.top ≤ x.priority && (cqOf s fn x.cq).enabled && enabledQueues s fn < f.limit

/-- A queue stops claiming: DRAINING until its claimed records have posted, then DISABLED (R69). -/
def disableQueue (s : State) (fn q : Nat) : State :=
  let x := queueOf s fn q
  if x.state == 1 || x.state == 2 then
    checkMapped (queueDrained (modQueue s fn q fun x => { x with state := 3 }) fn q) fn q
  else s

/-- A write to HQ_Q_CFG (R66, R68, R69).  Only a device that takes work enables a queue (R41, R48): in any other state ENABLE stays 0, and the other
fields take the write (log entry 102). -/
def writeQueueCfg (s : State) (fn q : Nat) (v : Dword) : State :=
  let x := queueOf s fn q
  let x1 := { x with cq := fieldAt v 55 44, priority := fieldAt v 41 40, asid := fieldAt v 39 32, log2 := fieldAt v 3 0 }
  if !(fnOf s fn).enabled then s
  else if bitAt v 63 then
    if !(x.state == 0) then s
    else if !(working s) then modQueue s fn q fun _ => x1
    else if queueValid s fn x1 then
      modQueue s fn q fun _ =>
        { Queue.reset with ring := x.ring, state := 1, cq := x1.cq, priority := x1.priority, asid := x1.asid, log2 := x1.log2, since := now s }
    else modQueue s fn q fun _ => { x1 with err := BitVec.ofNat 64 (0x0B * 2 ^ 32) }
  else if x.state == 1 || x.state == 2 then disableQueue s fn q
  else modQueue s fn q fun _ => x1

/-- QUEUE_ENABLE: a write of `val`, with ENABLE set, to HQ_Q_CFG of queue `n1` of function `n0` (R68). -/
def execQueueEnable (s : State) : Out := .next (writeQueueCfg s s.args.n0 s.args.n1 (s.args.val ||| 1#64 <<< 63))

/-- QUEUE_DISABLE: a write that clears ENABLE of queue `n1` of function `n0` (R69). -/
def execQueueDisable (s : State) : Out := .next (disableQueue s s.args.n0 s.args.n1)

/-! ## Completion queues (R67 to R69, R91, R92) -/

/-- Post what waits for a completion queue. -/
def retryCq (s : State) (fn c : Nat) : State := cqPost s fn c (cqOf s fn c).waiting.length

/-- The timer of a completion queue stops and its count is discarded. -/
def stopCount (s : State) (fn c : Nat) : State :=
  withdraw (modCq s fn c fun q => { q with posted := 0, timerOn := false }) fun d => d.step = .cqTimerExpiry && d.args.n0 == fn && d.args.n1 == c

/-- Lower IRQ_EN: the timer stops and the count is discarded (R92). -/
def stopIrq (s : State) (fn c : Nat) : State := stopCount (modCq s fn c fun q => { q with irqEn := false }) fn c

/-- Write IRQ_EN, COUNT and TIMER of a running completion queue (R68, R92). -/
def runningCq (s : State) (fn c : Nat) (v : Dword) : State :=
  let q := cqOf s fn c
  let s1 := if bitAt v 62 && !q.irqEn then modCq s fn c fun q => { q with irqEn := true, posted := 0 }
            else if !(bitAt v 62) && q.irqEn then stopIrq s fn c else s
  modCq s1 fn c fun q => { q with count := fieldAt v 55 48, timer := fieldAt v 47 32 }

/-- A queue that is not DISABLED names a completion queue (R69). -/
def cqInUse (s : State) (fn c : Nat) : Bool := s.queues.any fun q => q.1 / 4096 == fn && !(q.2.state == 0) && q.2.cq == c

/-- A write to HQ_CQ_CFG (R67, R68, R69, R91); ENABLE rises only in a device that takes work (R41, R48; log entry 102). -/
def writeCqCfg (s : State) (fn c : Nat) (v : Dword) : State :=
  let q := cqOf s fn c
  let zero := fieldAt v 55 48 == 0 || fieldAt v 47 32 == 0
  if !(fnOf s fn).enabled then s
  else if q.enabled then
    retryCq (if zero then s
      else if !(bitAt v 63) && !(cqInUse s fn c) then stopCount (modCq (runningCq s fn c v) fn c fun q => { q with enabled := false }) fn c
      else runningCq s fn c v) fn c
  else
    let q1 := { q with irqEn := bitAt v 62, vector := fieldAt v 61 56, count := fieldAt v 55 48, timer := fieldAt v 47 32, asid := fieldAt v 23 16,
                       log2 := fieldAt v 3 0 }
    if !(bitAt v 63) || !(working s) then modCq s fn c fun _ => q1
    else if zero || 10 < q1.log2 || (fnOf s fn).asidCount ≤ q1.asid then modCq s fn c fun _ => { q1 with err := BitVec.ofNat 64 (0x0B * 2 ^ 32) }
    else modCq s fn c fun _ => { q1 with enabled := true, tail := 0#32, head := 0#32, err := 0#64, posted := 0, timerOn := false, waiting := [] }

/-- CQ_ENABLE: a write of `val`, with ENABLE set, to HQ_CQ_CFG of completion queue `n1` of function `n0` (R68). -/
def execCqEnable (s : State) : Out := .next (writeCqCfg s s.args.n0 s.args.n1 (s.args.val ||| 1#64 <<< 63))

/-- CQ_DISABLE: a write of `val`, with ENABLE clear, to HQ_CQ_CFG of completion queue `n1` of function `n0` (R69). -/
def execCqDisable (s : State) : Out := .next (writeCqCfg s s.args.n0 s.args.n1 (s.args.val &&& ~~~(1#64 <<< 63)))

/-- CQ_IRQ_EN_SET: IRQ_EN of completion queue `n1` of function `n0` rises: its count starts at zero (R92).  The entries that wait are tried again
(R91). -/
def execCqIrqEnSet (s : State) : Out :=
  let c := cqOf s s.args.n0 s.args.n1
  .next (retryCq (if c.irqEn then s else modCq s s.args.n0 s.args.n1 fun q => { q with irqEn := true, posted := 0 }) s.args.n0 s.args.n1)

/-- CQ_IRQ_EN_CLEAR: IRQ_EN of completion queue `n1` of function `n0` falls: the timer stops and the count is discarded (R92).  The entries that
wait are tried again (R91). -/
def execCqIrqEnClear (s : State) : Out := .next (retryCq (stopIrq s s.args.n0 s.args.n1) s.args.n0 s.args.n1)

/-- A write of `h` to the head register of a completion queue: it releases consumed entries, and the entries that wait are tried again (R71, R91). -/
def writeHead (s : State) (fn c : Nat) (h : Word) : State :=
  let q := cqOf s fn c
  if !q.enabled || !(working s) then s
  else retryCq (if (h - q.head).toNat ≤ (q.tail - q.head).toNat then modCq s fn c fun q => { q with head := h } else s) fn c

/-- COMPLETION_ENTRY_RETRY: entries that wait for completion queue `n1` of function `n0` are tried again, within 1 ms (R91). -/
def execCompletionEntryRetry (s : State) : Out := .next (retryCq s s.args.n0 s.args.n1)

/-- CQ_TIMER_EXPIRY: the timer of completion queue `n1` of function `n0` reaches TIMER us, and its vector is raised (R92). -/
def execCqTimerExpiry (s : State) : Out :=
  let q := cqOf s s.args.n0 s.args.n1
  if q.timerOn && q.irqEn then .next (cqRaise s s.args.n0 s.args.n1) else .next s

/-! ## Notify (R71 to R73) -/

/-- A write of `t` to the notify register of a queue (R40, R41, R71, R72, R73). -/
def notify (s : State) (fn q : Nat) (t : Word) : State :=
  let x := queueOf s fn q
  if !(working s) || !(x.state == 1) then s
  else
    let d := (t - x.tail).toNat
    let used := (x.tail - x.head).toNat
    if ringSize x.log2 - used < d then queueError s fn q 0x0A t.toNat
    else if d == 0 then s
    else dueClaim (modQueue s fn q fun x => { x with tail := t, pending := x.pending || !x.mapped }) fn q

/-- A write of `size` bytes at byte `o` of page `page` of a function's BAR 2 (R71): the notify register, the head register, or nothing. -/
def writeDoorbell (s : State) (fn page o size : Nat) (v : Dword) : State :=
  if 4096 ≤ page || !(fnOf s fn).enabled || !((size == 4 || size == 8) && o % size == 0) then s
  else if o == 0 then notify s fn page (loWord v)
  else if o == 8 then writeHead s fn page (loWord v)
  else s

/-- What a read of the doubleword at byte `o` of a doorbell page gives: zero, but for the two registers, of whose reads the spec says nothing (R71). -/
def readDoorbell (o : Nat) : Option Dword := if o == 0 || o == 8 then none else some 0#64

/-- The size of a doorbell write: `n3` bytes, 0 standing for 4. -/
def doorbellSize (n : Nat) : Nat := if n == 0 then 4 else n

/-- NOTIFY: `val` is written to page `n1` of BAR 2 of function `n0`, at byte `n2`, in `n3` bytes, 0 standing for 4; byte 0 is the notify register of queue
`n1` (R71 to R73). -/
def execNotify (s : State) : Out := .next (writeDoorbell s s.args.n0 s.args.n1 s.args.n2 (doorbellSize s.args.n3) s.args.val)

/-- CQ_HEAD_WRITE: `val` is written to page `n1` of BAR 2 of function `n0`, `n2` bytes behind byte 8, in `n3` bytes, 0 standing for 4; byte 8 is the head
register of completion queue `n1` (R71, R91). -/
def execCqHeadWrite (s : State) : Out := .next (writeDoorbell s s.args.n0 s.args.n1 (8 + s.args.n2) (doorbellSize s.args.n3) s.args.val)

/-! ## The mapping pass (R93, R94) -/

/-- A queue the scheduler may map: it wants a slot, and its function is enabled (R93; log entry 89). -/
def mappable (s : State) (k : Nat) (x : Queue) : Bool := !x.mapped && wantsSlot x && (fnOf s (k / 4096)).enabled

/-- Queues that wait for a slot: priority 0 first, then the longest unmapped (R93). -/
def waitingQueues (s : State) : List (Nat × Queue) :=
  sortBy (fun a b => a.2.priority < b.2.priority || (a.2.priority == b.2.priority && a.2.since ≤ b.2.since)) (s.queues.filter fun q => mappable s q.1 q.2)

/-- Queues that hold a slot. -/
def mappedCount (s : State) : Nat := (s.queues.filter (·.2.mapped)).length

/-- A queue gets a slot: PENDING clears, its claims go on, and its saved context is restored (R73, R93, R145). -/
def mapQueue (s : State) (k : Nat) : State :=
  let fn := k / 4096
  let q := k % 4096
  let s1 := modQueue s fn q fun x => { x with mapped := true, pending := false, since := now s }
  let s2 := if (queueOf s1 fn q).saved then dueOnce s1 .contextRestore { n0 := fn, n1 := q } else s1
  dueClaim s2 fn q

/-- A queue loses its slot (R94). -/
def unmapQueue (s : State) (k : Nat) : State := modQueue s (k / 4096) (k % 4096) fun x => { x with mapped := false, since := now s }

/-- Step 3 for one waiting queue: it takes the slot of a queue of numerically higher priority, or of one of equal priority mapped for 2 ms; which of
several is a free value. -/
def displace (s : State) (k : Nat) : State :=
  let x := queueOf s (k / 4096) (k % 4096)
  let victims := s.queues.filter fun v =>
    v.2.mapped && (x.priority < v.2.priority || (x.priority == v.2.priority && 2000000 ≤ now s - v.2.since))
  let (f, s1) := takeFree s
  match victims[f % victims.length]? with
  | none => s
  | some v => mapQueue (startPreempt (unmapQueue s1 v.1) (v.1 / 4096) (v.1 % 4096) false) k

/-- One mapping pass (R93). -/
def mappingPass (s : State) : State :=
  let s1 := (s.queues.filter fun q => q.2.mapped && !(wantsSlot q.2)).foldl (fun s q => unmapQueue s q.1) s
  let s2 := ((waitingQueues s1).take (128 - mappedCount s1)).foldl (fun s q => mapQueue s q.1) s1
  (waitingQueues s2).foldl (fun s q => displace s q.1) s2

/-- MAPPING_PASS: the queue scheduler maps queues onto the 128 slots (R93); with `flag`, the pass of every 250 us. -/
def execMappingPass (s : State) : Out :=
  if !(working s) then .next s else
    let s1 := mappingPass s
    .next (if s.args.flag then later s1 250000 .mappingPass { flag := true } else s1)

/-! ## Placement registers (R111 to R114) -/

/-- A write of `v` to PL_CFG of a die: the placement unit takes its fields and makes a pass (R108, R112). -/
def writePlCfg (s : State) (d : Nat) (v : Dword) : State :=
  if dieCount s ≤ d then s else
    dueOnce (modPlacer s d fun p =>
      { p with ageLimit := if fieldAt v 15 8 == 0 then p.ageLimit else fieldAt v 15 8, backfill := bitAt v 0 }) .placementPass { n0 := d }

/-- PL_CFG_WRITE: `val` is written to PL_CFG of die `n0` (R112). -/
def execPlCfgWrite (s : State) : Out := .next (writePlCfg s s.args.n0 s.args.val)

/-! ## The fault ring (R157 to R160) -/

/-- Post the fault entries that wait. -/
def retryFaults (s : State) (fn : Nat) : State := postFaults s fn ((fnOf s fn).faults.length)

/-- A write to HQ_FAULT_CFG (R68, R157, R159). -/
def writeFaultCfg (s : State) (fn : Nat) (v : Dword) : State :=
  let f := fnOf s fn
  if f.frEnabled then
    if bitAt v 63 then retryFaults (modFn s fn fun f => { f with frIrq := bitAt v 62 }) fn
    else
      let ids := (f.faults.filter fun x => !x.written).map (·.id.toNat)
      ids.foldl (fun s id => abortFault s fn id) (modFn s fn fun f => { f with frEnabled := false, frIrq := bitAt v 62 })
  else
    let f1 := { f with frIrq := bitAt v 62, frVector := fieldAt v 61 56, frTimeout := fieldAt v 47 32, frAsid := fieldAt v 23 16, frLog2 := fieldAt v 3 0 }
    if bitAt v 63 && f1.frLog2 ≤ 10 && f1.frAsid < f.asidCount && 1 ≤ f1.frTimeout then
      retryFaults (modFn s fn fun _ => { f1 with frEnabled := true, frTail := 0#32, frHead := 0#32 }) fn
    else modFn s fn fun _ => f1

/-- FAULT_RING_ENABLE: a write of `val`, with ENABLE set, to HQ_FAULT_CFG of function `n0` (R157). -/
def execFaultRingEnable (s : State) : Out := .next (writeFaultCfg s s.args.n0 (s.args.val ||| 1#64 <<< 63))

/-- FAULT_RING_DISABLE: a write of `val`, with ENABLE clear, to HQ_FAULT_CFG of function `n0`: each fault whose entry waits on chip is an ABORT (R159). -/
def execFaultRingDisable (s : State) : Out := .next (writeFaultCfg s s.args.n0 (s.args.val &&& ~~~(1#64 <<< 63)))

/-- A write of `v` to HQ_FAULT_HEAD: entries are freed, as a completion queue's head frees them, and the entries that wait are tried again
(R91, R157, R159). -/
def writeFaultHead (s : State) (fn : Nat) (v : Dword) : State :=
  let f := fnOf s fn
  let h := loWord v
  retryFaults (if (h - f.frHead).toNat ≤ (f.frTail - f.frHead).toNat then modFn s fn fun f => { f with frHead := h } else s) fn

/-- FAULT_HEAD_WRITE: `val` is written to HQ_FAULT_HEAD of function `n0` (R157, R159). -/
def execFaultHeadWrite (s : State) : Out := .next (writeFaultHead s s.args.n0 s.args.val)

/-- FAULT_ENTRY_RETRY: the fault entries of function `n0` that wait are tried again, within 1 ms (R159). -/
def execFaultEntryRetry (s : State) : Out := .next (retryFaults s s.args.n0)

/-- A group whose faults have all been resumed goes on, unless a halt, a trap or a pre-emption keeps it stopped (R156, R160, R161). -/
def resumeFaulted (s : State) (cid slot : Nat) : State :=
  match (groupOf s cid slot).bind (·.stop) with
  | none => s
  | some st => if st.faults.isEmpty && !st.halted && st.code == 0 && st.causes / 8 % 2 == 0 then resumeGroup s cid slot else s

/-- A stopped group no longer waits for a fault. -/
def forgetFault (id : Nat) (g : Group) : Group := { g with stop := g.stop.map fun x => { x with faults := x.faults.filter fun y => !(y == id) } }

/-- A command no longer waits for a fault. -/
def forgetCmd (fn id : Nat) (c : XCmd) : XCmd := if c.fn == fn then { c with faults := c.faults.filter fun y => !(y == id) } else c

/-- A ray no longer waits for a fault. -/
def forgetRay (fn id : Nat) (r : Ray) : Ray := if r.fn == fn then { r with faults := r.faults.filter fun y => !(y == id) } else r

/-- Saved work no longer waits for a fault (R160). -/
def forgetSaved (fn id : Nat) (c : Saved) : Saved :=
  { c with teams := c.teams.map fun t => { t with groups := t.groups.map fun g => (g.1, forgetFault id g.2) }
           copies := c.copies.map fun x => (x.1, forgetCmd fn id x.2)
           gathers := c.gathers.map (forgetCmd fn id)
           rays := c.rays.map (forgetRay fn id) }

/-- A fault of a function has been resumed: what waited for it, a group, an engine's command or a pool's ring, replays once it waits for no
other (R156). -/
def resumeFault (s : State) (fn id : Nat) : State :=
  let mine := fun (g : Group) => (contextOf s g).1 == fn && (match g.stop with | some st => st.faults.contains id | none => false)
  let groups := s.cores.flatMap fun c => (c.2.groups.filter fun g => mine g.2).map fun g => (c.1, g.1)
  let cmds := s.piers.flatMap fun p => (if p.2.copies.any fun c => c.fn == fn && c.faults.contains id then [(p.1, 0)] else []) ++
    if p.2.gathers.any fun c => c.fn == fn && c.faults.contains id then [(p.1, 1)] else []
  let rays := s.piers.flatMap fun p => (p.2.rays.filter fun r => r.fn == fn && r.faults.contains id).map fun r => (p.1, r.id)
  let builds := (s.builds.filter fun b => b.2.fn == fn && b.2.faults.contains id).map (·.1)
  let compacts := (s.compacts.filter fun c => c.2.fn == fn && c.2.faults.contains id).map (·.1)
  let rings := s.launches.flatMap fun l => match l.2.pool with
    | some p => if l.2.fn == fn then (p.dies.filter fun d => d.2.faults.contains id).map fun d => (l.1, d.1) else []
    | none => []
  let s1 := modFn s fn fun f => { f with faults := f.faults.filter fun x => !(x.id.toNat == id) }
  let s2 : State := { s1 with
    piers := s1.piers.map fun p => (p.1, { p.2 with
      copies := p.2.copies.map (forgetCmd fn id), gathers := p.2.gathers.map (forgetCmd fn id), rays := p.2.rays.map (forgetRay fn id) })
    builds := s1.builds.map fun b => (b.1, if b.2.fn == fn then { b.2 with faults := b.2.faults.filter fun y => !(y == id) } else b.2)
    compacts := s1.compacts.map fun c => (c.1, if c.2.fn == fn then { c.2 with faults := c.2.faults.filter fun y => !(y == id) } else c.2)
    saved := s1.saved.map fun c => (c.1, if c.1 / 4096 == fn then forgetSaved fn id c.2 else c.2) }
  let s3 := rings.foldl (fun s r => dueOnce (modPoolDie s r.1 r.2 fun d => { d with faults := d.faults.filter fun y => !(y == id) })
    .overflowRingReturn { n0 := r.2, n1 := r.1 }) s2
  let s4 := groups.foldl (fun s g => resumeFaulted (modGroup s g.1 g.2 (forgetFault id)) g.1 g.2) s3
  let s5 := cmds.foldl (fun s c => dueOnce s .transferBurst { n0 := c.1, n1 := c.2 }) s4
  let s6 := rays.foldl (fun s r => dueOnce s .nodeVisit { n0 := r.1, n1 := r.2 }) s5
  compacts.foldl (fun s c => dueOnce s .compactorBlock { n0 := c }) (builds.foldl dueBuild s6)

/-- A fault of an identifier is outstanding. -/
def outstandingFault (s : State) (fn id : Nat) : Bool := (fnOf s fn).faults.any fun x => x.id.toNat == id && !x.aborted

/-- RETRY or ABORT for a fault (R159): nothing for one that is not outstanding. -/
def writeFaultResume (s : State) (fn id : Nat) (stop : Bool) : State :=
  if !(outstandingFault s fn id) then s else if stop then abortFault s fn id else resumeFault s fn id

/-- FAULT_RESUME_RETRY: RETRY for fault `n1` is written to HQ_FAULT_RESUME of function `n0` (R156, R159, R160). -/
def execFaultResumeRetry (s : State) : Out := .next (writeFaultResume s s.args.n0 s.args.n1 false)

/-- FAULT_RESUME_ABORT: ABORT for fault `n1` is written to HQ_FAULT_RESUME of function `n0` (R159, R160). -/
def execFaultResumeAbort (s : State) : Out := .next (writeFaultResume s s.args.n0 s.args.n1 true)

/-- FAULT_TIMEOUT: fault `n1` of function `n0` has not been resumed within TIMEOUT ms of being raised: an ABORT (R159). -/
def execFaultTimeout (s : State) : Out :=
  if outstandingFault s s.args.n0 s.args.n1 then .next (abortFault s s.args.n0 s.args.n1) else .next s

end Sys2Proof.Machine
end

