-- ==== Sys2Proof/Machine/Commands.lean ====
section
/-! DEFINITION.  Command records (R74 to R88, R101): claiming, starting and checking them, and the steps of each command. -/

namespace Sys2Proof.Machine

/-! ## Records -/

/-- A record that has been claimed, by number. -/
def recordOf (s : State) (fn q n : Nat) : Option Rec := (queueOf s fn q).recs.find? fun r => r.n == n

/-- Change a record. -/
def modRecord (s : State) (fn q n : Nat) (f : Rec → Rec) : State :=
  modQueue s fn q fun x => { x with recs := x.recs.map fun r => if r.n == n then f r else r }

/-- A record as its claim leaves it. -/
def Rec.claimed (n cid : Nat) : Rec := ⟨n, cid, false, 0, 0, 0, [], none, 0, 0, [], none, none⟩

/-- RECORD_CLAIM: the agent of core `n2` claims the next record of queue `n1` of function `n0` (R74, R75, R94, R95). -/
def execRecordClaim (s : State) : Out :=
  let fn := s.args.n0
  let q := s.args.n1
  let x := queueOf s fn q
  if !(x.mapped && x.state == 1) || x.tail = x.ticket then .next s else
    let n := x.ticket.toNat
    let s1 := modQueue s fn q fun x => { x with ticket := x.ticket + 1, recs := x.recs ++ [Rec.claimed n s.args.n2] }
    .next (checkMapped (dueClaim (due s1 .recordStart { n0 := fn, n1 := q, n2 := n }) fn q) fn q)

/-- The address of record n of a queue's ring (R70). -/
def recordAddr (x : Queue) (n : Nat) : Nat := x.ring.toNat + 64 * (n % ringSize x.log2)

/-- The completion queue of a queue has a free entry, and no entry waits to be written (R77, R91). -/
def roomInCq (s : State) (fn q : Nat) : Bool :=
  let c := cqOf s fn (queueOf s fn q).cq
  c.waiting.isEmpty && (c.tail - c.head).toNat < ringSize c.log2

/-- A record may start, as far as its queue goes (R75, R77, R87, R138). -/
def mayStart (s : State) (fn q n : Nat) : Bool :=
  let x := queueOf s fn q
  x.started.toNat == n && !x.saved && x.preempt.isNone && roomInCq s fn q && !(x.recs.any fun r => r.started && r.opcode == 0x11)

/-- Commands that start only when HEAD names them: those with BARRIER, SIGNAL_TOKEN, CONFIG and NOP_FENCE (R75). -/
def headOnly (b : List Byte) : Bool := recField b 1 1 % 2 == 1 || [0x10, 0x30, 0x3F].contains (recField b 0 1)

/-! ## Checks (R79, R80) -/

/-- The first bad byte of a header. -/
def headerBad (b : List Byte) : Option Nat :=
  firstBad [(0, !([0x01, 0x02, 0x03, 0x10, 0x11, 0x20, 0x30, 0x3F].contains (recField b 0 1))), (1, 32 ≤ recField b 1 1),
    (2, !(recField b 2 1 == 0)), (3, !(recField b 3 1 == 0))]

/-- The first bad field of a LAUNCH_GANG body. -/
def gangBad (b : List Byte) : Option Nat :=
  earlier (firstBad [(8, !(recField b 8 8 % 64 == 0)), (16, recField b 16 2 == 0)]) (earlier (firstNonzero b 18 18) (firstNonzero b 40 24))

/-- The first bad field of a LAUNCH_POOL body (R80, R81). -/
def poolBad (s : State) (b : List Byte) : Option Nat :=
  let f := recField b
  let checks := firstBad [(8, !(f 8 8 % 4096 == 0)), (16, !(f 16 8 % 64 == 0)), (24, f 24 4 == 0 || 4096 < f 24 4), (28, f 28 1 < 2 || 16 < f 28 1),
    (29, 3 < f 29 1 || (f 29 1 == 2 && dieCount s == 1)), (32, !(f 32 8 % 4096 == 0)),
    (40, !(f 40 4 % 64 == 0) || (f 32 8 == 0 && !(f 40 4 == 0))), (44, f 44 4 == 0)]
  earlier checks (earlier (firstNonzero b 30 2) (firstNonzero b 56 8))

/-- The first bad field of a token command's body; `used` bytes of it have a meaning. -/
def tokenBad (b : List Byte) (used : Nat) : Option Nat :=
  earlier (firstBad [(8, !(recField b 8 8 % 32 == 0))]) (firstNonzero b used (64 - used))

/-- The first bad field of a COPY body (R80, R83). -/
def copyBad (b : List Byte) : Option Nat :=
  let f := recField b
  earlier (firstBad [(24, f 24 8 == 0 || 2 ^ 40 < f 24 8), (32, f 24 8 ≤ f 32 8)]) (firstNonzero b 40 24)

/-- A key of CONFIG is reserved to the physical function (R84). -/
def keyReserved (k : Nat) : Bool := k == 1 || k == 4 || k == 5

/-- The first bad value of a CONFIG record of key `k` (R84): A, at 16, is `x`, and B, at 24, is `y`. -/
def keyValuesBad (s : State) (fn k x y : Nat) : Option Nat :=
  match k with
  | 1 =>
    let inTier := match tierOf s x with | some 0 => true | some 1 => true | _ => false
    firstBad [(16, !(x == 0) && (!(x % 4096 == 0) || !inTier)), (24, (fnOf s (y / 256 % 64)).asidCount ≤ y % 256 || 2 ^ 14 ≤ y)]
  | 2 => firstBad [(16, x < (fnOf s fn).top || 3 < x)]
  | 3 => firstBad [(16, x == 0 || 2 ^ 32 ≤ x)]
  | 4 => firstBad [(16, x == 0 || 255 < x), (24, dieCount s ≤ y)]
  | _ => firstBad [(16, !(x == 0)), (24, y / 4096 % 64 == 0 || !(fnOf s (y / 4096 % 64)).enabled || 2 ^ 18 ≤ y)]

/-- The same of the body of a record that function `fn` sends under the key `k`.  A reserved key is not looked at further when a virtual function
sends it. -/
def valueBad (s : State) (fn k : Nat) (b : List Byte) : Option Nat :=
  if keyReserved k && !(fn == 0) then none else keyValuesBad s fn k (recField b 16 8) (recField b 24 8)

/-- The first bad field of a CONFIG body that function `fn` sends. -/
def configBad (s : State) (fn : Nat) (b : List Byte) : Option Nat :=
  let k := recField b 8 2
  earlier (firstBad [(8, k == 0 || 5 < k)]) (earlier (firstNonzero b 10 6) (earlier (if k == 0 || 5 < k then none else valueBad s fn k b) (firstNonzero b 32 32)))

/-- The first bad byte of a record that function `fn` sends. -/
def recordBad (s : State) (fn : Nat) (b : List Byte) : Option Nat :=
  earlier (headerBad b) (match recField b 0 1 with
    | 0x01 => gridBad s b
    | 0x02 => gangBad b
    | 0x03 => poolBad s b
    | 0x10 => tokenBad b 24
    | 0x11 => tokenBad b 28
    | 0x20 => copyBad b
    | 0x30 => configBad s fn b
    | 0x3F => firstNonzero b 8 56
    | _ => none)

/-- The step that carries a command out. -/
def commandStep (b : List Byte) : Instr :=
  match recField b 0 1, recField b 8 2 with
  | 0x01, _ => .launchGrid
  | 0x02, _ => .launchGang
  | 0x03, _ => .launchPool
  | 0x10, _ => .signalToken
  | 0x11, _ => .waitToken
  | 0x20, _ => .copy
  | 0x30, 1 => .asidRoot
  | 0x30, 2 => .queuePriority
  | 0x30, 3 => .watchdogDefault
  | 0x30, 4 => .ageLimit
  | 0x30, 5 => .queueStop
  | _, _ => .nopFence

/-- RECORD_START: record `n2` of queue `n1` of function `n0` starts in record order: it is read and checked, and its command follows (R75, R77 to
R80). -/
def execRecordStart (s : State) : Out :=
  let fn := s.args.n0
  let q := s.args.n1
  let n := s.args.n2
  let x := queueOf s fn q
  let again := fun (s : State) => Host.Outcome.next (due s .recordStart { n0 := fn, n1 := q, n2 := n })
  match recordOf s fn q n with
  | none => .next s
  | some r =>
    if r.started then .next s
    else if !(mayStart s fn q n) then again s
    else
      let va := recordAddr x n
      let start := fun (s : State) (b : List Byte) =>
        modQueue (modRecord s fn q n fun r =>
          { r with started := true, opcode := recField b 0 1, flags := recField b 1 1, tag := recField b 4 4, body := b, copyAt := va + 32, acquire := x.acquire }) fn q
          fun x => { x with started := x.started + 1 }
      let fails := fun (s : State) => Host.Outcome.next (failRecord (start s []) fn q n 6 (va % 2 ^ 32))
      match readVirt s r.cid (absAsid s fn x.asid) fn va 64 .read true with
      | .wait s1 => again s1
      | .fault _ _ => fails s
      | .poison => fails s
      | .down _ => fails s
      | .bytes b s1 =>
        if headOnly b && !(x.head.toNat == n) then again s1
        else
          match recordBad s1 fn b with
          | some k => .next (failRecord (start s1 b) fn q n 1 k)
          | none => .next (due (start s1 b) (commandStep b) { n0 := fn, n1 := q, n2 := n })

/-- The record a command's step is about, started and not complete. -/
def commandOf (s : State) : Option Rec := (recordOf s s.args.n0 s.args.n1 s.args.n2).bind fun r => if r.started then some r else none

/-- The record that a step is about completes. -/
def finishCommand (s : State) (status detail scope dies : Nat) : State := complete s s.args.n0 s.args.n1 s.args.n2 status detail scope dies

/-- The record that a step is about fails (R78). -/
def failCommand (s : State) (status detail : Nat) : State := failRecord s s.args.n0 s.args.n1 s.args.n2 status detail

/-! ## Launches (R76, R80, R81, R88, R101) -/

/-- The die of an agent. -/
def homeOf (r : Rec) : Nat := r.cid / 128

/-- What a launch takes from its queue and its record: `us` is its watchdog limit in us, or 0. -/
def ofQueue (s : State) (fn q : Nat) (r : Rec) (us : Nat) (l : Launch) : Launch :=
  let x := queueOf s fn q
  { l with fn := fn, q := q, rec_ := r.n, priority := x.priority, asid := absAsid s fn x.asid, acquire := r.acquire,
           limit := 1000 * (if us == 0 then x.watchdog else us) }

/-- A launch is handed to the placement units of its shares (R76, R81). -/
def handOver (s : State) (fn q : Nat) (r : Rec) (l : Launch) : Nat × State :=
  let (id, s1) := takeId s
  let s2 := modRecord { s1 with launches := place s1.launches id l } fn q r.n fun r => { r with launch := some id }
  (id, (diesOfLaunch s2 l).foldl (fun s d => due s .placementRecordArrival { n0 := d, n1 := id }) s2)

/-- LAUNCH_GRID: record `n2` of queue `n1` of function `n0` hands a grid to placement (R76, R80, R81). -/
def execLaunchGrid (s : State) : Out :=
  match commandOf s with
  | none => .next s
  | some r => .next (handOver s s.args.n0 s.args.n1 r (ofQueue s s.args.n0 s.args.n1 r (recField r.body 36 4) (gridLaunch s r.body (homeOf r)))).2

/-- How the reading of bytes that lie outside a record ends. -/
inductive Block where
  | bytes (b : List Byte) (s : State)
  | wait (s : State)
  | fault (va : Nat)

/-- Read `n` blocks of 64 bytes in a queue's address space, by its agent. -/
def readBlocks (cid asid fn va : Nat) : Nat → State → List Byte → Block
  | 0, s, b => .bytes b s
  | n + 1, s, b =>
    match readVirt s cid asid fn (va + b.length) 64 .read true with
    | .bytes c s1 => readBlocks cid asid fn va n s1 (b ++ c)
    | .wait s1 => .wait s1
    | _ => .fault (va + b.length)

/-- A field of a gang descriptor is out of range (R81, R101). -/
def descriptorBadGang (s : State) (d : List Byte) : Bool :=
  let f := recField d
  let kernels := f 0 1
  let pipes := f 1 1
  kernels < 2 || 4 < kernels || 4 < pipes || 3 < f 2 1 || (f 2 1 == 2 && dieCount s == 1) || (firstNonzero d 3 5).isSome || (firstNonzero d 20 44).isSome ||
  ((List.range 4).any fun p =>
    let b := f (16 + p) 1
    if p < pipes then 16 ≤ b || b % 4 == b / 4 || kernels ≤ b % 4 || kernels ≤ b / 4 else !(b == 0)) ||
  (List.range 4).any fun k =>
    let o := 64 + 32 * k
    if k < kernels then
      !(f o 8 % 4 == 0) || f (o + 8) 1 == 0 || 8 < f (o + 8) 1 || f (o + 9) 1 == 0 || 16 < f (o + 9) 1 || 96 < f (o + 10) 2 || 16 < f (o + 12) 1 ||
      (firstNonzero d (o + 13) 19).isSome
    else (firstNonzero d o 32).isSome

/-- The launch that a gang descriptor describes. -/
def gangLaunch (s : State) (d : List Byte) (count home : Nat) : Launch :=
  let f := recField d
  let die := if f 2 1 == 0 then home + 1 else f 2 1
  { Launch.blank with
    kind := .gang, arg := BitVec.ofNat 64 (f 8 8), count := count, die := die, units := freshUnits s die
    kernels := (List.range (f 0 1)).map fun k =>
      let o := 64 + 32 * k
      ⟨BitVec.ofNat 64 (f o 8), 0, f (o + 8) 1, f (o + 9) 1, f (o + 10) 2, f (o + 12) 1⟩
    pipeMap := (List.range (f 1 1)).map fun p => (f (16 + p) 1 % 4, f (16 + p) 1 / 4) }

/-- LAUNCH_GANG: record `n2` of queue `n1` of function `n0` reads its gang descriptor, checks it and hands the gangs to placement (R101). -/
def execLaunchGang (s : State) : Out :=
  let fn := s.args.n0
  let q := s.args.n1
  match commandOf s with
  | none => .next s
  | some r =>
    match readBlocks r.cid (absAsid s fn (queueOf s fn q).asid) fn (recField r.body 8 8) 3 s [] with
    | .wait s1 => .next (due s1 .launchGang s.args)
    | .fault va => .next (failCommand s 6 (va % 2 ^ 32))
    | .bytes d s1 =>
      if descriptorBadGang s d then .next (failCommand s1 1 8)
      else .next (handOver s1 fn q r (ofQueue s fn q r (recField r.body 36 4) (gangLaunch s d (recField r.body 16 2) (homeOf r)))).2

/-- The launch that a LAUNCH_POOL body describes (R80, R118 to R124). -/
def poolLaunch (s : State) (b : List Byte) (home : Nat) : Launch :=
  let f := recField b
  let die := if f 29 1 == 0 then home + 1 else f 29 1
  { Launch.blank with
    kind := .pool, die := die, units := freshUnits s die, kernels := [⟨BitVec.ofNat 64 (f 8 8), 0, 1, f 28 1, 0, 0⟩]
    pool := some ⟨f 32 8, f 40 4, f 44 4, if f 48 4 == 0 then 2000 else f 48 4, [], false, 0, none⟩ }

/-- LAUNCH_POOL: record `n2` of queue `n1` of function `n0` makes a pool of its initial records (R80, R118, R119).  `bytes` holds the records read
so far; when all are read, each goes to its die's front end. -/
def execLaunchPool (s : State) : Out :=
  let fn := s.args.n0
  let q := s.args.n1
  match commandOf s with
  | none => .next s
  | some r =>
    let got := s.args.bytes
    let total := recField r.body 24 4
    let base := recField r.body 16 8
    match readBlocks r.cid (absAsid s fn (queueOf s fn q).asid) fn (base + got.length) (min 64 (total - got.length / 64)) s [] with
    | .wait s1 => .next (due s1 .launchPool s.args)
    | .fault va => .next (failCommand s 6 (va % 2 ^ 32))
    | .bytes b s1 =>
      let all := got ++ b
      if all.length < 64 * total then .next (due s1 .launchPool { s.args with bytes := all })
      else
        let l := ofQueue s fn q r (recField r.body 52 4) (poolLaunch s r.body (homeOf r))
        let (id, s2) := handOver s1 fn q r l
        .next ((List.range total).foldl (fun s k =>
          let die := if sharedDies s l then k % 2 else (diesOfLaunch s l).headD 0
          due s .poolRecordDeliver { n0 := die, n1 := id, n3 := k, bytes := (all.drop (64 * k)).take 64 }) s2)

/-! ## Queue tokens (R85 to R88) -/

/-- The footprint of a SIGNAL_TOKEN (R85, R86). -/
def footprintOf (cores : List Nat) (host fabric : Bool) : Nat :=
  if fabric then 0x8000 + 5 * 4096
  else if host then 0x8000 + 4 * 4096
  else if cores.isEmpty then 0
  else
    let (scope, die, index) := enclose cores
    0x8000 + 4096 * scope + 256 * die + index

/-- SIGNAL_TOKEN: record `n2` of queue `n1` of function `n0` writes its value and the footprint of its queue's launches in one 16-byte store (R86). -/
def execSignalToken (s : State) : Out :=
  let fn := s.args.n0
  let q := s.args.n1
  match commandOf s with
  | none => .next s
  | some r =>
    let x := queueOf s fn q
    let va := recField r.body 8 8
    let b := leBytes 8 (recField r.body 16 8) ++ leBytes 2 (footprintOf x.cores (r.flags.testBit 3) (r.flags.testBit 4)) ++ leBytes 6 0
    match writeVirt s r.cid (absAsid s fn x.asid) fn va b true with
    | .done s1 => .next (finishCommand (modQueue s1 fn q fun x => { x with cores := [] }) 0 0 0 0)
    | .wait s1 => .next (due s1 .signalToken s.args)
    | _ => .next (failCommand s 6 (va % 2 ^ 32))

/-- The line of a token record and whether it is home-performed (R87, R199). -/
def tokenPlace (s : State) (r : Rec) (fn asid va : Nat) : Option (Nat × Bool) :=
  match resolve s (pierNo r.cid) asid fn va .read true with
  | .hit e => some (placeOf s e va / 128, pteHome e.leaf == 3)
  | .direct e => some (placeOf s e va / 128, pteHome e.leaf == 3)
  | _ => none

/-- A WAIT_TOKEN reads its value with an acquire: it completes, or its agent holds a token of the line, or reads again 1 us later (R87). -/
def tryToken (s : State) (fn q : Nat) (r : Rec) : State :=
  let x := queueOf s fn q
  let va := recField r.body 8 8
  let a : StepArgs := { n0 := fn, n1 := q, n2 := r.n }
  match readVirt s r.cid (absAsid s fn x.asid) fn va 16 .read true with
  | .wait s1 => dueOnce s1 .waitTokenRecheck a
  | .bytes b s1 =>
    let footprint := recField b 8 2
    let s1 := modRecord s1 fn q r.n fun r => { r with footprint := footprint }
    if recField r.body 16 8 ≤ recField b 0 8 then
      complete (modQueue s1 fn q fun x => { x with acquire := some footprint }) fn q r.n 0 0 (footprint / 4096 % 8) 0
    else
      match tokenPlace s1 r fn (absAsid s fn x.asid) va with
      | some (line, false) =>
        match grabOne s1 (l1Agent r.cid) line with
        | some s2 => modRecord s2 fn q r.n fun r => { r with watch := some line }
        | none => dueOnce (request s1 (l1Agent r.cid) line .read) .waitTokenRecheck a
      | _ => later s1 1000 .waitTokenPoll a
  | _ => failRecord s fn q r.n 6 (va % 2 ^ 32)

/-- WAIT_TOKEN: record `n2` of queue `n1` of function `n0` begins to wait; its timeout, if any, begins to run (R87). -/
def execWaitToken (s : State) : Out :=
  match commandOf s with
  | none => .next s
  | some r =>
    let us := recField r.body 24 4
    let s1 := if us == 0 then s else later s (1000 * us) .waitTokenTimeout { n0 := s.args.n0, n1 := s.args.n1, n2 := r.n }
    .next (tryToken s1 s.args.n0 s.args.n1 r)

/-- WAIT_TOKEN_RECHECK: the token that the agent of record `n2` of queue `n1` of function `n0` held has been taken; it reads again (R87). -/
def execWaitTokenRecheck (s : State) : Out :=
  match commandOf s with
  | none => .next s
  | some r => .next (tryToken (modRecord s s.args.n0 s.args.n1 r.n fun r => { r with watch := none }) s.args.n0 s.args.n1 r)

/-- WAIT_TOKEN_POLL: 1 us has passed for record `n2` of queue `n1` of function `n0`, whose token lies on a home-performed line (R87). -/
def execWaitTokenPoll (s : State) : Out :=
  match commandOf s with
  | none => .next s
  | some r => .next (tryToken s s.args.n0 s.args.n1 r)

/-- WAIT_TOKEN_TIMEOUT: the timeout of record `n2` of queue `n1` of function `n0` passes: it completes TIMEOUT, and the queue enters ERROR (R87). -/
def execWaitTokenTimeout (s : State) : Out :=
  match commandOf s with
  | none => .next s
  | some r => .next (if r.opcode == 0x11 then failCommand s 3 0 else s)

/-! ## COPY (R83) -/

/-- COPY: record `n2` of queue `n1` of function `n0` gives its copy to a transfer engine, which one a free value says (R83); not while the context of
the queue is being pre-empted or is saved (R137, R138). -/
def execCopy (s : State) : Out :=
  let fn := s.args.n0
  let q := s.args.n1
  match commandOf s with
  | none => .next s
  | some r =>
    if (queueOf s fn q).saved || (queueOf s fn q).preempt.isSome then .next (due s .copy s.args) else
    let (v, s1) := takeFree s
    let p := v % (32 * dieCount s)
    if 16 ≤ (pierOf s1 p).copies.length then .next (due s1 .copy s.args) else
      let (id, s2) := takeId s1
      let f := recField r.body
      let c : XCmd := ⟨id, 5, 128 * (p / 32) + 4 * (p % 32), 16, 0, 0#32, noFlag, f 8 8, f 16 8, 0, f 24 8, 1, f 32 8, fn, q, r.n,
        absAsid s fn (queueOf s fn q).asid, false, [], 0#32, 0#32, []⟩
      .next (dueOnce (modPier s2 p fun x => { x with copies := x.copies ++ [c] }) .transferBurst { n0 := p, n1 := 0 })

/-! ## CONFIG (R84) -/

/-- A key reserved to the physical function completes with PRIVILEGE when a virtual function sends it, and the queue continues (R84). -/
def physicalOnly (key : Nat) (s : State) (k : Rec → State) : Out :=
  match commandOf s with
  | none => .next s
  | some r => .next (if s.args.n0 == 0 then k r else finishCommand s 2 key 0 0)

/-- ASID_ROOT: record `n2` of queue `n1` of function `n0` binds an identifier to its level-5 table in the root table, or unbinds it (R84, R169). -/
def execAsidRoot (s : State) : Out :=
  physicalOnly 1 s fun r =>
    let a := recField r.body 16 8
    let b := recField r.body 24 8
    let f := fnOf s (b / 256 % 64)
    match valueBad s s.args.n0 1 r.body with
    | some k => failCommand s 1 k
    | none =>
      match writePhys s (l1Agent r.cid) false (s.rootTable + 8 * ((f.asidBase + b % 256) % 256)) (leBytes 8 (if a == 0 then 0 else a + 1)) with
      | .done s1 => finishCommand s1 0 0 0 0
      | .wait s1 => due s1 .asidRoot s.args
      | _ => due s .asidRoot s.args

/-- QUEUE_PRIORITY: record `n2` of queue `n1` of function `n0` sets its queue's PRIORITY (R84). -/
def execQueuePriority (s : State) : Out :=
  match commandOf s with
  | none => .next s
  | some r =>
    let a := recField r.body 16 8
    match valueBad s s.args.n0 2 r.body with
    | some k => .next (failCommand s 1 k)
    | none => .next (finishCommand (modQueue s s.args.n0 s.args.n1 fun x => { x with priority := a }) 0 0 0 0)

/-- WATCHDOG_DEFAULT: record `n2` of queue `n1` of function `n0` sets its queue's default watchdog limit (R84). -/
def execWatchdogDefault (s : State) : Out :=
  match commandOf s with
  | none => .next s
  | some r =>
    let a := recField r.body 16 8
    match valueBad s s.args.n0 3 r.body with
    | some k => .next (failCommand s 1 k)
    | none => .next (finishCommand (modQueue s s.args.n0 s.args.n1 fun x => { x with watchdog := a }) 0 0 0 0)

/-- AGE_LIMIT: record `n2` of queue `n1` of function `n0` sets the age limit of a die's placement unit (R84, R112). -/
def execAgeLimit (s : State) : Out :=
  physicalOnly 4 s fun r =>
    let a := recField r.body 16 8
    let b := recField r.body 24 8
    match valueBad s s.args.n0 4 r.body with
    | some k => failCommand s 1 k
    | none => finishCommand (dueOnce (modPlacer s b fun p => { p with ageLimit := a }) .placementPass { n0 := b }) 0 0 0 0

/-- QUEUE_STOP: record `n2` of queue `n1` of function `n0` clears ENABLE of a virtual function's queue, and pre-empts it when it has started
records (R69, R84, R136). -/
def execQueueStop (s : State) : Out :=
  physicalOnly 5 s fun r =>
    let b := recField r.body 24 8
    let fn := b / 4096 % 64
    let q := b % 4096
    match valueBad s s.args.n0 5 r.body with
    | some k => failCommand s 1 k
    | none =>
      let running := (queueOf s fn q).recs.any (·.started)
      let s1 := disableQueue s fn q
      let s2 := if running then startPreempt s1 fn q false else s1
      finishCommand s2 0 0 0 0

/-- NOP_FENCE: record `n2` of queue `n1` of function `n0`, every earlier one of its queue having completed, completes (R75, R84). -/
def execNopFence (s : State) : Out :=
  match commandOf s with
  | none => .next s
  | some _ => .next (finishCommand s 0 0 0 0)

end Sys2Proof.Machine
end

