-- ==== Sys2Proof/Machine/Control.lean ====
section
/-! DEFINITION.  Control transfer, REORDER, register growth, system values, traps and the privileged instructions (R345, R378 to R391,
R488 to R491). -/

namespace Sys2Proof.Machine

/-! ## Control transfer (R383 to R387) -/

/-- The target H + 4 × lit (R383). -/
def branchTarget (s : State) (lit : Word) : Dword := s.iss.header + (lit.signExtend 64) <<< 2

/-- bra label (R383). -/
def execBra (x : Bool) (lit : Word) (s : State) : Out :=
  issueOn (.bra x lit) s fun s e => onGroup s fun g => jump e (branchTarget s lit) (noteSpec e g)

/-- A conditional branch: the threads for which `c` holds go to the target, the others to the next word (R383, R385). -/
def branchIf (i : Instr) (a : RegIx) (lit : Word) (c : Word → Bool) (s : State) : Out :=
  issueOn i s fun s e => onGroup s fun g =>
    let taken := laneSet ((lanesOf e).filter fun t => c (srcVal s.iss g t a.toNat))
    jump taken (branchTarget s lit) (advance s.iss 2 (e &&& ~~~taken) (noteSpec e g))

/-- brz a, label (R383). -/
def execBrz (x : Bool) (a : RegIx) (lit : Word) (s : State) : Out := branchIf (.brz x a lit) a lit (fun v => v = 0#32) s

/-- brnz a, label (R383). -/
def execBrnz (x : Bool) (a : RegIx) (lit : Word) (s : State) : Out := branchIf (.brnz x a lit) a lit (fun v => !(v = 0#32)) s

/-- call d:d+1, label: the return address is PC + 8 (R383, R384). -/
def execCall (x : Bool) (d : RegIx) (lit : Word) (s : State) : Out :=
  issueOn (.call x d lit) s fun s e => onGroup s fun g =>
    jump e (branchTarget s lit) (writeBack s.iss 2 e (fun _ _ => int64 d (s.iss.pc + 8)) g)

/-- The test of a register target before the PC changes (R384). -/
def badTarget (iss : Issue) (a : RegIx) (g : Group) (t : Nat) : Option Nat :=
  let v := (srcPair iss g t a.toNat).toNat
  if v % 4 == 0 then none else some v

/-- Send each thread to its own target. -/
def jumpEach (iss : Issue) (e : Lanes) (a : RegIx) (old g : Group) : Group :=
  (lanesOf e).foldl (fun h t => modThread h t fun th => { th with pc := srcPair iss old t a.toNat, clause := none }) g

/-- ret a:a+1 (R383, R384). -/
def execRet (x : Bool) (a : RegIx) (s : State) : Out :=
  issueOn (.ret x a) s fun s e =>
    let p := operandCheck 0x07 false (badTarget s.iss a) (s, e)
    if p.2 = 0#32 then p.1 else onGroup p.1 fun g => jumpEach s.iss p.2 a g (noteSpec p.2 g)

/-- callr d:d+1, a:a+1: the return address is PC + 4; the target is read before it is written (R383, R384). -/
def execCallr (x : Bool) (d a : RegIx) (s : State) : Out :=
  issueOn (.callr x d a) s fun s e =>
    let p := operandCheck 0x07 false (badTarget s.iss a) (s, e)
    if p.2 = 0#32 then p.1 else onGroup p.1 fun g =>
      jumpEach s.iss p.2 a g (writeBack s.iss 1 p.2 (fun _ _ => int64 d (s.iss.pc + 4)) g)

/-- exit: the threads of E are exited; barriers are checked, members leave their convergence registers, and the group may exit (R386). -/
def execExit (x : Bool) (s : State) : Out :=
  issueOn (.exit x) s fun s e =>
    let cid := s.iss.cid
    let slot := s.iss.slot
    let s1 := onGroup s fun g => (lanesOf e).foldl (fun g t => modThread g t fun th => { th with exited := true, yielded := false })
      (advance s.iss 1 e g)
    let s2 := (lanesOf e).foldl (fun s t => cvLeave s cid slot t) s1
    let s3 := match issGroup s2 with
      | some g => barrierCheckAll s2 g.team
      | none => s2
    afterExit s3 cid slot

/-- yield: the YIELD mark of the threads of E (R387). -/
def execYield (x : Bool) (s : State) : Out :=
  issueOn (.yield x) s fun s e => onGroup s fun g =>
    (lanesOf e).foldl (fun g t => modThread g t fun th => { th with yielded := true }) (advance s.iss 1 e (noteSpec e g))

/-- nop_fill (R359). -/
def execNopFill (x : Bool) (s : State) : Out := compute (.nopFill x) s fun _ _ => []

/-! ## System values (R388, R389) -/

/-- A system value of a thread (R388). -/
def sysValue (s : State) (g : Group) (e : Lanes) (t code : Nat) : Nat :=
  let cid := s.iss.cid
  let tm := teamOf s g.team
  let l := tm.bind fun x => launchOf s x.launch
  let ofTeam := fun (f : Team → Nat) => (tm.map f).getD 0
  let ofLaunch := fun (f : Launch → Nat) => (l.map f).getD 0
  let pool : Bool := match l with | some x => decide (x.kind = .pool) | none => false
  if code == 0 then t
  else if code == 1 then g.index
  else if code == 2 then ofTeam (·.groups)
  else if code == 3 then (if pool then 0 else ofTeam (·.x))
  else if code == 4 then (if pool then 0 else ofTeam (·.y))
  else if code == 5 then (if pool then 0 else ofTeam (·.z))
  else if code == 6 then (if pool then 1 else ofLaunch (·.nx))
  else if code == 7 then (if pool then 1 else ofLaunch (·.ny))
  else if code == 8 then (if pool then 1 else ofLaunch (·.nz))
  else if code == 9 then (if pool then 0 else ofTeam (·.linear))
  else if code == 10 then cid % 128
  else if code == 11 then pierNo cid % 32
  else if code == 12 then cid / 128
  else if code == 13 then s.iss.slot
  else if code == 14 then g.granules
  else if code == 15 then e.toNat
  else if code == 16 then (liveLanes g).toNat
  else if code == 17 then ofTeam (·.poolKey)
  else if code == 18 then ofTeam (·.gangIndex)
  else if code == 19 then (match l with | some x => if x.kind = .gang then ofTeam (·.kernel) else 0 | none => 0)
  else if code == 20 then ofLaunch (·.depth)
  else if code == 21 then 4096 * ofTeam (·.units)
  else if code == 22 then ofTeam (fun x => x.tiles.length)
  else if code == 23 then ofLaunch (·.priority)
  else if code == 32 then (if pool then 0 else ofLaunch (·.arg.toNat))
  else if code == 33 then now s
  else ofTeam (·.code.toNat)

/-- rdsys d, sys.name (R388). -/
def execRdsys (x : Bool) (d : RegIx) (i : BitVec 7) (s : State) : Out :=
  issueOn (.rdsys x d i) s fun s e =>
    let s1 := if i.toNat == 33 then logGroup s s.iss.cid s.iss.slot else s
    onGroup s1 (writeBack s.iss 1 e fun g t =>
      let v := BitVec.ofNat 64 (sysValue s g e t i.toNat)
      if i.toNat < 32 then [(d.toNat, int32 (loWord v))] else int64 d v)

/-! ## REORDER (R378, R379, R391) -/

/-- reorder d, a: the threads of E arrive; the last arrival lets the REORDER complete (R378). -/
def execReorder (x : Bool) (d a : RegIx) (s : State) : Out :=
  issueOn (.reorder x d a) s fun s e =>
    let (_, s1) := beginOp (.reorder x d a) s e fun _ => 0#64
    let s2 := onGroup s1 fun g => waitLanes e .reorder (advance s.iss 1 e g)
    afterExit s2 s.iss.cid s.iss.slot

/-- The key of an arrived thread, and its destination register. -/
def reorderOf (g : Group) (t : Nat) : Option (Nat × Nat × Op) :=
  g.ops.findSome? fun o => match o.instr with
    | .reorder _ d a => if o.todo.getLsbD t then some ((opReg g o t a.toNat).val.toNat, d.toNat, o) else none
    | _ => none

/-- Order of the sort of R378: key, group before, lane before. -/
def reorderLe (a b : Nat × Nat × Nat) : Bool :=
  a.1 < b.1 || (a.1 == b.1 && (a.2.1 < b.2.1 || (a.2.1 == b.2.1 && a.2.2 ≤ b.2.2)))

/-- A check of R379 fails: every group of the team traps at its REORDER, with no thread moved. -/
def reorderTrap (s : State) (cid team code : Nat) : State :=
  (teamGroups s team).foldl (fun s p =>
    match groupOf s cid p.1 with
    | none => s
    | some g =>
      let lanes := laneSet ((List.range 32).filter fun t => (threadOf g t).wait = .reorder)
      if lanes = 0#32 then s else
        -- The trapping instruction is not finished: its threads stand at it again.
        let pcs := fun (t : Nat) (th : Thread) => match reorderOf g t with
          | some (_, _, o) => { th with pc := o.pc, wait := .ready }
          | none => th
        let g1 := (lanesOf lanes).foldl (fun h t => modThread h t (pcs t)) g
        let g2 := { g1 with ops := g1.ops.filter fun o => match o.instr with | .reorder .. => false | _ => true }
        let s1 := stopGroup (setGroup s cid p.1 g2) cid p.1 (trapStop code 0 0 0 lanes)
        due s1 .trapResolution { n0 := cid, n1 := p.1 }) s

/-- REORDER_COMPLETE: team `n0`.  When every non-exited thread of the team has arrived and every instruction its groups issued has
completed, the threads are sorted and take their new positions (R378, R379). -/
def execReorderComplete (s : State) : Out :=
  let id := s.args.n0
  match teamOf s id with
  | none => .next s
  | some tm =>
    let gs := teamGroups s id
    let arrived := gs.all fun p => (List.range 32).all fun t =>
      let th := threadOf p.2 t
      th.exited || th.wait = .reorder
    let some_ := gs.any fun p => p.2.threads.any fun th => th.wait = .reorder
    let idle := gs.all fun p => (p.2.ops.all fun o => match o.instr with | .reorder .. => true | _ => false) && p.2.storesOut.isEmpty &&
      ((List.range 12).all fun f => !(flagSet p.2 f))
    let stopped := gs.any fun p => p.2.stop.isSome
    if !some_ || stopped || !arrived then .next s
    else if !idle then .next (due s .reorderComplete s.args)
    else
      let n0 := ((gs.head?).map fun p => p.2.granules).getD 0
      if gs.any fun p => !(p.2.granules == n0) then .next (reorderTrap s tm.cid id 0x04)
      else if gs.any fun p => p.2.cv.any fun v => !(v.signed = 0#32) then .next (reorderTrap s tm.cid id 0x02)
      else
        let l := sortBy reorderLe (gs.flatMap fun p => (List.range 32).filterMap fun t => (reorderOf p.2 t).map fun k => (k.1, p.2.index, t))
        let old := fun (i : Nat) => ((gs.find? fun p => p.2.index == i).map (·.2)).getD ⟨0, 0, 0, [], [], none, [], [], none, [], [], false, 0, 0, false, none, true, false, [], [], []⟩
        let newGroup := fun (g : Group) =>
          let base : Group := { g with
            regs := []
            cv := g.cv.map fun v => { v with members := 0#32 }
            threads := (List.range 32).map fun t => { threadOf g t with exited := true, wait := .ready, region := none }
            ops := g.ops.filter fun o => match o.instr with | .reorder .. => false | _ => true }
          ((List.range 32).foldl (fun (h : Group) t =>
            match l[32 * g.index + t]? with
            | none => h
            | some (_, gi, u) =>
              let from_ := old gi
              let h1 := (from_.regs.filter fun r => r.1 / 128 == u).foldl (fun h r => setReg h t (r.1 % 128) r.2) h
              let h2 := modThread h1 t fun _ => { threadOf from_ u with passed := 0, yielded := false, wait := .ready }
              match reorderOf from_ u with
              | some (_, d, _) => setReg h2 t d ⟨BitVec.ofNat 32 (32 * gi + u), 12#4⟩
              | none => h2) base)
        let s1 := gs.foldl (fun s p =>
          let g := newGroup p.2
          setGroup s tm.cid p.1 { g with exitedWhole := liveLanes g = 0#32, active := g.active && !(liveLanes g = 0#32) }) s
        .next (gs.foldl (fun s p => afterExit s tm.cid p.1) s1)

/-! ## Register growth (R246 to R248, R380, R381) -/

/-- reggrow d, #n: at once when the group holds n granules; otherwise the group is blocked until they are granted, or the failure rule of
R248 applies (R380). -/
def execReggrow (x : Bool) (d : RegIx) (n : BitVec 5) (s : State) : Out :=
  issueOn (.reggrow x d n) s fun s e =>
    match issGroup s with
    | none => s
    | some g =>
      if n.toNat ≤ g.granules then
        onGroup s (writeBack s.iss 1 e fun g _ => [(d.toNat, int32 (BitVec.ofNat 32 g.granules))])
      else
        let (op, s1) := beginOp (.reggrow x d n) s e fun _ => 0#64
        let s2 := onGroup s1 fun g => waitLanes e (.op op) (advance s.iss 1 e g)
        modCore s2 s.iss.cid fun c => failGrow (grantGrow c 16)

/-- regshrink d, #n: registers at and above 8n are discarded and their granules returned (R246, R247, R381).  The wait for unfinished
writers of those registers is part of the interlock of R336 (Issue.lean). -/
def execRegshrink (x : Bool) (d : RegIx) (n : BitVec 5) (s : State) : Out :=
  issueOn (.regshrink x d n) s fun s e =>
    match issGroup s with
    | none => s
    | some g =>
      if g.granules ≤ n.toNat then
        onGroup s (writeBack s.iss 1 e fun g _ => [(d.toNat, int32 (BitVec.ofNat 32 g.granules))])
      else
        let p := operandCheck 0x04 false (fun _ _ => if 8 * n.toNat ≤ d.toNat then some 0 else none) (s, e)
        if p.2 = 0#32 then p.1 else
          let s1 := onGroup p.1 fun g =>
            writeBack s.iss 1 p.2 (fun _ _ => [(d.toNat, int32 (BitVec.ofNat 32 n.toNat))])
              { g with granules := n.toNat, regs := g.regs.filter fun r => r.1 % 128 < 8 * n.toNat }
          let s2 := modCore s1 s.iss.cid fun c => grantGrow c 16
          dueOnce s2 .placementPass { n0 := s.iss.cid / 128 }

/-- REGGROW_GRANT: granules freed on core `n0` go to the groups blocked in REGGROW (R247), and the failure rule is applied (R248). -/
def execReggrowGrant (s : State) : Out := .next (modCore s s.args.n0 fun c => failGrow (grantGrow c 16))

/-! ## Traps and privileged instructions (R345, R488 to R491) -/

/-- trap #n: SOFTWARE for the threads of E; the PC stays at the instruction (R488). -/
def execTrap (x : Bool) (i : BitVec 7) (s : State) : Out :=
  issueOn (.trap x i) s fun s e => takeTrap s s.iss.cid s.iss.slot 0x11 0 e

/-- bkpt: BREAKPOINT for the threads of E; with a debugger attached the device then sets HALT (R298, R488). -/
def execBkpt (x : Bool) (s : State) : Out :=
  issueOn (.bkpt x) s fun s e =>
    let attached := match issGroup s with | some g => attachedTo s g | none => false
    let s1 := takeTrap s s.iss.cid s.iss.slot 0x0F 0 e
    if attached then
      dueOnce (sendStop { s1 with dbg := { s1.dbg with halt := true } } s.iss.cid s.iss.slot 0xFFFFFFFF#32) .haltRequest {}
    else s1

/-- An opcode that no instruction description lists: ILLEGAL_OPCODE, precisely (R345, R351 step 3); a region aborts with FAULT first (R450). -/
def execUnallocatedOpcode (word : Word) (s : State) : Out :=
  issueOn (.unallocatedOpcode word) s fun s e => takeTrap s s.iss.cid s.iss.slot 0x01 0 e

/-- rett d, a: the slot's group resumes through its frame; every thread receives the status (R154, R489). -/
def execRett (x : Bool) (d a : RegIx) (s : State) : Out :=
  issueOn (.rett x d a) s fun s e =>
    match issGroup s with
    | none => s
    | some g =>
      let sel := (srcVal s.iss g (lowestLane e) a.toNat).toNat
      let status := if 16 ≤ sel then 1 else resumeStatus s s.iss.cid sel
      let s1 := onGroup s (writeBack s.iss 1 e fun _ _ => [(d.toNat, int32 (BitVec.ofNat 32 status))])
      if status == 0 then resumeGroup s1 s.iss.cid sel else s1

/-- Slot, register and thread of a selector (R490). -/
def selector (w : Word) : Nat × Nat × Nat := (fieldOf w 0 4, fieldOf w 8 7, fieldOf w 16 5)

/-- A selector names a register of a stopped group of the core, its unused bits zero (R490). -/
def selected (s : State) (w : Word) : Option Group :=
  let (slot, v, _) := selector w
  if w &&& 0xFFE080F0#32 = 0#32 then
    (groupOf s s.iss.cid slot).bind fun g => if g.stop.isSome && v < regBound g then some g else none
  else none

/-- grd d:d+1, a (R490). -/
def execGrd (x : Bool) (d a : RegIx) (s : State) : Out :=
  issueOn (.grd x d a) s fun s e => onGroup s (writeBack s.iss 1 e fun g _ =>
    let w := srcVal s.iss g (lowestLane e) a.toNat
    match selected s w with
    | some h =>
      let r := regOf h (selector w).2.2 (selector w).2.1
      [(d.toNat, int32 r.val), (d.toNat + 1, int32 (r.tag.setWidth 32))]
    | none => [(d.toNat, int32 0#32), (d.toNat + 1, int32 0xFFFFFFFF#32)])

/-- gwr d, a:a+1: value and tag from the lowest lane of E (R490). -/
def execGwr (x : Bool) (d a : RegIx) (s : State) : Out :=
  issueOn (.gwr x d a) s fun s e =>
    match issGroup s with
    | none => s
    | some g =>
      let t := lowestLane e
      let w := srcVal s.iss g t d.toNat
      let (slot, v, u) := selector w
      let r : Reg := ⟨srcVal s.iss g t a.toNat, (srcVal s.iss g t (a.toNat + 1)).setWidth 4⟩
      let s1 := match selected s w with
        | some _ => modGroup s s.iss.cid slot fun h => setReg h u v r
        | none => s
      onGroup s1 fun g => advance s.iss 1 e g

/-- evwait d: the threads wait until the core's event word is not zero, then take it and clear it in one event (R491). -/
def execEvwait (x : Bool) (d : RegIx) (s : State) : Out :=
  issueOn (.evwait x d) s fun s e =>
    let (op, s1) := beginOp (.evwait x d) s e fun _ => 0#64
    let s2 := onGroup s1 fun g => waitLanes e (.op op) (advance s.iss 1 e g)
    modCore s2 s.iss.cid wakeEvwait

/-- EVENT_TICK: 1 ms has passed: TICK rises in every core's event word (R491). -/
def execEventTick (s : State) : Out :=
  let s1 := (List.range (128 * dieCount s)).foldl (fun s c => raiseEvent s c 0x80000#32) s
  .next (later s1 1000000 .eventTick {})

end Sys2Proof.Machine
end

