-- ==== Sys2Proof/Machine/Debug.lean ====
section
/-! DEFINITION.  The debugger: safe-point ordinals, attaching, halting, stepping, releasing and breakpoints, and what
a halted context shows (R292 to R299). -/

namespace Sys2Proof.Machine

/-! ## Safe-point ordinals (R292, R360, R362) -/

/-- Bytes of a code object as they stand, read in a group's identifier; none when its tables give no translation. -/
def peek (s : State) (cid asid fn va n : Nat) : Option Nat :=
  match resolve s (pierNo cid) asid fn va .read true with
  | .hit e => some (readNat s.mem (placeOf s e va) n)
  | _ => none

/-- The lowest index, from `i`, of an entry with an offset in a table of at most `n` more entries. -/
def findSafePoint (s : State) (cid asid fn table off : Nat) : Nat → Nat → Option Nat
  | 0, _ => none
  | n + 1, i => if peek s cid asid fn (table + 24 * i) 4 == some off then some i else findSafePoint s cid asid fn table off n (i + 1)

/-- No ordinal. -/
def noOrdinal : Word := 0xFFFFFFFF#32

/-- The object base of the code a group runs (R361). -/
def objectBase (s : State) (g : Group) : Nat :=
  match teamOf s g.team with
  | some t => match launchOf s t.launch with
    | some l => match l.kernels[t.kernel]? with
      | some k => k.base
      | none => 0
    | none => 0
  | none => 0

/-- The ordinal of the safe point at an address (R292, R362). -/
def ordinalOf (s : State) (cid : Nat) (g : Group) (pc : Dword) : Word :=
  let base := objectBase s g
  let fn := (contextOf s g).1
  let at_ := fun (off n : Nat) => (peek s cid (asidOf s g) fn (base + off) n).getD 0
  match findSafePoint s cid (asidOf s g) fn (base + at_ 24 8) (pc.toNat - (base + at_ 8 8)) (at_ 20 4) 0 with
  | some i => BitVec.ofNat 32 i
  | none => noOrdinal

/-- The live mask of a safe point of the code a group runs: bytes 8 to 23 of its entry, all ones without one (R292, R362). -/
def liveMaskOf (s : State) (cid : Nat) (g : Group) (ordinal : Word) : BitVec 128 :=
  let base := objectBase s g
  let fn := (contextOf s g).1
  let at_ := fun (off n : Nat) => peek s cid (asidOf s g) fn (base + off) n
  if (at_ 20 4).getD 0 ≤ ordinal.toNat then BitVec.allOnes 128
  else match at_ ((at_ 24 8).getD 0 + 24 * ordinal.toNat + 8) 16 with
    | some m => BitVec.ofNat 128 m
    | none => BitVec.allOnes 128

/-! ## The attached context -/

/-- Core and slot of every group of the attached context that is on a core. -/
def debugGroups (s : State) : List (Nat × Nat) :=
  if !s.dbg.enabled then [] else
    s.cores.flatMap fun c => (c.2.groups.filter fun g => g.1 < 15 && !g.2.exitedWhole && contextOf s g.2 = (s.dbg.fn, s.dbg.q)).map fun g => (c.1, g.1)

/-- A group is halted. -/
def haltedGroup (g : Group) : Bool := match g.stop with | some st => st.halted | none => false

/-- HALTED: every group of the context is halted (R293). -/
def haltedAll (s : State) : Bool :=
  s.dbg.enabled && s.dbg.halt && (debugGroups s).all fun p => match groupOf s p.1 p.2 with | some g => haltedGroup g | none => true

/-- The instructions in which a blocked thread counts as held (R294). -/
def blocking : Instr → Bool
  | .pipePut .. => true
  | .pipeGet .. => true
  | .ldsWait .. => true
  | .ldsWaitLit .. => true
  | .ldsWaitClr .. => true
  | .ldsWaitClrLit .. => true
  | .ldsWaitFmt .. => true
  | .reggrow .. => true
  | _ => false

/-- A thread is held where it stands: exited, held at a safe point, or blocked (R294). -/
def heldThread (g : Group) (t : Nat) : Bool :=
  let th := threadOf g t
  th.exited || th.held || (match th.wait with
    | .barrier .. => true
    | .cv _ => true
    | .op id => match opOf g id with | some o => blocking o.instr | none => false
    | _ => false) || g.ops.any fun o => blocking o.instr && o.todo.getLsbD t

/-- A group whose threads are all held becomes halted. -/
def haltReady (g : Group) : Bool := g.stop.isNone && (List.range 32).all (heldThread g)

/-- The ordinal of the lowest-lane thread held at a safe point (R295). -/
def haltOrdinal (s : State) (cid : Nat) (g : Group) : Word :=
  match (List.range 32).find? fun t => (threadOf g t).held && !(threadOf g t).exited with
  | some t => ordinalOf s cid g (threadOf g t).pc
  | none => noOrdinal

/-- The stop of a halt; after a STEP it records SINGLE_STEP (R151, R294, R297). -/
def haltStop (s : State) (ordinal : Word) : Stop :=
  if s.dbg.stepping then { trapStop 0x10 0 0 0 0#32 with causes := 5, ordinal := ordinal, halted := true }
  else { trapStop 0 0 0 0 0#32 with causes := 4, ordinal := ordinal, halted := true }

/-- The watchdogs of a context start or stop with its halts (R162). -/
def watchdogs (s : State) : State := (contextRoots s s.dbg.fn s.dbg.q).foldl watchdog s

/-- Halt one group: its frame, and the STOP record (R294, R305). -/
def haltGroup (s : State) (cid slot : Nat) (ordinal : Word) : State :=
  watchdogs (sendStop (stopGroup s cid slot (haltStop s ordinal)) cid slot ordinal)

/-- Halt every group of the attached context whose threads are all held (R294). -/
def serveHalts (s : State) : State :=
  if !(s.dbg.enabled && s.dbg.halt) then s else
    (debugGroups s).foldl (fun s p => match groupOf s p.1 p.2 with
      | some g => if haltReady g then haltGroup s p.1 p.2 (haltOrdinal s p.1 g) else s
      | none => s) s

/-- The ticks of 100 us. -/
def haltLimit : Nat := 100000

/-- HALT_REQUEST: HALT is set; open try regions abort with DEBUG, a group that a trap has stopped counts as halted, and the others run to their
safe points within 100 us (R294, R298). -/
def execHaltRequest (s : State) : Out :=
  if !s.dbg.enabled then .next s else
    let s1 := withdraw { s with dbg := { s.dbg with halt := true, stepping := false } } fun d => d.step = .haltTimeout
    let s2 := (debugGroups s1).foldl (fun s p => match groupOf s p.1 p.2 with
      | some g => abortLanes s p.1 p.2 (regionLanes g 0xFFFFFFFF#32) 8 0 0#64
      | none => s) s1
    let s3 := (debugGroups s2).foldl (fun s p => modGroup s p.1 p.2 fun g =>
      { g with stop := g.stop.map fun st => { st with halted := st.halted || !(st.code == 0) } }) s2
    .next (serveHalts (later (watchdogs s3) haltLimit .haltTimeout {}))

/-- HALT_TIMEOUT: 100 us after the request, a group not yet halted stops at its instruction boundary (R294, R295). -/
def execHaltTimeout (s : State) : Out :=
  if !(s.dbg.enabled && s.dbg.halt) then .next s else
    .next ((debugGroups s).foldl (fun s p => match groupOf s p.1 p.2 with
      | some g =>
        if haltedGroup g then s else
          haltGroup (abortLanes s p.1 p.2 (regionLanes g 0xFFFFFFFF#32) 8 0 0#64) p.1 p.2 0xFFFFFFFE#32
      | none => s) s)

/-- What a release makes of a stop: a halt, a breakpoint and a single step are over; any other trap is handed to its resolution (R155, R297). -/
def releaseStop (st : Stop) : Stop :=
  if st.code == 0 || st.code == 0x0F || st.code == 0x10 then { st with halted := false, code := 0, causes := st.causes &&& 10 }
  else { st with halted := false, resolved := true }

/-- A group on a core goes on after a release, unless a fault or a pre-emption still keeps it stopped (R161). -/
def releaseGroup (s : State) (cid slot : Nat) : State :=
  match groupOf s cid slot with
  | none => s
  | some g =>
    match g.stop with
    | none => setGroup s cid slot { g with threads := g.threads.map fun (th : Thread) => { th with held := false, stepping := false } }
    | some st =>
      if !st.halted then s else
        let st1 := releaseStop st
        let s1 := setGroup s cid slot { g with stop := some st1 }
        if !(st1.code == 0) then dueOnce s1 .trapResolution { n0 := cid, n1 := slot }
        else if st1.faults.isEmpty && st1.causes / 8 % 2 == 0 then resumeGroup s1 cid slot
        else s1

/-- The groups of a saved context are released where they are. -/
def releaseSaved (c : Saved) : Saved :=
  { c with teams := c.teams.map fun t => { t with groups := t.groups.map fun g =>
      (g.1, { g.2 with stop := g.2.stop.map fun st => if st.halted then releaseStop st else st }) } }

/-- Release every halted group of the attached context; its matrix-engine entries may be granted again (R296, R297). -/
def releaseAll (s : State) : State :=
  let s1 := withdraw { s with dbg := { s.dbg with halt := false, stepping := false } } fun d => d.step = .haltTimeout || d.step = .haltRequest
  let key := contextKey s.dbg.fn s.dbg.q
  let s2 := match find? s1.saved key with
    | some c => { s1 with saved := place s1.saved key (releaseSaved c) }
    | none => s1
  let s3 := (debugGroups s2).foldl (fun s p => releaseGroup s p.1 p.2) s2
  (s3.piers.filter fun p => !p.2.table.isEmpty).foldl (fun s p => dueOnce s .matrixPass { n0 := p.1 }) (watchdogs s3)

/-- HALT_RELEASE: HALT is written 0 (R297). -/
def execHaltRelease (s : State) : Out := .next (if s.dbg.enabled && s.dbg.halt then releaseAll s else s)

/-- Let one halted group run one step: each thread held at a safe point executes its instruction and runs on; a blocked one stays (R297). -/
def stepGroup (s : State) (cid slot : Nat) : State :=
  match groupOf s cid slot with
  | none => s
  | some g =>
    match g.stop with
    | none => s
    | some st =>
      let st1 := releaseStop st
      if !(st1.code == 0) || !st1.faults.isEmpty || !(st1.causes / 8 % 2 == 0) then s else
        let moving := (List.range 32).map fun t => (threadOf g t).held || (st.code == 0x0F && st.lanes.getLsbD t)
        let s1 := resumeGroup (setGroup s cid slot { g with stop := some st1 }) cid slot
        modGroup s1 cid slot fun h => { h with threads := (List.range 32).map fun t => { threadOf h t with stepping := nth false moving t } }

/-- DEBUG_STEP: STEP is written 1; ignored while HALTED is 0 (R293, R297). -/
def execDebugStep (s : State) : Out :=
  if !(haltedAll s) then .next s else
    let s1 := withdraw { s with dbg := { s.dbg with stepping := true } } fun d => d.step = .haltTimeout
    .next (later (watchdogs ((debugGroups s1).foldl (fun s p => stepGroup s p.1 p.2) s1)) haltLimit .haltTimeout {})

/-- The traps that waited for a debugger are resolved once none is attached (R155). -/
def resolveWaiting (s : State) (groups : List (Nat × Nat)) : State :=
  groups.foldl (fun s p => match (groupOf s p.1 p.2).bind (·.stop) with
    | some st => if st.code == 0 then s else dueOnce s .trapResolution { n0 := p.1, n1 := p.2 }
    | none => s) s

/-- A write of `v` to DBG_ATTACH (R293): FUNCTION and QUEUE change only while ENABLE is 0, and ENABLE is set only while debug is unlocked.
A write that clears ENABLE also releases. -/
def writeDbgAttach (s : State) (v : Dword) : State :=
  let d := s.dbg
  if v.getLsbD 63 then
    if !d.enabled && !s.trust.debugUnlocked then s
    else
      let d1 := if d.enabled then d else
        { d with enabled := true, fn := (v.extractLsb' 50 6).toNat, q := (v.extractLsb' 32 12).toNat, halt := false, stepping := false }
      let s1 := { s with dbg := d1 }
      if v.getLsbD 62 then
        let s2 := if d1.halt then s1 else dueOnce { s1 with dbg := { d1 with halt := true } } .haltRequest {}
        if v.getLsbD 61 && haltedAll s2 then due s2 .debugStep {} else s2
      else if d1.halt then releaseAll s1 else s1
  else if d.enabled then
    let groups := debugGroups s
    let s1 := releaseAll s
    resolveWaiting { s1 with dbg := { s1.dbg with enabled := false, fn := (v.extractLsb' 50 6).toNat, q := (v.extractLsb' 32 12).toNat } } groups
  else { s with dbg := { d with halt := v.getLsbD 62, fn := (v.extractLsb' 50 6).toNat, q := (v.extractLsb' 32 12).toNat } }

/-- DEBUG_ATTACH: `val` is written to DBG_ATTACH (R293). -/
def execDebugAttach (s : State) : Out := .next (writeDbgAttach s s.args.val)

/-! ## What a halted context shows (R299) -/

/-- The frame of a group as a debugger reads it: its completion flags as they stand at the read (R296, R299). -/
def shownFrame (s : State) (g : Group) : List (Nat × Byte) :=
  writeFields (blank (groupFrame s g) 360 2) 0 [(360, 2, ((List.range 12).map fun f => if flagSet g f then 2 ^ f else 0).sum)]

/-- The sections of a placed team as a debugger reads them: the TEAM section with barriers, pipe buffers and scratchpad, a GROUP section for each group,
and the tiles as of the last completed MMA on each (R299). -/
def shownTeam (s : State) (id : Nat) (t : Team) : List (List Byte) :=
  let x := saveTeam s id t
  teamSections { x with frames := x.groups.map fun g => (g.2.index, shownFrame s g.2) }

/-- What a halted context shows: the sections of its teams, and apart from them its MMAs that have not completed, in the order of the tables (R299); nothing
while HALTED is 0. -/
def shownContext (s : State) : List (List Byte) × List MatEntry :=
  if !(haltedAll s) then ([], []) else
    let ts := contextTeams s s.dbg.fn s.dbg.q
    (ts.flatMap fun t => shownTeam s t.1 t.2, s.piers.flatMap fun p => p.2.table.filter fun m => ts.any fun t => t.1 == m.team)

/-- A debugger's write of one byte of a halted group in the layout of the GROUP section, by offset behind the section's header: the frame, the registers,
the tags (R149, R299). -/
def debugWriteByte (s : State) (cid slot off : Nat) (b : Byte) : State :=
  match groupOf s cid slot with
  | none => s
  | some g =>
    match g.stop with
    | none => s
    | some st =>
      if !(haltedAll s && st.halted) then s
      else if off < 8192 then { s with mem := writeByte s.mem (st.frame + off) b }
      else if off < 24576 then
        let v := (off - 8192) / 128
        let t := (off - 8192) / 4 % 32
        let r := regOf g t v
        let k := 8 * (off % 4)
        setGroup s cid slot (setReg g t v { r with val := r.val &&& ~~~(0xFF#32 <<< k) ||| b.setWidth 32 <<< k })
      else if off < 26624 then
        let v := (off - 24576) / 16
        let t := 2 * ((off - 24576) % 16)
        let lo := regOf g t v
        let hi := regOf g (t + 1) v
        setGroup s cid slot (setReg (setReg g t v { lo with tag := b.setWidth 4 }) (t + 1) v { hi with tag := (b >>> 4).setWidth 4 })
      else s

/-! ## Breakpoints (R298) -/

/-- The ordinal of an armed breakpoint that the safe point at an address is (R298). -/
def breakpointAt (s : State) (cid : Nat) (g : Group) (pc : Dword) : Option Word :=
  if !(attachedTo s g) then none else
    let code := match teamOf s g.team with | some t => t.code | none => 0#64
    let armed := s.dbg.bps.filter fun (b : Dword × Bool × Word) => b.2.1 && b.1 = code
    if armed.isEmpty then none else
      let o := ordinalOf s cid g pc
      if armed.any fun (b : Dword × Bool × Word) => b.2.2 = o then some o else none

/-- A breakpoint hits: the group traps BREAKPOINT with the hitting lanes, and the device sets HALT (R150, R298). -/
def hitBreakpoint (s : State) (cid slot : Nat) (lanes : Lanes) (ordinal : Word) : State :=
  match groupOf s cid slot with
  | none => s
  | some g =>
    let s1 := abortLanes s cid slot (regionLanes g lanes) 6 0x0F 0#64
    let s2 := stopGroup s1 cid slot { trapStop 0x0F 0 0 0 lanes with ordinal := ordinal, halted := true }
    let s3 := due (sendStop s2 cid slot ordinal) .trapResolution { n0 := cid, n1 := slot }
    dueOnce (watchdogs { s3 with dbg := { s3.dbg with halt := true } }) .haltRequest {}

end Sys2Proof.Machine
end

