-- ==== Sys2Proof/Machine/Trust.lean ====
section
/-! DEFINITION.  Self-test, firmware, life cycle, measurements, attestation and ownership (R18, R26 to R30, R38 to R60), and the steps of the
management port. -/

namespace Sys2Proof.Machine

/-! ## Reset (R13, R42, R51, R53, R60) -/

/-- What a reset leaves of the module: fuses, flash and the secure store stay; the slot that an activation named becomes the active one (R47). -/
def keptTrust (t : Trust) : Trust :=
  { Trust.reset with
    active := t.nextActive.getD t.active, flash := t.flash, svnFuse := t.svnFuse, makerHash := t.makerHash, ownerKeys := t.ownerKeys,
    sealedData := t.sealedData, releasing := t.releasing, serial := t.serial }

/-- The highest power limit of the variant, its TDP in watts (R16, R28). -/
def topPower (s : State) : Nat := if s.variant = .k480 then 900 else 1800

/-- A step that the world outside the module makes: what becomes of the module does not take it back. -/
def isInput : Instr → Bool
  | .powerOnReset => true
  | .powerLoss => true
  | .viaductFailure => true
  | .thermalThrottle => true
  | .thermalTrip => true
  | .clockThrottleStep => true
  | .powerLimitSet => true
  | .telemetryRequest => true
  | .firmwareUpdate => true
  | .firmwareActivate => true
  | .ownershipNonce => true
  | .releaseMessage => true
  | .claimMessage => true
  | .ownerKeyAdd => true
  | .ownerKeyRemove => true
  | .svnFuseBlow => true
  | .debugUnlock => true
  | .ownerDigestExtend => true
  | .getVersion => true
  | .getCapabilities => true
  | .negotiateAlgorithms => true
  | .getDigests => true
  | .getCertificate => true
  | .challenge => true
  | .getMeasurements => true
  | .keyExchange => true
  | .finish => true
  | .sriovVfEnable => true
  | .sriovVfDisable => true
  | .peerPortStateChange => true
  | .peerAccess => true
  | .hostLinkTraining => true
  | .dynamicAddressAssignment => true
  | .hostSnoop => true
  | .hostMemAccess => true
  | .hqFnCfgWrite => true
  | .queueEnable => true
  | .queueDisable => true
  | .cqEnable => true
  | .cqDisable => true
  | .cqIrqEnSet => true
  | .cqIrqEnClear => true
  | .notify => true
  | .cqHeadWrite => true
  | .faultRingEnable => true
  | .faultRingDisable => true
  | .faultHeadWrite => true
  | .faultResumeRetry => true
  | .faultResumeAbort => true
  | .plCfgWrite => true
  | .debugAttach => true
  | .haltRelease => true
  | .traceStatusClear => true
  | .cyclesRead => true
  | .registerWrite => true
  | .census => true
  | _ => false

/-- What the agenda of a state holds of the world outside. -/
def inputsOf (s : State) : List Due := s.agenda.filter fun d => isInput d.step

/-- The module right after power-on reset, with what outlasts it. -/
def afterReset (s : State) (powered : Bool) : State :=
  { State.reset with
    agenda := inputsOf s
    variant := s.variant, trust := keptTrust s.trust, rootTable := s.rootTable, saveArea := s.saveArea, ids := s.ids, free := s.free
    platform := { Platform.reset with powerLimit := topPower s, powered := powered } }

/-- POWER_ON_RESET: from any state, the device is in SELF_TEST, its measurement registers are zero and its time starts at zero (R42, R51, R53). -/
def execPowerOnReset (s : State) : Out := .next (afterReset s true)

/-- POWER_LOSS: module power is lost: all activity ends; the active slot, the flash and a recorded release stay (R47, R60). -/
def execPowerLoss (s : State) : Out := .next (afterReset s false)

/-! ## FATAL and SAFE (R18, R30, R39, R41, R51, R52) -/

/-- Every outstanding record of every queue completes TERMINATED (R52, R90). -/
def terminateAll (s : State) : State :=
  s.queues.foldl (fun s q => (q.2.recs.map (·.n)).foldl (fun s n => complete s (q.1 / 4096) (q.1 % 4096) n 9 0 0 0) s) s

/-- A line as its home has it once every token has come home; a line that the host caches keeps its gateway's, and a host line stays with its die. -/
def gatheredHome (s : State) (line : Nat) (r : LineRec) : LineRec :=
  if r.hostState == 1 && !(hostLine s line) then r
  else { LineRec.atHome with hostState := r.hostState, number := r.number, dirty := hostLine s line && (r.dirty || r.holders.any (·.dirty)) }

/-- The coherence of a module none of whose agents is at work any more: every token is at its home; poison, the wrong symbols and the error logs
stay as they are. -/
def quietCoherence (s : State) : Coherence :=
  { Coherence.reset with
    lines := (s.coherence.lines.map fun p => (p.1, gatheredHome s p.1 p.2)).filter fun p => !(p.2 = LineRec.atHome)
    poison := s.coherence.poison, symbols := s.coherence.symbols, errlog := s.coherence.errlog }

/-- The device enters FATAL: all contexts are lost, and every agent with them gives up its tokens (R52, log entry 105). -/
def enterFatal (s : State) (error : Nat) : State :=
  let keep := fun (d : Due) => isInput d.step || d.step = .completionEntryRetry || d.step = .bisnpResponse
  let s1 : State := { s with
    coherence := quietCoherence s
    cores := [], piers := [], teams := [], gangs := [], launches := [], placers := [], builds := [], compacts := [], rayCounts := [], saved := []
    queues := s.queues.map fun q => (q.1, { q.2 with mapped := false, preempt := none, saved := false })
    agenda := s.agenda.filter keep, timers := s.timers.filter fun t => keep t.due
    trust := { s.trust with life := .fatal, lastError := error } }
  terminateAll s1

/-- PM_BIST_STATUS after a failure (R39). -/
def bistFailure (die cls index detail : Nat) : Dword :=
  BitVec.ofNat 64 (2 ^ 63 + die % 2 * 2 ^ 47 + cls % 128 * 2 ^ 40 + index % 256 * 2 ^ 32 + detail % 2 ^ 32)

/-- A self-test failure: SAFE, with the failure in PM_BIST_STATUS (R39, R41, R50, R51). -/
def failSelfTest (s : State) (die cls index detail : Nat) : State :=
  let ports := if cls == 8 && 6 * die + index < portCount s then store 0 s.platform.ports (6 * die + index) 3 else s.platform.ports
  { s with
    trust := { s.trust with life := .safe, lastError := 1, bist := bistFailure die cls index detail }
    platform := { s.platform with ports := ports } }

/-- The blocks of a class on a die that self-test checks (R38, R39): cores, L2 slices, scanned logic, the viaduct, GDDR-7 channels, LPDDR-6 interfaces, the
CXL port, peer ports, traversal units and builders, matrix engines.  How many the spec does not number, 256 stands for. -/
def bistBlocks (s : State) (die cls : Nat) : Nat :=
  if cls == 1 then 128
  else if cls == 2 then 48
  else if cls == 3 || cls == 6 then 256
  else if cls == 4 then (if dieCount s == 2 then 1 else 0)
  else if cls == 5 then 16
  else if cls == 7 then (if die == 0 then 1 else 0)
  else if cls == 8 then 6
  else if cls == 9 then (if hasRays s then 36 else 0)
  else if cls == 10 then 32
  else 0

/-- The die and class of every kind of block that the variant has. -/
def bistKinds (s : State) : List (Nat × Nat) :=
  (List.range (dieCount s)).flatMap fun d => ((List.range 11).filter fun c => !(bistBlocks s d c == 0)).map fun c => (d, c)

/-- SELF_TEST_COMPLETE: self-test ends; `flag` says that every block passed, else die `n0`, class `n1`, index `n2` and detail `n3` name the first
failure (R38, R39, R51).  A peer port that failed reads 3 (R36). -/
def execSelfTestComplete (s : State) : Out :=
  let a := s.args
  if !(s.trust.life = .selfTest) then .next s
  else if a.flag then .next (due { s with trust := { s.trust with life := .verify, bist := BitVec.ofNat 64 (2 ^ 63 + 2 ^ 62) } } .bootVerify {})
  else .next (failSelfTest s a.n0 a.n1 a.n2 a.n3)

/-- VIADUCT_FAILURE: an uncorrectable failure of the viaduct: FATAL, or a self-test failure of class 4 (R18, R51), which PM_BIST_STATUS names by die
`n0`, index `n2` and detail `n3` (log entry 106). -/
def execViaductFailure (s : State) : Out :=
  let s1 := { s with platform := { s.platform with viaductDown := true } }
  if s.variant = .k480 || s.trust.life = .fatal then .next s
  else if s.trust.life = .selfTest then .next (failSelfTest s1 s.args.n0 4 s.args.n2 s.args.n3)
  else .next (enterFatal s1 0x20)

/-! ## Power and heat (R28 to R30) -/

/-- Lower the arithmetic clock by k steps of 25 MHz, not below 500 MHz (R29). -/
def slower (s : State) (k : Nat) : State := { s with platform := { s.platform with clock := max 500 (s.platform.clock - 25 * k) } }

/-- THERMAL_THROTTLE: a die sensor reaches 95 C: the device throttles; by how many steps of the clock is a free value (R29, R30). -/
def execThermalThrottle (s : State) : Out :=
  let (v, s1) := takeFree { s with platform := { s.platform with throttled := true } }
  .next (slower s1 (v % 41))

/-- THERMAL_TRIP: a die sensor reaches 110 C: the thermal-trip signal, and FATAL from every other state (R30, R51). -/
def execThermalTrip (s : State) : Out :=
  let s1 := { s with platform := { s.platform with tripped := true } }
  .next (if s.trust.life = .fatal then s1 else enterFatal s1 0x21)

/-- CLOCK_THROTTLE_STEP: the device moves its clock by 25 MHz: up to 1.5 GHz when `flag` says that the limit is met, else down to 500 MHz, where it
sets the over-limit flag (R29). -/
def execClockThrottleStep (s : State) : Out :=
  let p := s.platform
  if s.args.flag then .next { s with platform := { p with clock := min 1500 (p.clock + 25), overLimit := false } }
  else if p.clock ≤ 500 then .next { s with platform := { p with overLimit := true } }
  else .next (slower s 1)

/-! ## The management port (R26, R28) -/

/-- The management port answers from 20 ms after power-on reset release (R26). -/
def portAnswers (s : State) : Bool := 20000000 ≤ now s

/-- Send a reply over the management port or the DOE mailbox. -/
def answer (s : State) (b : List Byte) : State := { s with out := { s.out with replies := s.out.replies ++ [b] } }

/-- The device's answer to a command: 0 done, 1 rejected, 2 busy (the codes are the model's own, log entry 31). -/
def verdict (s : State) (code : Nat) : State := answer s (leBytes 1 code)

/-- A message over the management port: nothing happens before the port answers. -/
def message (s : State) (k : State) : Out := .next (if portAnswers s then k else s)

/-- POWER_LIMIT_SET: the module power limit becomes `n0` watts, in steps of 10 W and within the variant's range (R28). -/
def execPowerLimitSet (s : State) : Out :=
  let w := s.args.n0
  message s (if w % 10 == 0 && topPower s / 3 ≤ w && w ≤ topPower s then verdict { s with platform := { s.platform with powerLimit := w } } 0
             else verdict s 1)

/-- TELEMETRY_REQUEST: telemetry is answered in every life-cycle state: power limit, clock, over-limit flag, throttling, thermal trip (R26, R29). -/
def execTelemetryRequest (s : State) : Out :=
  let p := s.platform
  let bit := fun (b : Bool) => leBytes 1 (if b then 1 else 0)
  message s (answer s (leBytes 2 p.powerLimit ++ leBytes 2 p.clock ++ bit p.overLimit ++ bit p.throttled ++ bit p.tripped))

/-- DYNAMIC_ADDRESS_ASSIGNMENT: the I3C controller gives the management port the dynamic address `n0` (R26). -/
def execDynamicAddressAssignment (s : State) : Out := .next { s with platform := { s.platform with i3c := some s.args.n0 } }

/-! ## Firmware images (R42 to R48) -/

/-- A field of an image header. -/
def imageField (b : List Byte) (o n : Nat) : List Byte := (b.drop o).take n

/-- Blown bits of the anti-rollback fuse (R45). -/
def blown (v : Dword) : Nat := ((List.range 64).filter v.getLsbD).length

/-- The store holds no owner key: the device has no owner (R44, R57). -/
def unowned (t : Trust) : Bool := t.ownerKeys.all Option.isNone

/-- The error that ends the verification of an image, or none when it is accepted (R44, R50).  What of a slot nothing has written reads 0xFF (log
entry 107). -/
def verifyImage (t : Trust) (b : List Byte) : Option Nat :=
  let f := fun (o n : Nat) => leNat (imageField b o n)
  let payload := (b.drop 256).take (f 12 4) ++ List.replicate (f 12 4 - (b.length - 256)) 0xFF#8
  let hash := sha256 (b.take 48)
  let maker := imageField b 176 64
  if b.length < 256 || !(f 0 4 == 0x4B465759) || !(f 4 4 == 1) then some 0x10
  else if !(f 241 15 == 0) || !(f 12 4 % 4096 == 0) || f 12 4 < 4096 || 16773120 < f 12 4 || 3 < f 240 1 then some 0x10
  else if f 8 4 < blown t.svnFuse then some 0x11
  else if !(sha256 payload = imageField b 16 32) then some 0x12
  else if !(sha256 maker = t.makerHash) then some 0x13
  else if !(ecdsaVerify maker hash (imageField b 48 64)) then some 0x14
  else if unowned t then none
  else
    match nth none t.ownerKeys (f 240 1) with
    | none => some 0x15
    | some k => if ecdsaVerify k hash (imageField b 112 64) then none else some 0x16

/-- The life-cycle state as FW_STATE numbers it (R49). -/
def lifeCode : Life → Nat
  | .selfTest => 0
  | .safe => 1
  | .verify => 2
  | .operational => 3
  | .releasing => 4
  | .unowned => 5
  | .fatal => 6

/-- FW_STATE (R49). -/
def fwState (t : Trust) : Nat :=
  lifeCode t.life + 64 * (t.active % 2) + 256 * t.lastError + 65536 * (t.ownerKeys.filter Option.isSome).length

/-- The firmware group of a core: 16 granules in slot 15, in supervisor mode (R106, R129).  Its program is not part of the spec, so that no thread of it
issues: what it does are the steps of the module (log entry 108). -/
def firmwareGroup : Group := { newGroup 0 0 16 0 [] [] with supervisor := true }

/-- Soliracor stands in slot 15 of every core (R106, R129). -/
def seatFirmware (s : State) : State := (List.range (128 * dieCount s)).foldl (fun s c => setGroup s c 15 firmwareGroup) s

/-- The work of an OPERATIONAL device begins: the firmware groups, mapping passes every 250 us (R93), ticks and phase tables every 1 ms (R117, R491). -/
def startWork (s : State) : State :=
  let s := seatFirmware s
  let s1 := later (later s 250000 .mappingPass { flag := true }) 1000000 .eventTick {}
  (List.range (dieCount s)).foldl (fun s d => later s 1000000 .phaseTableUpdate { n0 := d }) s1

/-- The boot ROM derives the compound device identifier from the unique device secret and FW_MEASURE0 to 2, and locks the secret until the next power-on;
while it is locked the identifier stays (R54). -/
def lockSecret (s : State) : State :=
  if s.trust.secretLocked then s
  else { s with trust := { s.trust with secretLocked := true, cdi := hmacSha256 Config.deviceSecret (s.trust.measures.take 3).flatten } }

/-- An accepted image runs: the boot ROM measures it, derives the device's keys and hands over (R46, R48, R51, R53, R54). -/
def runImage (s : State) (slot error : Nat) (b : List Byte) : State :=
  let t := s.trust
  let full := !(unowned t)
  let owner := match nth none t.ownerKeys (leNat (imageField b 240 1)) with
    | some k => if full then sha256 k else List.replicate 32 0#8
    | none => List.replicate 32 0#8
  let t1 : Trust := { t with
    life := if full then .operational else .unowned, restricted := !full, active := slot, nextActive := none, lastError := error
    runSvn := leNat (imageField b 8 4) }
  let s1 := lockSecret (extendMeasure (extendMeasure { s with trust := t1 } 1 (sha256 (b.take 48))) 2 (imageField b 16 32))
  let s2 := extendMeasure (extendMeasure s1 3 owner) 4 (Config.eventDigest (leBytes 8 t.svnFuse.toNat ++ leBytes 8 (fwState t1)))
  if full then startWork s2 else s2

/-- The fuse configuration that the boot ROM measures: the variant, the anti-rollback fuse, the hash of the maker key and the serial number (R45, R53). -/
def fuseBytes (s : State) : List Byte :=
  leBytes 1 (match s.variant with | .k960 => 0 | .k960c => 1 | .k480 => 2) ++ leBytes 8 s.trust.svnFuse.toNat ++ s.trust.makerHash ++ s.trust.serial

/-- BOOT_VERIFY: the boot ROM takes up an unfinished release, or verifies the active slot and, if that fails, the other (R44, R46, R51, R60). -/
def execBootVerify (s : State) : Out :=
  let t := s.trust
  if !(t.life = .verify) then .next s else
    let s0 := extendMeasure s 0 (Config.romDigest (fuseBytes s))
    if t.releasing then .next (due { s0 with trust := { s0.trust with life := .releasing } } .releaseEraseComplete {})
    else
      let other := 1 - t.active
      let image := fun (k : Nat) => (nth ⟨[], false⟩ t.flash k).bytes
      match verifyImage t (image t.active) with
      | none => .next (runImage s0 t.active 0 (image t.active))
      | some e =>
        match verifyImage t (image other) with
        | none => .next (runImage s0 other e (image other))
        | some _ => .next { s0 with trust := { s0.trust with life := .safe, lastError := e } }

/-- FIRMWARE_UPDATE: `bytes` are written to the inactive slot from offset `n0`; `flag` marks the last (R42, R47); busy in RELEASING. -/
def execFirmwareUpdate (s : State) : Out :=
  let t := s.trust
  let slot := 1 - t.active
  let old := (nth ⟨[], false⟩ t.flash slot).bytes
  let o := s.args.n0
  let b := s.args.bytes
  message s (
    if t.life = .releasing then verdict s 2
    else if 2 ^ 24 < o + b.length then verdict s 1
    else verdict { s with trust := { t with
      nextActive := none, flash := setNth t.flash slot ⟨(old ++ List.replicate (o - old.length) 0xFF#8).take o ++ b ++ old.drop (o + b.length), s.args.flag⟩ } } 0)

/-- FIRMWARE_ACTIVATE: the inactive slot becomes the active one at the next reset, unless its write is incomplete; busy in RELEASING (R47). -/
def execFirmwareActivate (s : State) : Out :=
  let t := s.trust
  let slot := 1 - t.active
  message s (
    if t.life = .releasing then verdict s 2
    else if (nth ⟨[], false⟩ t.flash slot).complete then verdict { s with trust := { t with nextActive := some slot } } 0
    else verdict s 1)

/-! ## Owner commands (R45, R53, R56, R293) -/

/-- A signature by the owner key of a slot over a message. -/
def ownerSigned (t : Trust) (slot : Nat) (m sig : List Byte) : Bool :=
  match nth none t.ownerKeys slot with
  | some k => ecdsaVerify k (sha256 m) sig
  | none => false

/-- An owner command of a code: carried out in OPERATIONAL when key `n0` of the store signed code and payload (the message's layout is the
model's own, log entry 31). -/
def ownerCommand (s : State) (code : Nat) (payload : List Byte) (k : Option State) : Out :=
  message s (match k with
    | some s1 => if working s && ownerSigned s.trust s.args.n0 (leBytes 1 code ++ payload) s.args.sig then verdict s1 0 else verdict s 1
    | none => verdict s 1)

/-- Owner keys the store holds. -/
def keyCount (t : Trust) : Nat := (t.ownerKeys.filter Option.isSome).length

/-- OWNER_KEY_ADD: the owner adds the key in `bytes`, signed by key `n0`; a fifth key is rejected (R56). -/
def execOwnerKeyAdd (s : State) : Out :=
  let t := s.trust
  ownerCommand s 1 s.args.bytes (
    match (List.range 4).find? fun n => (nth none t.ownerKeys n).isNone && n < t.ownerKeys.length with
    | some n => if s.args.bytes.length == 64 then some { s with trust := { t with ownerKeys := setNth t.ownerKeys n (some s.args.bytes) } } else none
    | none => none)

/-- OWNER_KEY_REMOVE: the owner removes key `n1`, signed by key `n0`; removing the last key is rejected (R56). -/
def execOwnerKeyRemove (s : State) : Out :=
  let t := s.trust
  ownerCommand s 2 (leBytes 1 s.args.n1) (
    if keyCount t ≤ 1 || (nth none t.ownerKeys s.args.n1).isNone then none
    else some { s with trust := { t with ownerKeys := setNth t.ownerKeys s.args.n1 none } })

/-- SVN_FUSE_BLOW: fuses are blown up to the security version of the image that runs, never down, signed by key `n0` (R45). -/
def execSvnFuseBlow (s : State) : Out :=
  ownerCommand s 3 [] (some { s with trust := { s.trust with svnFuse := s.trust.svnFuse ||| BitVec.ofNat 64 (2 ^ min 64 s.trust.runSvn - 1) } })

/-- DEBUG_UNLOCK: debug is unlocked, signed by key `n0`, and FW_MEASURE6 is extended (R53, R293). -/
def execDebugUnlock (s : State) : Out :=
  ownerCommand s 4 [] (some (extendMeasure { s with trust := { s.trust with debugUnlocked := true } } 6 (Config.eventDigest [4#8])))

/-- OWNER_DIGEST_EXTEND: FW_MEASURE7 is extended with the digest in `bytes`, signed by key `n0` (R53). -/
def execOwnerDigestExtend (s : State) : Out :=
  ownerCommand s 5 s.args.bytes (if s.args.bytes.length == 32 then some (extendMeasure s 7 s.args.bytes) else none)

/-! ## Ownership (R57 to R60) -/

/-- OWNERSHIP_NONCE: the device supplies a fresh 32-byte nonce (R57). -/
def execOwnershipNonce (s : State) : Out :=
  let n := (Config.nonce s.free ++ List.replicate 32 0#8).take 32
  message s (answer { s with free := s.free + 1, trust := { s.trust with nonce := some n } } n)

/-- Every context is pre-empted and discarded, and every outstanding record completes TERMINATED (R57, R90, R136). -/
def discardAll (s : State) : State := s.queues.foldl (fun s q => startPreempt s (q.1 / 4096) (q.1 % 4096) true) s

/-- RELEASE_MESSAGE: the owner's release over the nonce in `bytes` and the serial number, signed by key `n0`: RELEASING is recorded and entered, every
context is pre-empted and discarded, and the erase begins (R57, R59). -/
def execReleaseMessage (s : State) : Out :=
  let t := s.trust
  message s (
    if working s && t.nonce = some s.args.bytes && ownerSigned t s.args.n0 (s.args.bytes ++ t.serial) s.args.sig then
      verdict (due (discardAll { s with trust := { t with life := .releasing, releasing := true, nonce := none } }) .releaseEraseComplete {}) 0
    else verdict s 1)

/-- A context is being discarded, or a record has a completion entry that is yet to be posted (R57, R90). -/
def discarding (s : State) : Bool :=
  s.queues.any (fun q => q.2.preempt.isSome || q.2.saved || !q.2.recs.isEmpty) || s.cqs.any fun c => !c.2.waiting.isEmpty

/-- The device lines that the host caches. -/
def hostCached (s : State) : List Nat := (s.coherence.lines.filter fun p => p.2.hostState == 1 && !(hostLine s p.1)).map (·.1)

/-- The erase of a release (R57): zeros in every line of both tiers with tokens home, no owner key, no sealed data, no function configuration. -/
def eraseAll (s : State) : State :=
  { s with
    trust := { s.trust with life := .unowned, restricted := true, releasing := false, ownerKeys := [none, none, none, none], sealedData := [] }
    mem := s.mem.filter fun c => !(match tierOf s c.1 with | some 0 => true | some 1 => true | _ => false)
    coherence := { quietCoherence s with poison := [], symbols := [] }
    cores := [], piers := [], teams := [], gangs := [], launches := [], placers := [], builds := [], compacts := [], rayCounts := [], saved := []
    queues := [], cqs := [], fns := [(0, Fn.resetPf)], agenda := inputsOf s, timers := [] }

/-- RELEASE_ERASE_COMPLETE: the contexts being discarded and every completion posted, the host gives up what it caches, and the erase is done: the device
is UNOWNED (R57, R60). -/
def execReleaseEraseComplete (s : State) : Out :=
  if !(s.trust.life = .releasing) then .next s
  else if discarding s then .next (due (discardAll s) .releaseEraseComplete {})
  else match hostCached s with
    | line :: _ => .next (due ((obstacle s line (homeAgent s line) false).getD s) .releaseEraseComplete {})
    | [] => .next (eraseAll s)

/-- The keys of a claim: 1 to 4 public keys of 64 bytes. -/
def claimKeys (b : List Byte) : List (List Byte) := (List.range (b.length / 64)).map fun k => (b.drop (64 * k)).take 64

/-- CLAIM_MESSAGE: `bytes` holds the 32-byte nonce and then 1 to 4 owner keys; `sig` is made with the first key over the nonce.  In UNOWNED a valid claim
writes the keys and resets the device, which boots through VERIFY (R51, R58, R59). -/
def execClaimMessage (s : State) : Out :=
  let t := s.trust
  let n := s.args.bytes.take 32
  let b := s.args.bytes.drop 32
  let keys := claimKeys b
  message s (
    if t.life = .unowned && t.nonce = some n && 1 ≤ keys.length && keys.length ≤ 4 && b.length % 64 == 0 &&
       ecdsaVerify (keys.headD []) (sha256 n) s.args.sig then
      let r := afterReset s true
      due (verdict { r with
        time := s.time, mem := s.mem
        trust := { r.trust with
          life := .verify, bist := t.bist, measures := t.measures, secretLocked := t.secretLocked, cdi := t.cdi
          ownerKeys := (keys.map some ++ [none, none, none, none]).take 4 } } 0) .bootVerify {}
    else verdict s 1)

/-! ## SPDM (R54, R55) -/

/-- A reply whose framing SPDM fixes and R55 does not state: free bytes, then what R55 states. -/
def spdm (s : State) (content : List Byte) : State :=
  answer { s with free := s.free + 1 } (Config.spdmPayload s.free ++ content)

/-- A reply that the alias key signs, once the boot ROM has derived it (R54); before that the reply carries no signature. -/
def signed (s : State) (content : List Byte) : State :=
  spdm s (content ++ if s.trust.secretLocked then Config.aliasSign s.trust.cdi content else [])

/-- An SPDM request over the management port (`n0` = 0) or the DOE mailbox (`n0` = 1), which answers from link training (R40, R55). -/
def spdmRequest (s : State) (k : State) : Out :=
  .next (if s.args.n0 == 0 then (if portAnswers s then k else s) else if s.platform.linkUp then k else s)

/-- GET_VERSION: versions 1.2 and 1.3 (R55). -/
def execGetVersion (s : State) : Out := spdmRequest s (spdm s [0x12#8, 0x13#8])

/-- GET_CAPABILITIES (R55). -/
def execGetCapabilities (s : State) : Out := spdmRequest s (spdm s [])

/-- NEGOTIATE_ALGORITHMS: ECDSA P-256 with SHA-256 only (R55); their codes are SPDM's (log entry 31). -/
def execNegotiateAlgorithms (s : State) : Out := spdmRequest s (spdm s (leBytes 4 0x10 ++ leBytes 4 1))

/-- GET_DIGESTS: the digest of the certificate chain (R55). -/
def execGetDigests (s : State) : Out := spdmRequest s (spdm s (sha256 (Config.certificates s.trust.cdi)))

/-- GET_CERTIFICATE: the chain maker root, device identity, alias (R55). -/
def execGetCertificate (s : State) : Out := spdmRequest s (spdm s (Config.certificates s.trust.cdi))

/-- CHALLENGE: the nonce in `bytes` is answered with a response that the alias key signs (R55). -/
def execChallenge (s : State) : Out := spdmRequest s (signed s s.args.bytes)

/-- The measurement block of an index: 1 to 8 report FW_MEASURE0 to FW_MEASURE7 (R55). -/
def measureBlock (t : Trust) (n : Nat) : List Byte := if 1 ≤ n && n ≤ 8 then nth [] t.measures (n - 1) else []

/-- GET_MEASUREMENTS: measurement block `n1`, signed by the alias key (R55). -/
def execGetMeasurements (s : State) : Out := spdmRequest s (signed s (measureBlock s.trust s.args.n1))

/-- KEY_EXCHANGE: a session begins, signed by the alias key over the exchange data in `bytes` (R55). -/
def execKeyExchange (s : State) : Out :=
  spdmRequest s (if s.trust.secretLocked then signed { s with trust := { s.trust with session := 1 } } s.args.bytes else signed s s.args.bytes)

/-- FINISH: the session is established (R55); `flag` says that the requester's verification data are right.  Through it the keys of IDE for CXL.io,
CXL.cache and CXL.mem are set up (R20, log entry 109). -/
def execFinish (s : State) : Out :=
  let keys := (List.range 3).map fun k => Config.ideKey (s.free + k)
  spdmRequest s (if s.trust.session == 1 && s.args.flag then
      spdm { s with free := s.free + 3, trust := { s.trust with session := 2, ideKeys := keys } } [] else spdm s [])

end Sys2Proof.Machine
end

