-- ==== Sys2Proof/Machine/Links.lean ====
section
/-! DEFINITION.  The host link and the peer ports (R20, R23, R24, R36, R40, R41, R211 to R213): the steps HOST_LINK_TRAINING,
PEER_PORT_STATE_CHANGE, HOST_MEM_ACCESS and PEER_ACCESS. -/

namespace Sys2Proof.Machine

/-- HOST_LINK_TRAINING: the CXL host link has trained: configuration space, BAR 0 and the DOE mailbox answer (R40).  With `flag` the host sets up
the HDM decoders (R20): the near tier begins at host address `n0`, the far tier at `n1`. -/
def execHostLinkTraining (s : State) : Out :=
  let hdm := if s.args.flag then [(0, s.args.n0), (1, s.args.n1)] else s.platform.hdm
  .next { s with platform := { s.platform with linkUp := true, hdm := hdm } }

/-- PEER_PORT_STATE_CHANGE: peer port `n0` comes to state `n1`: 1 up, 2 down after having trained, 3 failed self-test (R23, R36).  A port the variant
lacks has no state; a port goes down only from up, and it fails self-test only before that has ended, when it has not trained; one that failed
stays so until reset (log entry 77). -/
def execPeerPortStateChange (s : State) : Out :=
  let port := s.args.n0
  let st := s.args.n1
  let old := look 0 s.platform.ports port
  if portCount s ≤ port || st == 0 || 3 < st || old == 3 || (st == 2 && !(old == 1)) || (st == 3 && !(s.trust.life = .selfTest && old == 0)) then .next s
  else .next { s with platform := { s.platform with ports := store 0 s.platform.ports port st } }

/-- The bytes of a tier, and where its range begins (R164). -/
def tierSpan (s : State) (tier : Nat) : Nat × Nat :=
  if tier == 0 then (0, 0x1000000000 * dieCount s) else (0x2000000000, 0x4000000000 * dieCount s)

/-- The device address that the HDM decoder of a tier gives a host address (R20); none outside both. -/
def hdmTarget (s : State) (ha : Nat) : Option Nat :=
  (s.platform.hdm.find? fun d => d.2 ≤ ha && ha < d.2 + (tierSpan s d.1).2).map fun d => (tierSpan s d.1).1 + (ha - d.2)

/-- Some bytes of one line of device memory. -/
def deviceTier (s : State) (pa n : Nat) : Bool :=
  (match tierOf s pa with | some 0 => true | some 1 => true | _ => false) && pa % 128 + n ≤ 128

/-- Answer a host read. -/
def hostAnswer (s : State) (ha : Nat) (b : Option (List Byte)) : State := { s with out := { s.out with hostData := s.out.hostData ++ [(ha, b)] } }

/-- What a read of `n` bytes of one line gives: nothing when its data are uncorrectable (R19). -/
def lineData (s : State) (pa n : Nat) : Option (List Byte) := if poisoned s (pa / 128) then none else some (readBytes s.mem pa n)

/-- A host write of a line for which the gateway of a die has the tokens: it returns them, with the data (R212). -/
def hostWrite (s : State) (die pa : Nat) (b : List Byte) : State := giveBack (writeLineBytes s pa b) (gateway die) (pa / 128) true

/-- The host caches a line for which the gateway of a die has every token (R212). -/
def hostCaches (s : State) (line : Nat) : State := setLine s line { lineOf s line with hostState := 1 }

/-- A host access to a line that the host caches: a write gives the line up (R212). -/
def cachedAccess (s : State) (op ha pa n : Nat) (b : List Byte) : State :=
  if op == 1 then hostReturns (writeLineBytes s pa b) (pa / 128) else hostAnswer s ha (lineData s pa n)

/-- A host access to a line that the host does not cache; again when the gateway has yet to gather its tokens (R212). -/
def gatewayAccess (s : State) (op ha pa n : Nat) (b : List Byte) : State :=
  let line := pa / 128
  let die := homeDie s pa
  match gather s (gateway die) line (if op == 0 then .read else .write) (op == 2) with
  | (none, s1) => due s1 .hostMemAccess s.args
  | (some s1, _) =>
    if op == 1 then hostWrite s1 die pa b
    else if op == 2 then hostAnswer (hostCaches s1 line) ha (lineData s1 pa n)
    else giveBack (hostAnswer s1 ha (lineData s1 pa n)) (gateway die) line false

/-- HOST_MEM_ACCESS: the host's CXL.mem access `n0` to `n2` bytes at host address `n1` of an HDM range (R20): 0 read, 1 write of `bytes`, 2 read of a
line that the host then caches.  The home die's gateway performs it holding the line's tokens (R212); in SAFE and FATAL reads are poisoned and
writes dropped (R41, R52). -/
def execHostMemAccess (s : State) : Out :=
  let op := s.args.n0
  let ha := s.args.n1
  let b := s.args.bytes
  let n := if op == 1 then b.length else s.args.n2
  match hdmTarget s ha with
  | none => .fault .unpopulated
  | some pa =>
    if !(deviceTier s pa n) then .fault .unpopulated
    else if memoryClosed s then .next (if op == 1 then s else hostAnswer s ha none)
    else if (lineOf s (pa / 128)).hostState == 1 then .next (cachedAccess s op ha pa n b)
    else .next (gatewayAccess s op ha pa n b)

/-- Answer a remote device over a port. -/
def peerAnswer (s : State) (port : Nat) (b : Option (List Byte)) : State := { s with out := { s.out with peerData := s.out.peerData ++ [(port, b)] } }

/-- The new value of a remote device's atomic on `n` bytes: operation `op` of R422 up to 9, 10 the compare-and-swap, whose operand is the value
compared and then the new one, 11 the packed BF16 add of R426. -/
def peerAtomValue (op n old : Nat) (b : List Byte) : Nat :=
  if op == 10 then (if leNat (b.take n) == old then leNat (b.drop n) else old)
  else if op == 11 then commAdd 2 (old % 65536) (leNat b % 65536) + 65536 * commAdd 2 (old / 65536) (leNat b / 65536)
  else atomValue op n old (leNat b)

/-- A remote device's atomic: the old value goes back to the device; a poisoned line is left alone and answered in error (R19, R213). -/
def peerAtomic (s : State) (port op pa : Nat) (b : List Byte) : State :=
  let n := if op == 10 then b.length / 2 else b.length
  if poisoned s (pa / 128) then peerAnswer s port none else
    writeLineBytes (peerAnswer s port (lineData s pa n)) pa (leBytes n (peerAtomValue op n (leNat (readBytes s.mem pa n)) b))

/-- A remote device's access to a local line, once the peer gateway has its tokens: 0 read, 1 write, 2 + k atomic k. -/
def peerPerform (s : State) (port op pa n : Nat) (b : List Byte) : State :=
  if op == 0 then peerAnswer s port (lineData s pa n)
  else if op == 1 then writeLineBytes s pa b
  else peerAtomic s port (op - 2) pa b

/-- PEER_ACCESS: a remote device's access arrives on peer port `n0`, at local address `n1`: with `flag` a write of `bytes`, or, when `n3` is k + 1,
atomic k of R422 with the operand `bytes`; else a read of `n2` bytes.  The local peer gateway gathers the line's tokens, performs it and returns
them (R213); through a port that is not up nothing arrives (R23, R36). -/
def execPeerAccess (s : State) : Out :=
  let port := s.args.n0
  let pa := s.args.n1
  let b := s.args.bytes
  let op := if s.args.flag then 1 + s.args.n3 else 0
  let n := if s.args.flag then b.length else s.args.n2
  let gw := peerGateway (if port < 6 then 0 else 1)
  if !(portUp s port) || portCount s ≤ port then .next s
  else if !(deviceTier s pa n) then .fault .unpopulated
  else
    match gather s gw (pa / 128) (if op == 0 then .read else .write) with
    | (none, s1) => .next (due s1 .peerAccess s.args)
    | (some s1, _) => .next (giveBack (peerPerform s1 port op pa n b) gw (pa / 128) (!(op == 0)))

end Sys2Proof.Machine
end

