-- ==== Sys2Proof/Machine/Memory.lean ====
section
/-! DEFINITION.  Memory, scratchpad, atomic and reduction instructions, cache hints and modulo registers (R412 to R430, R437). -/

namespace Sys2Proof.Machine

/-! ## Addresses (R347, R348, R255) -/

/-- The signed increment of a post-increment literal (R348). -/
def incOf (lit : Word) : Int := (lit.extractLsb' 0 19).toInt

/-- The literal wraps in a modulo register (R348). -/
def modOf (lit : Word) : Bool := lit.getLsbD 31

/-- Effective address of a global mode (R347): the pair, plus the sign-extended literal when P = 0. -/
def globalEa (s : State) (a : RegIx) (off : Word) (g : Group) (t : Nat) : Dword := srcPair s.iss g t a.toNat + off.signExtend 64

/-- Effective address of a scratchpad mode (R347): the register plus the literal, modulo 2^32. -/
def scratchEa (s : State) (a : RegIx) (off : Word) (g : Group) (t : Nat) : Dword := (srcVal s.iss g t a.toNat + off).setWidth 64

/-- The offset a literal adds: none with post-increment (R348). -/
def offsetOf (p : BitVec 1) (lit : Word) : Word := if p == 1#1 then 0#32 else lit

/-- The address registers a global post-increment writes (R347). -/
def globalPost (s : State) (a : RegIx) (p : BitVec 1) (lit : Word) (g : Group) (t : Nat) : List (Nat × Reg) :=
  if p == 1#1 then
    let v := srcPair s.iss g t a.toNat + BitVec.ofInt 64 (incOf lit)
    [(a.toNat, ⟨loWord v, 12#4⟩), (a.toNat + 1, ⟨hiWord v, 12#4⟩)]
  else []

/-- R255: the offset after a post-increment through base and length. -/
def wrapOffset (base len : Nat) (a inc : Int) : Nat :=
  if len == 0 then ((a + inc) % 2 ^ 19).toNat else ((base : Int) + (a + inc - base) % len).toNat

/-- The address register a scratchpad post-increment writes (R255, R347). -/
def scratchPost (s : State) (a : RegIx) (p : BitVec 1) (m : BitVec 3) (lit : Word) (g : Group) (t : Nat) : List (Nat × Reg) :=
  if p == 1#1 then
    let md := if modOf lit then nth (0, 0) g.modulo m.toNat else (0, 0)
    [(a.toNat, ⟨BitVec.ofNat 32 (wrapOffset md.1 md.2 (srcVal s.iss g t a.toNat).toNat (incOf lit) % 2 ^ 19), 12#4⟩)]
  else []

/-! ## Inside a region (R237 to R239, R437, R442, R450, R454) -/

/-- An access whose scope tag or whose line a region does not allow (R239, R437, R446). -/
def scopeVerdict (s : State) (a : Access) (g : Group) (_ : Nat) (va : Nat) : Option Nat :=
  let wide := (match a.acq with | some c => 1 ≤ c | none => false) || (match a.rel with | some c => 1 ≤ c | none => false)
  if wide then some 0x0C
  else if a.scratch || (a.kind = .read && !a.spec) then none
  else match resolveFor s s.iss.cid g va a.kind with
    | .hit e => if uncached e then some 0x0C else none
    | _ => none

/-- The line of memory, or the span of scratchpad, that an access of a region adds to the sets of R442. -/
def regionLine (s : State) (a : Access) (g : Group) (va : Nat) : Option (Bool × Nat) :=
  if a.scratch then (teamOf s g.team).map fun tm => (true, scratchAddr tm va / 128)
  else match resolveFor s s.iss.cid g va a.kind with
    | .hit e => some (false, placeOf s e va / 128)
    | _ => none

/-- The lines that the lanes of `e` before lane t, in regions, add with the same issue (R442). -/
def regionPlan (s : State) (a : Access) (g : Group) (e : Lanes) (ea : Nat → Dword) (t : Nat) : List (Bool × Nat) :=
  (lanesOf (regionLanes g e)).filterMap fun u => if u < t then regionLine s a g (ea u).toNat else none

/-- The lines of memory that unfinished atomics of the group's regions will store to (R237, R442). -/
def atomicLines (s : State) (g : Group) : List (Bool × Nat) :=
  g.ops.flatMap fun o => match accessOf o.instr with
    | some a => if a.kind = .atomic then (lanesOf (o.todo &&& o.inTry)).filterMap fun u => regionLine s a g (nth 0#64 o.addrs u).toNat else []
    | none => []

/-- One more line in a set of 256 would pass its limit (R442). -/
def overLimit (l : List (Bool × Nat)) (x : Bool × Nat) : Bool := !(l.contains x) && 256 ≤ (dedup l).length

/-- Abort code of a lane whose access a region does not allow, or whose limits it would pass; none when it may go on (R450 part 4).
`va` is the effective address, and `plan` the lines that the lanes before it add with the same issue. -/
def regionVerdict (s : State) (i : Instr) (a : Access) (g : Group) (t : Nat) (va : Nat) (plan : List (Bool × Nat)) : Option Nat :=
  match (threadOf g t).region with
  | none => none
  | some r =>
    if a.scratch then
      match regionLine s a g va with
      | some l => if a.kind = .write && overLimit (writeLines g ++ atomicLines s g ++ plan) l then some 0x04 else none
      | none => none
    else if a.kind = .read && !a.spec then none
    else
      match resolveFor s s.iss.cid g va a.kind with
      | .hit e =>
        let pa := placeOf s e va
        let l := (false, pa / 128)
        if !(redFormat i == 0) && pteComm e.leaf == redFormat i then some 0x0A
        else if (!(a.kind = .read) && overLimit (writeLines g ++ atomicLines s g ++ plan) l) ||
                (!(a.kind = .write) && overLimit ((loadLines g).map ((false, ·)) ++ plan) l) then some 0x04
        else if !(a.kind = .read) && r.loadSpans.any fun x => x.1 < pa + a.size && pa < x.1 + x.2 then some 0x03
        else none
      | _ => none

/-- What a lane in a region does at issue: a .spec load and an atomic join the load set, and a store is buffered (R237, R239, R452). -/
def regionIssue (s : State) (a : Access) (op : Nat) (va : Nat) (g : Group) (t : Nat) (data : List Byte) : Group :=
  let place? := if a.scratch then (teamOf s g.team).map fun tm => (true, scratchAddr tm va) else
    match resolveFor s s.iss.cid g va a.kind with
    | .hit e => some (false, placeOf s e va)
    | _ => none
  match place? with
  | none => g
  | some (sc, pa) =>
    modThread g t fun th => { th with region := th.region.map fun r =>
      if a.kind = .write then
        { r with writes := r.writes ++ (List.range a.size).map (fun k => ⟨sc, pa + k, nth 0#8 data k⟩), ops := r.ops ++ [op] }
      else if a.spec || a.kind = .atomic then
        { r with loads := if r.loads.contains (pa / 128) then r.loads else r.loads ++ [pa / 128], loadSpans := r.loadSpans ++ [(pa, a.size)] }
      else r }

/-- Lanes in a region for which a verdict gives an abort code abort, in ascending lane order; the verdict sees the lanes that still go on. -/
def verdictLanes (verdict : State × Lanes → Group → Nat → Option Nat) (p : State × Lanes) : State × Lanes :=
  match issGroup p.1 with
  | none => p
  | some g =>
    (lanesOf (regionLanes g p.2)).foldl (fun q t =>
      match issGroup q.1 with
      | none => q
      | some g =>
        if !(q.2.getLsbD t) || !(inRegion g t) then q else
          match verdict q g t with
          | some code =>
            let s1 := abortThread q.1 q.1.iss.cid q.1.iss.slot t code 0 0#64
            (s1, stillThere s1 (q.2 &&& ~~~(oneLane t)))
          | none => q) p

/-- The lanes of an access that abort with SCOPE (R450 part 4). -/
def scopeLanes (a : Access) (ea : Group → Nat → Dword) (p : State × Lanes) : State × Lanes :=
  verdictLanes (fun q g t => scopeVerdict q.1 a g t (ea g t).toNat) p

/-- The lanes of an access that abort for what follows REGLOG in R450 part 4: each counts what the lanes before it add (R442). -/
def regionLanesCheck (i : Instr) (a : Access) (ea : Group → Nat → Dword) (p : State × Lanes) : State × Lanes :=
  verdictLanes (fun q g t => regionVerdict q.1 i a g t (ea g t).toNat (regionPlan q.1 a g q.2 (ea g) t)) p

/-! ## Issue (R350) -/

/-- MISALIGN of a global access: the address, when it is no multiple of the alignment (R413). -/
def globalBad (size : Nat) (ea : Group → Nat → Dword) (g : Group) (t : Nat) : Option Nat :=
  if (ea g t).toNat % size == 0 then none else some (ea g t).toNat

/-- MISALIGN of a scratchpad access: the cases of R252. -/
def scratchBad (s : State) (size : Nat) (ea : Group → Nat → Dword) (g : Group) (t : Nat) : Option Nat :=
  let v := (ea g t).toNat
  let within := match teamOf s g.team with | some tm => inRun tm v size | none => false
  if v < 2 ^ 19 && within && v % size == 0 then none else some (v % 2 ^ 19)

/-- Page faults that a store, an atomic or a .spec load in a region meets at issue (R447). -/
def regionFault (a : Access) (s : State) (ea : Group → Nat → Dword) (g : Group) (t : Nat) : Option Nat :=
  if a.scratch || !(inRegion g t) || (a.kind = .read && !a.spec) then none else
    match resolveFor s s.iss.cid g (ea g t).toNat a.kind with
    | .fault _ _ => some (ea g t).toNat
    | _ => none

/-- Table lines with uncorrectable data that such an access meets (R170, R447). -/
def regionUnread (a : Access) (s : State) (ea : Group → Nat → Dword) (g : Group) (t : Nat) : Option Nat :=
  if a.scratch || !(inRegion g t) || (a.kind = .read && !a.spec) then none else
    match resolveFor s s.iss.cid g (ea g t).toNat a.kind with
    | .unreadable => some (ea g t).toNat
    | _ => none

/-- An STS writes its bytes when it issues; a .set fills its granule in the same event (R236, R254, R417, R421). -/
def storeScratch (s : State) (i : Instr) (a : Access) (va : Dword) (src : Nat → Reg) : State :=
  match (issGroup s).bind fun g => teamOf s g.team with
  | none => s
  | some tm =>
    let pa := scratchAddr tm va.toNat
    let data := storeBytes s.iss.cid i a src
    modCore s s.iss.cid fun c => let c1 := writeScratch c pa data; if a.sets then setFull c1 [pa / 16] else c1

/-- Issue of a scratchpad store for the lanes E (R236, R237, R417): lanes outside regions write at once; the stores of the others are buffered, and
while one of them is, the instruction is attached to its flag (R256). -/
def scratchStore (i : Instr) (a : Access) (ea : Nat → Dword) (src : Nat → Nat → Reg) (er : Lanes) (updates : Group → Group) (s : State) (e : Lanes) :
    State :=
  let (op, s1) := takeId ((lanesOf (e &&& ~~~er)).foldl (fun s t => storeScratch s i a (ea t) (src t)) s)
  onGroup s1 fun h =>
    let h := (lanesOf er).foldl (fun h t => regionIssue s a op (ea t).toNat h t (storeBytes s.iss.cid i a (src t))) (noteSpec e h)
    let h := if er = 0#32 then (if s.iss.replay then completeFlag h s.iss.flag else h)
      else { attachIssue s.iss h with storesOut := h.storesOut ++ [(op, s.iss.flag, (lanesOf er).length)] }
    advance s.iss (lengthOf i) e (updates h)

/-- Issue of a load, store, atomic or reduction (R350, R412): the checks of step 8, the post-increment, and the access of each lane.
A lane in a region buffers its store at once (R237); a scratchpad store is performed at once; every other lane's access is sent. -/
def access (i : Instr) (s : State) (a : Access) (ea : Group → Nat → Dword) (post : Group → Nat → List (Nat × Reg)) : Out :=
  issueScoped (scopeLanes a ea) i s fun s e =>
    let p1 := regionLanesCheck i a ea (s, e)
    let p2 := operandCheck 0x07 true (if a.scratch then scratchBad p1.1 a.size ea else globalBad (alignOf i a) ea) p1
    let p3 := operandCheck 0x08 true (regionFault a p2.1 ea) p2
    let p4 := operandCheck 0x12 true (regionUnread a p3.1 ea) p3
    let e := p4.2
    let s := p4.1
    match issGroup s with
    | none => s
    | some g =>
      if e = 0#32 then s else
        let er := regionLanes g e
        let updates := fun (h : Group) =>
          if s.iss.replay then h else (lanesOf e).foldl (fun h t => (post g t).foldl (fun h w => writeReg h t w.1 w.2) h) h
        if a.kind = .write then
          let plain := e &&& ~~~er
          if a.scratch then scratchStore i a (ea g) (srcReg s.iss g) er updates s e
          else
            let (op, s1) := beginOp i s plain (ea g)
            let s2 := onGroup s1 fun h =>
              let h := (lanesOf er).foldl (fun h t => regionIssue s a op (ea g t).toNat h t (storeBytes s.iss.cid i a (srcReg s.iss g t))) h
              let h := { h with ops := h.ops.filter (fun o => !(o.id == op && o.todo = 0#32)),
                                storesOut := h.storesOut ++ [(op, s.iss.flag, (lanesOf e).length)] }
              advance s.iss (lengthOf i) e (updates h)
            (lanesOf plain).foldl (fun s t => attempt s s.iss.cid s.iss.slot op t) s2
        else
          let (op, s1) := beginOp i s e (ea g)
          let s2 := onGroup s1 fun h =>
            let h := (lanesOf er).foldl (fun h t => regionIssue s a op (ea g t).toNat h t []) h
            let h := advance s.iss (lengthOf i) e (updates h)
            if a.waits then waitLanes e (.op op) h else h
          (lanesOf e).foldl (fun s t => due s .loadComplete { n0 := s.iss.cid, n1 := s.iss.slot, n2 := op, n3 := t }) s2

/-- Nothing is written back. -/
def noPost (_ : Group) (_ : Nat) : List (Nat × Reg) := []

/-- ld.SIZE (R416). -/
def execLd (x : Bool) (d a : RegIx) (z : BitVec 3) (s : State) : Out :=
  match accessOf (.ld x d a z) with
  | some ac => access (.ld x d a z) s ac (globalEa s a 0#32) noPost
  | none => .next s

/-- ld.SIZE with offset or post-increment (R416). -/
def execLdLit (x : Bool) (d a : RegIx) (p : BitVec 1) (m z : BitVec 3) (lit : Word) (s : State) : Out :=
  match accessOf (.ldLit x d a p m z lit) with
  | some ac => access (.ldLit x d a p m z lit) s ac (globalEa s a (offsetOf p lit)) (globalPost s a p lit)
  | none => .next s

/-- ld.spec.SIZE (R420). -/
def execLdSpec (x : Bool) (d a : RegIx) (z : BitVec 3) (s : State) : Out :=
  match accessOf (.ldSpec x d a z) with
  | some ac => access (.ldSpec x d a z) s ac (globalEa s a 0#32) noPost
  | none => .next s

/-- ld.spec.SIZE with offset or post-increment (R420). -/
def execLdSpecLit (x : Bool) (d a : RegIx) (p : BitVec 1) (m z : BitVec 3) (lit : Word) (s : State) : Out :=
  match accessOf (.ldSpecLit x d a p m z lit) with
  | some ac => access (.ldSpecLit x d a p m z lit) s ac (globalEa s a (offsetOf p lit)) (globalPost s a p lit)
  | none => .next s

/-- st.SIZE (R417). -/
def execSt (x : Bool) (d a : RegIx) (z : BitVec 3) (s : State) : Out :=
  match accessOf (.st x d a z) with
  | some ac => access (.st x d a z) s ac (globalEa s a 0#32) noPost
  | none => .next s

/-- st.SIZE with offset or post-increment (R417). -/
def execStLit (x : Bool) (d a : RegIx) (p : BitVec 1) (m z : BitVec 3) (lit : Word) (s : State) : Out :=
  match accessOf (.stLit x d a p m z lit) with
  | some ac => access (.stLit x d a p m z lit) s ac (globalEa s a (offsetOf p lit)) (globalPost s a p lit)
  | none => .next s

/-- ld.fmt.KIND.SIZE (R418). -/
def execLdFmt (x : Bool) (d a : RegIx) (k : BitVec 4) (z : BitVec 3) (s : State) : Out :=
  match accessOf (.ldFmt x d a k z) with
  | some ac => access (.ldFmt x d a k z) s ac (globalEa s a 0#32) noPost
  | none => .next s

/-- ld.acq.SCOPE.SIZE (R419, R228). -/
def execLdAcq (x : Bool) (d a : RegIx) (c : BitVec 4) (z : BitVec 3) (s : State) : Out :=
  match accessOf (.ldAcq x d a c z) with
  | some ac => access (.ldAcq x d a c z) s ac (globalEa s a 0#32) noPost
  | none => .next s

/-- st.rel.SCOPE.SIZE (R419, R226). -/
def execStRel (x : Bool) (d a : RegIx) (c : BitVec 4) (z : BitVec 3) (s : State) : Out :=
  match accessOf (.stRel x d a c z) with
  | some ac => access (.stRel x d a c z) s ac (globalEa s a 0#32) noPost
  | none => .next s

/-- lds.SIZE (R416). -/
def execLds (x : Bool) (d a : RegIx) (z : BitVec 3) (s : State) : Out :=
  match accessOf (.lds x d a z) with
  | some ac => access (.lds x d a z) s ac (scratchEa s a 0#32) noPost
  | none => .next s

/-- lds.SIZE with offset or post-increment (R416). -/
def execLdsLit (x : Bool) (d a : RegIx) (p : BitVec 1) (m z : BitVec 3) (lit : Word) (s : State) : Out :=
  match accessOf (.ldsLit x d a p m z lit) with
  | some ac => access (.ldsLit x d a p m z lit) s ac (scratchEa s a (offsetOf p lit)) (scratchPost s a p m lit)
  | none => .next s

/-- lds.wait.SIZE (R421). -/
def execLdsWait (x : Bool) (d a : RegIx) (z : BitVec 3) (s : State) : Out :=
  match accessOf (.ldsWait x d a z) with
  | some ac => access (.ldsWait x d a z) s ac (scratchEa s a 0#32) noPost
  | none => .next s

/-- lds.wait.SIZE with offset or post-increment (R421). -/
def execLdsWaitLit (x : Bool) (d a : RegIx) (p : BitVec 1) (m z : BitVec 3) (lit : Word) (s : State) : Out :=
  match accessOf (.ldsWaitLit x d a p m z lit) with
  | some ac => access (.ldsWaitLit x d a p m z lit) s ac (scratchEa s a (offsetOf p lit)) (scratchPost s a p m lit)
  | none => .next s

/-- lds.wait.clr.SIZE (R421). -/
def execLdsWaitClr (x : Bool) (d a : RegIx) (z : BitVec 3) (s : State) : Out :=
  match accessOf (.ldsWaitClr x d a z) with
  | some ac => access (.ldsWaitClr x d a z) s ac (scratchEa s a 0#32) noPost
  | none => .next s

/-- lds.wait.clr.SIZE with offset or post-increment (R421). -/
def execLdsWaitClrLit (x : Bool) (d a : RegIx) (p : BitVec 1) (m z : BitVec 3) (lit : Word) (s : State) : Out :=
  match accessOf (.ldsWaitClrLit x d a p m z lit) with
  | some ac => access (.ldsWaitClrLit x d a p m z lit) s ac (scratchEa s a (offsetOf p lit)) (scratchPost s a p m lit)
  | none => .next s

/-- sts.SIZE (R417). -/
def execSts (x : Bool) (d a : RegIx) (z : BitVec 3) (s : State) : Out :=
  match accessOf (.sts x d a z) with
  | some ac => access (.sts x d a z) s ac (scratchEa s a 0#32) noPost
  | none => .next s

/-- sts.SIZE with offset or post-increment (R417). -/
def execStsLit (x : Bool) (d a : RegIx) (p : BitVec 1) (m z : BitVec 3) (lit : Word) (s : State) : Out :=
  match accessOf (.stsLit x d a p m z lit) with
  | some ac => access (.stsLit x d a p m z lit) s ac (scratchEa s a (offsetOf p lit)) (scratchPost s a p m lit)
  | none => .next s

/-- sts.set.SIZE (R421). -/
def execStsSet (x : Bool) (d a : RegIx) (z : BitVec 3) (s : State) : Out :=
  match accessOf (.stsSet x d a z) with
  | some ac => access (.stsSet x d a z) s ac (scratchEa s a 0#32) noPost
  | none => .next s

/-- sts.set.SIZE with offset or post-increment (R421). -/
def execStsSetLit (x : Bool) (d a : RegIx) (p : BitVec 1) (m z : BitVec 3) (lit : Word) (s : State) : Out :=
  match accessOf (.stsSetLit x d a p m z lit) with
  | some ac => access (.stsSetLit x d a p m z lit) s ac (scratchEa s a (offsetOf p lit)) (scratchPost s a p m lit)
  | none => .next s

/-- lds.fmt.KIND.SIZE (R418). -/
def execLdsFmt (x : Bool) (d a : RegIx) (k : BitVec 4) (z : BitVec 3) (s : State) : Out :=
  match accessOf (.ldsFmt x d a k z) with
  | some ac => access (.ldsFmt x d a k z) s ac (scratchEa s a 0#32) noPost
  | none => .next s

/-- lds.wait.fmt.KIND.SIZE (R418, R421). -/
def execLdsWaitFmt (x : Bool) (d a : RegIx) (k : BitVec 4) (z : BitVec 3) (s : State) : Out :=
  match accessOf (.ldsWaitFmt x d a k z) with
  | some ac => access (.ldsWaitFmt x d a k z) s ac (scratchEa s a 0#32) noPost
  | none => .next s

/-- atom.OP of 32 bits (R422, R423). -/
def execAtom32 (x : Bool) (o : BitVec 4) (d a b : RegIx) (s : State) : Out :=
  match accessOf (.atom32 x o d a b) with
  | some ac => access (.atom32 x o d a b) s ac (globalEa s a 0#32) noPost
  | none => .next s

/-- atom.cas.b32 (R424). -/
def execAtomCasB32 (x : Bool) (d a b : RegIx) (s : State) : Out :=
  match accessOf (.atomCasB32 x d a b) with
  | some ac => access (.atomCasB32 x d a b) s ac (globalEa s a 0#32) noPost
  | none => .next s

/-- atom.OP of 64 bits (R422, R423). -/
def execAtom64 (x : Bool) (o : BitVec 4) (d a b : RegIx) (s : State) : Out :=
  match accessOf (.atom64 x o d a b) with
  | some ac => access (.atom64 x o d a b) s ac (globalEa s a 0#32) noPost
  | none => .next s

/-- atom.cas.b64 (R424). -/
def execAtomCasB64 (x : Bool) (d a b : RegIx) (s : State) : Out :=
  match accessOf (.atomCasB64 x d a b) with
  | some ac => access (.atomCasB64 x d a b) s ac (globalEa s a 0#32) noPost
  | none => .next s

/-- red.add.s32 (R425, R426). -/
def execRedAddS32 (x : Bool) (a b : RegIx) (s : State) : Out :=
  match accessOf (.redAddS32 x a b) with
  | some ac => access (.redAddS32 x a b) s ac (globalEa s a 0#32) noPost
  | none => .next s

/-- red.add.s64 (R425, R426). -/
def execRedAddS64 (x : Bool) (a b : RegIx) (s : State) : Out :=
  match accessOf (.redAddS64 x a b) with
  | some ac => access (.redAddS64 x a b) s ac (globalEa s a 0#32) noPost
  | none => .next s

/-- red.add.f32 (R425, R426). -/
def execRedAddF32 (x : Bool) (a b : RegIx) (s : State) : Out :=
  match accessOf (.redAddF32 x a b) with
  | some ac => access (.redAddF32 x a b) s ac (globalEa s a 0#32) noPost
  | none => .next s

/-- red.add.bf16x2 (R425, R426). -/
def execRedAddBf16x2 (x : Bool) (a b : RegIx) (s : State) : Out :=
  match accessOf (.redAddBf16x2 x a b) with
  | some ac => access (.redAddBf16x2 x a b) s ac (globalEa s a 0#32) noPost
  | none => .next s

/-- red.OP, an atomic without result (R425, R426). -/
def execRedAtomic (x : Bool) (o : BitVec 4) (a b : RegIx) (s : State) : Out :=
  match accessOf (.redAtomic x o a b) with
  | some ac => access (.redAtomic x o a b) s ac (globalEa s a 0#32) noPost
  | none => .next s

/-- qwait: a load of a token record that completes once its value is at or above the target (R468); it may wait for ever (R469). -/
def execQwait (x : Bool) (d a b : RegIx) (s : State) : Out :=
  match accessOf (.qwait x d a b) with
  | some ac => access (.qwait x d a b) s ac (globalEa s a 0#32) noPost
  | none => .next s

/-- qsig.SCOPE: value and footprint as one 16-byte store that is a release (R467). -/
def execQsig (x : Bool) (c : BitVec 3) (a b : RegIx) (s : State) : Out :=
  match accessOf (.qsig x c a b) with
  | some ac => access (.qsig x c a b) s ac (globalEa s a 0#32) noPost
  | none => .next s

/-! ## Issue inside a region (R237, R239, R452) -/

/-- The effective address of an access that a region translates when it issues: a store, an atomic, a reduction or a .spec load. -/
def regionEa (s : State) (i : Instr) : Option (Group → Nat → Dword) :=
  match i with
  | .ldSpec _ _ a _ => some (globalEa s a 0#32)
  | .ldSpecLit _ _ a p _ _ lit => some (globalEa s a (offsetOf p lit))
  | .st _ _ a _ => some (globalEa s a 0#32)
  | .stLit _ _ a p _ _ lit => some (globalEa s a (offsetOf p lit))
  | .stRel _ _ a _ _ => some (globalEa s a 0#32)
  | .atom32 _ _ _ a _ => some (globalEa s a 0#32)
  | .atomCasB32 _ _ a _ => some (globalEa s a 0#32)
  | .atom64 _ _ _ a _ => some (globalEa s a 0#32)
  | .atomCasB64 _ _ a _ => some (globalEa s a 0#32)
  | .redAddS32 _ a _ => some (globalEa s a 0#32)
  | .redAddS64 _ a _ => some (globalEa s a 0#32)
  | .redAddF32 _ a _ => some (globalEa s a 0#32)
  | .redAddBf16x2 _ a _ => some (globalEa s a 0#32)
  | .redAtomic _ _ a _ => some (globalEa s a 0#32)
  | _ => none

/-- The effective address that a prefetch or an EVICT translates when it issues (R427, R428). -/
def hintEa (s : State) (i : Instr) : Option (Group → Nat → Dword) :=
  match i with
  | .prefetch _ a => some (globalEa s a 0#32)
  | .prefetchLit _ a p _ lit => some (globalEa s a (offsetOf p lit))
  | .prefetchW _ a => some (globalEa s a 0#32)
  | .prefetchWLit _ a p _ lit => some (globalEa s a (offsetOf p lit))
  | .evict _ a => some (globalEa s a 0#32)
  | _ => none

/-- The state in which a walker is at work on the first translation of some lanes that it has yet to make (R170, R178). -/
def walkHeld (s : State) (g : Group) (k : AccKind) (ea : Group → Nat → Dword) (e : Lanes) : Option State :=
  (lanesOf e).findSome? fun t =>
    let va := (ea g t).toNat
    match resolveFor s s.iss.cid g va k with
    | .miss => some (walkFill s s.iss.cid (asidOf s g) (fnOfGroup s g) va k g.supervisor).2
    | _ => none

/-- Why an instruction that translates when it issues cannot issue yet: a store of lanes in a region that an older unfinished access of its lanes could
still see, or a translation that a walker has yet to make (R170, R224, R237, R427). -/
def regionHeld (s : State) (g : Group) (i : Instr) : Option State :=
  let er := regionLanes g s.iss.lanes
  match hintEa s i with
  | some ea => walkHeld s g .read ea s.iss.lanes
  | none =>
  if er = 0#32 then none
  else match accessOf i with
    | none => none
    | some a =>
      if a.kind = .write && g.ops.any (fun o => (accessOf o.instr).isSome && !(o.todo &&& er = 0#32)) then some s
      else match regionEa s i with
        | none => none
        | some ea => walkHeld s g a.kind ea er

/-! ## Cache and translation hints (R427, R428) -/

/-- The line a hint is about: none when its translation would fault, or its page is home-performed or remote (R428). -/
def hintLine (s : State) (g : Group) (va : Nat) (k : AccKind) : Option (Nat × TlbEntry) :=
  match resolveFor s s.iss.cid g va k with
  | .hit e => if uncached e then none else some (placeOf s e va / 128, e)
  | _ => none

/-- A hint for each thread of E, whose post-increment still takes effect (R428, R349). -/
def hint (i : Instr) (s : State) (ea : Group → Nat → Dword) (post : Group → Nat → List (Nat × Reg))
    (f : State → Group → Nat → State) : Out :=
  issueOn i s fun s e =>
    match issGroup s with
    | none => s
    | some g =>
      let s1 := (lanesOf e).foldl (fun s t => f s g (ea g t).toNat) s
      onGroup s1 (writeBack s.iss (lengthOf i) e fun g t => if s.iss.replay then [] else post g t)

/-- PREFETCH of a line: one token with data, or all tokens (R427). -/
def prefetchLine (k : ReqKind) (s : State) (g : Group) (va : Nat) : State :=
  match hintLine s g va .read with
  | some (line, _) =>
    let a := l1Agent s.iss.cid
    if (if k = .write then mayWrite s a line else mayRead s a line) then s else request s a line k
  | none => s

/-- EVICT of a line: every token goes to the home, once the core's stores to it have been performed; a line pinned by CORE_PIN stays (R427,
R428). -/
def evictLine (s : State) (g : Group) (va : Nat) : State :=
  match hintLine s g va .read with
  | some (line, e) =>
    if pteHome e.leaf == 2 || ((holderOf (lineOf s line) (l1Agent s.iss.cid)).count == 0 && !(buffered s s.iss.cid line)) then s
    else dueOnce s .eviction { n0 := l1Agent s.iss.cid, n1 := line, flag := true }
  | none => s

/-- TLBINV of the entries that `p` names, in the core's L1 TLB and the pier's L2 TLB (R427, R182). -/
def tlbInvalidate (s : State) (p : TlbEntry → Bool) : State :=
  keepTlb2 (keepTlb s s.iss.cid fun e => !(p e)) (pierNo s.iss.cid) fun e => !(p e)

/-- An entry belongs to the group's identifier, or is a GLOBAL leaf of its function. -/
def ownEntry (s : State) (g : Group) (e : TlbEntry) : Bool :=
  if e.isGlobal then e.fn == fnOfGroup s g else e.asid == asidOf s g

/-- prefetch (R427). -/
def execPrefetch (x : Bool) (a : RegIx) (s : State) : Out :=
  hint (.prefetch x a) s (globalEa s a 0#32) noPost (prefetchLine .read)

/-- prefetch with offset or post-increment (R427). -/
def execPrefetchLit (x : Bool) (a : RegIx) (p : BitVec 1) (m : BitVec 3) (lit : Word) (s : State) : Out :=
  hint (.prefetchLit x a p m lit) s (globalEa s a (offsetOf p lit)) (globalPost s a p lit) (prefetchLine .read)

/-- prefetch.w (R427). -/
def execPrefetchW (x : Bool) (a : RegIx) (s : State) : Out :=
  hint (.prefetchW x a) s (globalEa s a 0#32) noPost (prefetchLine .write)

/-- prefetch.w with offset or post-increment (R427). -/
def execPrefetchWLit (x : Bool) (a : RegIx) (p : BitVec 1) (m : BitVec 3) (lit : Word) (s : State) : Out :=
  hint (.prefetchWLit x a p m lit) s (globalEa s a (offsetOf p lit)) (globalPost s a p lit) (prefetchLine .write)

/-- evict (R427). -/
def execEvict (x : Bool) (a : RegIx) (s : State) : Out := hint (.evict x a) s (globalEa s a 0#32) noPost evictLine

/-- tlbinv.va (R427). -/
def execTlbinvVa (x : Bool) (a : RegIx) (s : State) : Out :=
  hint (.tlbinvVa x a) s (globalEa s a 0#32) noPost fun s g va =>
    tlbInvalidate s fun e => ownEntry s g e && e.base ≤ va && va < e.base + e.size

/-- tlbinv.all (R427). -/
def execTlbinvAll (x : Bool) (s : State) : Out :=
  issueOn (.tlbinvAll x) s fun s e =>
    match issGroup s with
    | none => s
    | some g =>
      onGroup (tlbInvalidate s (ownEntry s g)) fun g => advance s.iss 1 e (noteSpec e g)

/-! ## Modulo registers (R429, R430) -/

/-- modset mN, a, b: base and length from the lowest lane of E (R429). -/
def execModset (x : Bool) (n : BitVec 3) (a b : RegIx) (s : State) : Out :=
  issueOn (.modset x n a b) s fun s e =>
    let low := oneLane (lowestLane e)
    let bad := fun (g : Group) (t : Nat) =>
      let base := (srcVal s.iss g t a.toNat).toNat
      let len := (srcVal s.iss g t b.toNat).toNat
      if 2 ^ 19 ≤ base || 2 ^ 19 ≤ len || (!(len == 0) && 2 ^ 19 < base + len) then some base else none
    let p := operandCheck 0x07 true bad (s, low)
    if p.2 = 0#32 then p.1 else
      onGroup p.1 fun g =>
        let t := lowestLane e
        advance s.iss 1 e { g with modulo := setNth g.modulo n.toNat ((srcVal s.iss g t a.toNat).toNat, (srcVal s.iss g t b.toNat).toNat) }

/-- modrd d:d+1, #N (R430). -/
def execModrd (x : Bool) (d : RegIx) (n : BitVec 3) (s : State) : Out :=
  compute (.modrd x d n) s fun g _ =>
    let m := nth (0, 0) g.modulo n.toNat
    [(d.toNat, ⟨BitVec.ofNat 32 m.1, 12#4⟩), (d.toNat + 1, ⟨BitVec.ofNat 32 m.2, 12#4⟩)]

end Sys2Proof.Machine
end

