-- ==== Sys2Proof/Machine/Swap.lean ====
section
/-! DEFINITION.  The swap engines (R183 to R189): the exchange of two frames, line by line. -/

namespace Sys2Proof.Machine

/-- The swap engine of a die. -/
def swapOf (s : State) (die : Nat) : Swap := look Swap.reset s.swaps die

/-- Change the swap engine of a die. -/
def modSwap (s : State) (die : Nat) (f : Swap → Swap) : State := { s with swaps := store Swap.reset s.swaps die (f (swapOf s die)) }

/-- Set the fields of XL_SWAP_CTL that software writes (R185). -/
def setSwapCtl (v : Dword) (w : Swap) : Swap :=
  { w with irqEn := v.getLsbD 62, vector := (v.extractLsb' 56 6).toNat, size := (v.extractLsb' 0 2).toNat }

/-- The address an entry register names (R184). -/
def swapAddr (v : Dword) : Nat := v.toNat

/-- The engine holds every token of two lines, gathered in ascending address (R187); otherwise the state in which it has asked for them. -/
def gatherTwo (s : State) (die a b : Nat) : Option State × State :=
  match gather s (swapAgent die) (min a b) .write true with
  | (none, s1) => (none, s1)
  | (some s1, _) => gather s1 (swapAgent die) (max a b) .write true

/-- The engine gives the tokens of two lines back to their homes (R187). -/
def giveTwo (s : State) (die a b : Nat) (wrote : Bool) : State :=
  giveBack (giveBack s (swapAgent die) (min a b) wrote) (swapAgent die) (max a b) wrote

/-- A check of step 1 fails for the entry at an address: it is a valid leaf at the level of the size, with MIG = 0 and no fault under R174 or
R175, and a 64 KiB entry heads a contiguous group (R187). -/
def badSwapEntry (s : State) (pa size : Nat) : Bool :=
  let e := readEntry8 s pa
  let lvl := if size == 2 then 2 else 1
  (tierOf s pa).isNone || poisoned s (pa / 128) || !(pteV e) || !(pteLeaf e) || pteMig e || reservedSet e lvl || frameOutside s e lvl ||
  (size == 1 && (!(pa % 128 == 0) || (contiguous s pa).isNone))

/-- Two spans of bytes of the same length meet. -/
def meet (a b n : Nat) : Bool := a < b + n && b < a + n

/-- A frame overlaps one under exchange by the other die's engine. -/
def underExchange (s : State) (die f n : Nat) : Bool :=
  let w := swapOf s (1 - die)
  w.status == 1 && [pteFrame w.leafA, pteFrame w.leafB].any fun g => f < g + swapBytes w.span && g < f + n

/-- The frame checks of step 1 fail: each frame in the near or far tier, the two distinct, neither under exchange by the other die (R187). -/
def badSwapFrames (s : State) (die size : Nat) (ea eb : Dword) : Bool :=
  let a := pteFrame ea
  let b := pteFrame eb
  let n := swapBytes size
  2 ≤ pteTier ea || 2 ≤ pteTier eb || meet a b n || underExchange s die a n || underExchange s die b n

/-- The entries an exchange writes: the named one, or the 16 of its group at 64 KiB. -/
def swapEntries (pa size : Nat) : List Nat := if size == 1 then (List.range 16).map (pa + 8 * ·) else [pa]

/-- Set or clear MIG in a leaf entry. -/
def setMig (e : Dword) (on : Bool) : Dword := if on then e ||| 0x8000#64 else e &&& ~~~0x8000#64

/-- Set MIG in the entries of an exchange (step 2 of R187). -/
def markMig (s : State) (pas : List Nat) : State :=
  { s with mem := pas.foldl (fun m pa => writeNat m pa 8 (setMig (readEntry8 s pa) true).toNat) s.mem }

/-- The checks of step 1 and step 2 of R187, with the tokens of both entry lines. -/
def checkSwap (s : State) (die a b : Nat) : State :=
  let w := swapOf s die
  let done := fun (s : State) (wrote : Bool) => giveTwo s die (a / 128) (b / 128) wrote
  if badSwapEntry s a w.size || badSwapEntry s b w.size then done (modSwap s die fun w => { w with status := 3 }) false
  else
    let ea := readEntry8 s a
    let eb := readEntry8 s b
    if badSwapFrames s die w.size ea eb then done (modSwap s die fun w => { w with status := 4 }) false
    else
      let s1 := modSwap (markMig s (swapEntries a w.size ++ swapEntries b w.size)) die fun w =>
        { w with status := 1, line := 0, span := w.size, addrA := a, addrB := b, leafA := ea, leafB := eb }
      due (done s1 true) .swapLine { n0 := die }

/-- Steps 1 and 2 of R187, on the registers as they stand; again while a token is awaited. -/
def startSwap (s : State) (die : Nat) : State :=
  let w := swapOf s die
  let a := swapAddr w.entryA
  let b := swapAddr w.entryB
  if w.status == 1 then s
  else if w.size == 3 then modSwap s die fun w => { w with status := 5 }
  else if (tierOf s a).isNone || (tierOf s b).isNone then modSwap s die fun w => { w with status := 3 }
  else
    match gatherTwo s die (a / 128) (b / 128) with
    | (none, s1) => dueOnce s1 .swapGo { n0 := die, flag := true }
    | (some s1, _) => checkSwap s1 die a b

/-- SWAP_GO: GO is set in XL_SWAP_CTL of die `n0` with the fields of `val` (R185, R187); `flag` marks a start that waits for its tokens and
leaves the fields as they are.  GO is ignored while BUSY. -/
def execSwapGo (s : State) : Out :=
  let die := s.args.n0
  if dieCount s ≤ die then .next s else
    let s1 := if s.args.flag then s else modSwap s die (setSwapCtl s.args.val)
    .next (startSwap s1 die)

/-- A new entry of an exchange: FRAME and TIER of the other entry at step 1, MIG clear, the other fields as they stand (step 4 of R187). -/
def swapped (now_ other : Dword) (k : Nat) : Dword :=
  let frame := BitVec.ofNat 64 ((pteField other 16 40 + k) % 2 ^ 40) <<< 16
  setMig ((now_ &&& ~~~0x00FFFFFFFFFF0C00#64) ||| frame ||| (other &&& 0xC00#64)) false

/-- Rewrite the entries of one side of an exchange. -/
def rewriteEntries (s : State) (pas : List Nat) (other : Dword) : State :=
  { s with mem := (pas.zip (List.range pas.length)).foldl (fun m p => writeNat m p.1 8 (swapped (readEntry8 s p.1) other p.2).toNat) s.mem }

/-- Poison a line or not; its wrong symbols are gone with the old data. -/
def putPoison (s : State) (line : Nat) (on : Bool) : State := if on then setPoison (clearPoison s line) line else clearPoison s line

/-- Where a physical address is once two lines have changed places. -/
def movedPlace (a b pa : Nat) : Nat :=
  if pa / 128 == a then 128 * b + pa % 128 else if pa / 128 == b then 128 * a + pa % 128 else pa

/-- The key of a generation whose descriptor may have moved. -/
def movedKey (a b key : Nat) : Nat :=
  generationKey (movedPlace a b (key / 2 ^ 33)) (key / 2 ^ 32 % 2) (key % 2 ^ 32)

/-- What units keep under the physical address of a descriptor follows the descriptor when its line moves (R187, R289). -/
def movePlaces (s : State) (a b : Nat) : State :=
  { s with
    rayCounts := s.rayCounts.foldl (fun l p => place l (movedKey a b p.1) p.2) []
    builds := s.builds.map fun x => (x.1, { x.2 with place := movedPlace a b x.2.place })
    compacts := s.compacts.map fun x => (x.1, { x.2 with place := movedPlace a b x.2.place })
    piers := s.piers.map fun p => (p.1, { p.2 with rays := p.2.rays.map fun (r : Ray) => { r with place := movedPlace a b r.place } }) }

/-- Exchange the data of two lines, with their poison (step 3 of R187). -/
def exchangeLines (s : State) (a b : Nat) : State :=
  let da := readBytes s.mem (128 * a) 128
  let db := readBytes s.mem (128 * b) 128
  let s1 := { s with mem := writeBytes (writeBytes s.mem (128 * a) db) (128 * b) da }
  movePlaces (putPoison (putPoison s1 a (poisoned s b)) b (poisoned s a)) a b

/-- SWAP_LINE: the engine of die `n0` exchanges line LINE of the two frames, or, after the last, rewrites the entries, becomes DONE and raises
its interrupt (steps 3 to 5 of R187). -/
def execSwapLine (s : State) : Out :=
  let die := s.args.n0
  let w := swapOf s die
  if !(w.status == 1) then .next s
  else if w.line < swapBytes w.span / 128 then
    let a := pteFrame w.leafA / 128 + w.line
    let b := pteFrame w.leafB / 128 + w.line
    match gatherTwo s die a b with
    | (none, s1) => .next (due s1 .swapLine s.args)
    | (some s1, _) =>
      let s2 := modSwap (exchangeLines s1 a b) die fun w => { w with line := w.line + 1 }
      .next (due (giveTwo s2 die a b true) .swapLine s.args)
  else
    match gatherTwo s die (w.addrA / 128) (w.addrB / 128) with
    | (none, s1) => .next (due s1 .swapLine s.args)
    | (some s1, _) =>
      let s2 := rewriteEntries (rewriteEntries s1 (swapEntries w.addrA w.span) w.leafB) (swapEntries w.addrB w.span) w.leafA
      let s3 := giveTwo (modSwap s2 die fun w => { w with status := 2 }) die (w.addrA / 128) (w.addrB / 128) true
      .next (if w.irqEn then raiseMsix s3 0 w.vector else s3)

end Sys2Proof.Machine
end

