-- ==== Sys2Proof/Machine/Registers.lean ====
section
/-! DEFINITION.  The memory-mapped registers of BAR 0 (R11, R12, R21): what a read of each gives, and REGISTER_WRITE. -/

namespace Sys2Proof.Machine

/-- A bit as a number. -/
def bitNat (b : Bool) (n : Nat) : Nat := if b then 2 ^ n else 0

/-! ## What the host finds (R20, R21, R40) -/

/-- The features of the host link that a function's capability structures report (R20); a feature that is not one of these is absent. -/
inductive HostFeature where
  | msix | sriov | doeSpdm | ide | cxlCache | cxlMem
  deriving DecidableEq, Repr

/-- A base address register: its number, the bytes of its region, whether it is 64 bits wide, and whether its region is prefetchable (R21). -/
structure Bar where
  index : Nat
  bytes : Nat
  wide : Bool
  prefetchable : Bool
  deriving DecidableEq, Repr

/-- The configuration space of a function as the spec gives it: its BARs, its features, its MSI-X vectors (R61), and, of the physical function, the
virtual functions it can have (R20). -/
structure ConfigSpace where
  bars : List Bar
  features : List HostFeature
  vectors : Nat
  totalVfs : Nat
  deriving DecidableEq, Repr

/-- The two BARs of every function: 16 MiB each, 64-bit and non-prefetchable (R21). -/
def functionBars : List Bar := [⟨0, 2 ^ 24, true, false⟩, ⟨2, 2 ^ 24, true, false⟩]

/-- A function's configuration space; it answers once the link has trained (R40). -/
def configSpace (s : State) (fn : Nat) : Option ConfigSpace :=
  if !s.platform.linkUp || !(fnOf s fn).enabled then none
  else if fn == 0 then some ⟨functionBars, [.msix, .sriov, .doeSpdm, .ide, .cxlCache, .cxlMem], 64, 63⟩
  else some ⟨functionBars, [.msix], 64, 0⟩

/-! ## Reads -/

/-- PM_IDENT (R32). -/
def pmIdent (s : State) : Nat :=
  0x4E53 * 2 ^ 48 + (match s.variant with | .k960 => 0x0960 | .k960c => 0x096C | .k480 => 0x0480) * 2 ^ 32 + Config.stepping.toNat * 2 ^ 24

/-- PM_CAP_UNITS, from which software learns what units there are (R33, R37). -/
def pmCapUnits (s : State) : Nat :=
  (if hasRays s then 32 * 2 ^ 40 + 4 * 2 ^ 32 else 0) + 32 * 2 ^ 24 + 128 * 2 ^ 16 + 32 * 2 ^ 8 + (2 ^ dieCount s - 1)

/-- PM_CAP_MEM (R1, R34). -/
def pmCapMem (s : State) : Nat := 64 * 2 ^ 48 + 256 * dieCount s * 2 ^ 32 + 96 * 2 ^ 16

/-- PM_CAP_LINKS (R1, R35). -/
def pmCapLinks (s : State) : Nat :=
  let k := dieCount s
  6 * k * 2 ^ 48 + 4 * k * 2 ^ 40 + 8 * k * 2 ^ 32 + (if k == 2 then 1 else 0)

/-- PM_PEER_STATUS (R36): until self-test is done it reads its fuse value, no port trained (R40, log entry 103). -/
def pmPeerStatus (s : State) : Nat :=
  if s.trust.life = .selfTest then 0 else ((List.range (portCount s)).map fun p => look 0 s.platform.ports p % 4 * 4 ^ p).sum

/-- HQ_FN_CFGn (R63). -/
def readFnCfg (f : Fn) : Nat := f.limit * 2 ^ 40 + f.top * 2 ^ 32 + f.asidCount * 2 ^ 8 + f.asidBase

/-- HQ_Q_CFG (R66). -/
def readQueueCfg (x : Queue) : Nat :=
  bitNat (x.state == 1 || x.state == 2) 63 + x.state * 2 ^ 58 + bitNat x.mapped 57 + bitNat x.pending 56 + x.cq * 2 ^ 44 + x.priority * 2 ^ 40 +
  x.asid * 2 ^ 32 + x.log2

/-- A word of a queue descriptor (R65). -/
def readQueueWord (x : Queue) (w : Nat) : Nat :=
  if w == 0 then x.ring.toNat else if w == 1 then readQueueCfg x else if w == 2 then x.head.toNat else if w == 3 then x.ticket.toNat
  else if w == 4 then x.tail.toNat else if w == 5 then x.err.toNat else 0

/-- HQ_CQ_CFG (R67). -/
def readCqCfg (q : Cq) : Nat :=
  bitNat q.enabled 63 + bitNat q.irqEn 62 + q.vector * 2 ^ 56 + q.count * 2 ^ 48 + q.timer * 2 ^ 32 + q.asid * 2 ^ 16 + q.log2

/-- A word of a completion-queue descriptor (R65). -/
def readCqWord (q : Cq) (w : Nat) : Nat :=
  if w == 0 then q.base.toNat else if w == 1 then readCqCfg q else if w == 2 then q.tail.toNat else q.err.toNat

/-- HQ_FAULT_CFG (R157). -/
def readFaultCfg (f : Fn) : Nat :=
  bitNat f.frEnabled 63 + bitNat f.frIrq 62 + f.frVector * 2 ^ 56 + f.frTimeout * 2 ^ 32 + f.frAsid * 2 ^ 16 + f.frLog2

/-- A word of the fault-ring registers; HQ_FAULT_RESUME is write only (R157). -/
def readFaultWord (f : Fn) (w : Nat) : Nat :=
  if w == 0 then f.frBase.toNat else if w == 1 then readFaultCfg f else if w == 2 then f.frTail.toNat else if w == 3 then f.frHead.toNat else 0

/-- A doubleword of the MSI-X table: the second of an entry has the mask bit of its vector control. -/
def readMsix (f : Fn) (w : Nat) : Nat := (look 0#64 f.msixTable w).toNat + bitNat (w % 2 == 1 && f.masked.contains (w / 2)) 32

/-- A word of the placement registers of a die (R111 to R114). -/
def readPlacer (p : Placer) (w : Nat) : Nat :=
  if w == 0 then p.ageLimit * 2 ^ 8 + bitNat p.backfill 0
  else if w == 1 then p.headPass * 2 ^ 40 + p.list.length * 2 ^ 24 + p.state
  else if w == 2 then p.phaseBase.toNat else 0

/-- A word of the swap registers of a die (R184 to R186). -/
def readSwap (w : Swap) (k : Nat) : Nat :=
  if k == 0 then w.entryA.toNat else if k == 1 then w.entryB.toNat
  else if k == 2 then bitNat (w.status == 1) 63 + bitNat w.irqEn 62 + w.vector * 2 ^ 56 + w.status * 2 ^ 32 + w.size
  else if k == 3 then w.line else 0

/-- DBG_ATTACH (R293).  STEP reads 1 from its write until every group is halted again or released; the spec does not say when it clears
(log entry 104). -/
def readDbgAttach (s : State) : Nat :=
  bitNat s.dbg.enabled 63 + bitNat s.dbg.halt 62 + bitNat (s.dbg.stepping && !(haltedAll s)) 61 + bitNat (haltedAll s) 60 + s.dbg.fn * 2 ^ 50 + s.dbg.q * 2 ^ 32

/-- A breakpoint register (R298). -/
def readBp (d : Debug) (w : Nat) : Nat :=
  match d.bps[w / 2]? with
  | some b => if w % 2 == 0 then b.1.toNat else bitNat b.2.1 63 + b.2.2.toNat
  | none => 0

/-- A word of the debug registers (R293, R298, R305, R308). -/
def readDebug (s : State) (o : Nat) : Nat :=
  let d := s.dbg
  if o == 0 then readDbgAttach s
  else if 0x40 ≤ o && o < 0x80 then readBp d ((o - 0x40) / 8)
  else if o == 0x100 then bitNat d.sampleEn 63 + bitNat d.logEn 62 + d.interval
  else if o == 0x108 then bitNat d.notReplayable 63 + d.firstOrdinal.toNat
  else 0

/-- A counter of a block: a leaf's shadow, or CYCLES (R303). -/
def readCounter (shadows : List Nat) (cycles w : Nat) : Nat := if w < 18 then nth 0 shadows w else if w == 18 then cycles else 0

/-- A register that only the physical function has (R31, R63, R111, R183, R218, R293, R303). -/
def readPhysical (s : State) (o : Nat) : Nat :=
  if o == 0x100 then fwState s.trust
  else if o == 0x108 then s.trust.svnFuse.toNat
  else if 0x200 ≤ o && o < 0x300 then leNat (((nth [] s.trust.measures ((o - 0x200) / 32)).drop ((o - 0x200) % 32)).take 8)
  else if 0x1000 ≤ o && o < 0x1200 then readFnCfg (fnOf s ((o - 0x1000) / 8))
  else if 0x200000 ≤ o && o < 0x200000 + 0x40 * dieCount s then readPlacer (placerOf s ((o - 0x200000) / 64)) (o % 64 / 8)
  else if 0x400000 ≤ o && o < 0x400000 + 0x40 * dieCount s then readSwap (swapOf s ((o - 0x400000) / 64)) (o % 64 / 8)
  else if 0x500000 ≤ o && o < 0x500000 + 0x40 * dieCount s then (if o % 64 == 0 then (errlogOf s ((o - 0x500000) / 64)).toNat else 0)
  else if 0x600000 ≤ o && o < 0x600200 then readDebug s (o - 0x600000)
  else if 0x700000 ≤ o && o < 0x700000 + 0x100 * (128 * dieCount s) then
    let c := coreOf s ((o - 0x700000) / 256)
    readCounter c.shadows c.cycles (o % 256 / 8)
  else 0

/-- What a read of the doubleword at an offset of a function's BAR 0 returns (R11, R12, R31, R65). -/
def readRegister (s : State) (fn o : Nat) : Dword :=
  let f := fnOf s fn
  BitVec.ofNat 64 (
    if o == 0 then pmIdent s
    else if o == 0x8 then pmCapUnits s
    else if o == 0x10 then pmCapMem s
    else if o == 0x18 then pmCapLinks s
    else if o == 0x20 then s.trust.bist.toNat
    else if o == 0x28 then pmPeerStatus s
    else if 0x100000 ≤ o && o < 0x140000 then readQueueWord (queueOf s fn ((o - 0x100000) / 64)) (o % 64 / 8)
    else if 0x140000 ≤ o && o < 0x160000 then readCqWord (cqOf s fn ((o - 0x140000) / 32)) (o % 32 / 8)
    else if 0x180000 ≤ o && o < 0x180400 then readMsix f ((o - 0x180000) / 8)
    else if o == 0x181000 then f.pba.toNat
    else if 0x300000 ≤ o && o < 0x300028 then readFaultWord f ((o - 0x300000) / 8)
    else if 0x800000 ≤ o && o < 0x900000 then
      let x := queueOf s fn ((o - 0x800000) / 256)
      readCounter x.shadows x.cycles (o % 256 / 8)
    else if fn == 0 then readPhysical s o else 0)

/-- A read of the doubleword at byte `o` of BAR 0 or BAR 2 of a function: nothing answers before the link has trained or for a function that is
not enabled, nor where the spec gives no value (R21, R40, R71). -/
def barRead (s : State) (fn bar o : Nat) : Option Dword :=
  (configSpace s fn).bind fun _ => if bar == 0 then some (readRegister s fn o) else if bar == 2 then readDoorbell (o % 4096) else none

/-! ## Writes -/

/-- A write to the ring base of a queue: ignored while ENABLE is 1 (R65, R68). -/
def writeRing (s : State) (fn q : Nat) (v : Dword) : State :=
  let x := queueOf s fn q
  if x.state == 1 || x.state == 2 then s else modQueue s fn q fun x => { x with ring := baseField v }

/-- A write to the array base of a completion queue: ignored while ENABLE is 1 (R65, R68). -/
def writeCqBase (s : State) (fn c : Nat) (v : Dword) : State :=
  if (cqOf s fn c).enabled then s else modCq s fn c fun q => { q with base := baseField v }

/-- The vector control of an MSI-X entry: bit 0 masks it; a vector unmasked with its pending bit set is raised. -/
def writeVectorControl (s : State) (fn vec : Nat) (on : Bool) : State :=
  if on then modFn s fn fun f => { f with masked := if f.masked.contains vec then f.masked else vec :: f.masked }
  else
    let s1 := modFn s fn fun f => { f with masked := f.masked.filter fun n => !(n == vec) }
    if (fnOf s fn).pba.getLsbD vec then raiseMsix (modFn s1 fn fun f => { f with pba := f.pba &&& ~~~(1#64 <<< vec) }) fn vec else s1

/-- A write of 4 or 8 bytes to the MSI-X table, at byte `o` of it: entries of 16 bytes, address, data and vector control (R65). -/
def writeMsix (s : State) (fn o size : Nat) (v : Dword) : State :=
  let w := o / 8
  let old := look 0#64 (fnOf s fn).msixTable w
  let high := o % 8 == 4
  let new : Dword := if size == 8 then v else if high then (old &&& 0xFFFFFFFF#64) ||| (v <<< 32) else (old &&& 0xFFFFFFFF00000000#64) ||| (v &&& 0xFFFFFFFF#64)
  let s1 := modFn s fn fun f => { f with msixTable := store 0#64 f.msixTable w (if w % 2 == 1 then new &&& 0xFFFFFFFF#64 else new) }
  if w % 2 == 1 && (size == 8 || high) then writeVectorControl s1 fn (w / 2) (new.getLsbD 32) else s1

/-- A write to the fault-ring registers (R157, R159). -/
def writeFaultWord (s : State) (fn w : Nat) (v : Dword) : State :=
  if w == 0 then (if (fnOf s fn).frEnabled then s else modFn s fn fun f => { f with frBase := baseField v })
  else if w == 1 then writeFaultCfg s fn v
  else if w == 3 then writeFaultHead s fn v
  else if w == 4 then writeFaultResume s fn (loWord v).toNat (v.getLsbD 32)
  else s

/-- A write to the placement registers of a die (R111 to R114). -/
def writePlacer (s : State) (die w : Nat) (v : Dword) : State :=
  if w == 0 then writePlCfg s die v
  else if w == 2 then modPlacer s die fun p => { p with phaseBase := v &&& 0x800FFFFFFFFC0000#64 }
  else s

/-- A write to the swap registers of a die: the entries are ignored while BUSY, and GO starts an exchange (R183 to R187). -/
def writeSwap (s : State) (die k : Nat) (v : Dword) : State :=
  let busy := (swapOf s die).status == 1
  let entry := v &&& 0x000FFFFFFFFFFFF8#64
  if k == 0 then (if busy then s else modSwap s die fun w => { w with entryA := entry })
  else if k == 1 then (if busy then s else modSwap s die fun w => { w with entryB := entry })
  else if k == 2 then
    let s1 := modSwap s die (setSwapCtl v)
    if v.getLsbD 63 then startSwap s1 die else s1
  else s

/-- A write to TC_ERRLOG of a die: 1 clears CENSUS (R218). -/
def writeErrlog (s : State) (die : Nat) (v : Dword) : State :=
  if v.getLsbD 63 then
    { s with coherence := { s.coherence with errlog := place s.coherence.errlog die (errlogOf s die &&& 0x7FFFFFFFFFFFFFFF#64) } }
  else s

/-- A write to a breakpoint register (R298). -/
def writeBp (s : State) (w : Nat) (v : Dword) : State :=
  { s with dbg := { s.dbg with bps := modNth s.dbg.bps (w / 2) fun (b : Dword × Bool × Word) =>
      if w % 2 == 0 then (v &&& 0x01FFFFFFFFFFFFFF#64, b.2) else (b.1, v.getLsbD 63, loWord v) } }

/-- A write to the debug registers (R293, R298, R305, R308). -/
def writeDebug (s : State) (o : Nat) (v : Dword) : State :=
  if o == 0 then writeDbgAttach s v
  else if 0x40 ≤ o && o < 0x80 then writeBp s ((o - 0x40) / 8) v
  else if o == 0x100 then writeTraceCfg s v
  else if o == 0x108 then
    (if v.getLsbD 63 then { s with dbg := { s.dbg with notReplayable := false, firstOrdinal := 0xFFFFFFFF#32 } } else s)
  else s

/-- A write to a register that only the physical function has. -/
def writePhysical (s : State) (o : Nat) (v : Dword) : State :=
  if 0x1000 ≤ o && o < 0x1200 then writeFnCfg s ((o - 0x1000) / 8) v
  else if 0x200000 ≤ o && o < 0x200000 + 0x40 * dieCount s then writePlacer s ((o - 0x200000) / 64) (o % 64 / 8) v
  else if 0x400000 ≤ o && o < 0x400000 + 0x40 * dieCount s then writeSwap s ((o - 0x400000) / 64) (o % 64 / 8) v
  else if 0x500000 ≤ o && o < 0x500000 + 0x40 * dieCount s then (if o % 64 == 0 then writeErrlog s ((o - 0x500000) / 64) v else s)
  else if 0x600000 ≤ o && o < 0x600200 then writeDebug s (o - 0x600000) v
  else s

/-- A write of a doubleword at an offset of a function's BAR 0; read-only registers and reserved fields ignore it (R11, R12). -/
def writeRegister (s : State) (fn o : Nat) (v : Dword) : State :=
  if 0x100000 ≤ o && o < 0x140000 then
    (if o % 64 / 8 == 0 then writeRing s fn ((o - 0x100000) / 64) v
     else if o % 64 / 8 == 1 then writeQueueCfg s fn ((o - 0x100000) / 64) v else s)
  else if 0x140000 ≤ o && o < 0x160000 then
    (if o % 32 / 8 == 0 then writeCqBase s fn ((o - 0x140000) / 32) v
     else if o % 32 / 8 == 1 then writeCqCfg s fn ((o - 0x140000) / 32) v else s)
  else if 0x180000 ≤ o && o < 0x180400 then writeMsix s fn (o - 0x180000) 8 v
  else if 0x300000 ≤ o && o < 0x300028 then writeFaultWord s fn ((o - 0x300000) / 8) v
  else if fn == 0 then writePhysical s o v
  else s

/-- REGISTER_WRITE: `val` is written to byte `n1` of BAR 0 of function `n0`, in `n2` bytes (R11, R12, R21).  BAR 0 answers once the link has trained
(R40), and a function that is not enabled has none.  A write of other than 8 aligned bytes, or 4 in the MSI-X table, is discarded. -/
def execRegisterWrite (s : State) : Out :=
  let fn := s.args.n0
  let o := s.args.n1
  let size := s.args.n2
  if !s.platform.linkUp || !(fnOf s fn).enabled then .next s
  else if size == 8 && o % 8 == 0 then .next (writeRegister s fn o s.args.val)
  else if size == 4 && o % 4 == 0 && 0x180000 ≤ o && o < 0x180400 then .next (writeMsix s fn (o - 0x180000) 4 s.args.val)
  else .next s

end Sys2Proof.Machine
end

