-- ==== Sys2Proof/Machine/Sync.lean ====
section
/-! DEFINITION.  Try regions, fences, team barriers, convergence registers and pipes (R439 to R466), and the step COMMIT_POINT (R455). -/

namespace Sys2Proof.Machine

/-! ## Try regions -/

/-- The handler of a TRY: its clause's header plus 4 times the literal (R444). -/
def handlerOf (s : State) (lit : Word) : Dword := s.iss.header + (lit.signExtend 64) <<< 2

/-- TRY for one mode (R444, R445): lanes at depth 4 abort with NEST; the others open a region or go one deeper. -/
def tryRegion (i : Instr) (isGroup : Bool) (d : RegIx) (lit : Word) (s : State) : Out :=
  issueOn i s fun s e =>
    match issGroup s with
    | none => s
    | some g =>
      let deep := laneSet ((lanesOf e).filter fun t => match (threadOf g t).region with | some r => 4 ≤ r.depth | none => false)
      let s1 := abortLanes s s.iss.cid s.iss.slot deep 0x09 0 0#64
      let e1 := stillThere s1 (e &&& ~~~deep)
      let (inst, s2) := takeId s1
      onGroup s2 fun g =>
        let g := noteSpec e1 g
        let g := (lanesOf e1).foldl (fun g t => modThread g t fun th =>
          match th.region with
          | some r => { th with region := some { r with depth := r.depth + 1 } }
          | none => { th with region := some ⟨1, isGroup, handlerOf s lit, d.toNat, [], [], [], [], inst, false, none, []⟩ }) g
        advance s.iss 2 e1 g

/-- try.lane d:d+3, label (R444). -/
def execTryLane (x : Bool) (d : RegIx) (lit : Word) (s : State) : Out := tryRegion (.tryLane x d lit) false d lit s

/-- try.group d:d+3, label (R444, R445). -/
def execTryGroup (x : Bool) (d : RegIx) (lit : Word) (s : State) : Out := tryRegion (.tryGroup x d lit) true d lit s

/-- ILLEGAL_ENCODING at step 8 for the lanes at depth 0 (R451, R455). -/
def needsRegion (p : State × Lanes) : State × Lanes :=
  operandCheck 0x02 false (fun g t => if inRegion g t then none else some 0) p

/-- COMMIT with an optional release scope (R455): an inner one lowers the depth; the outermost one waits for its COMMIT_POINT. -/
def commitWith (i : Instr) (rel : Option Nat) (s : State) : Out :=
  issueOn i s fun s e =>
    let p := needsRegion (s, e)
    if p.2 = 0#32 then p.1 else
      let s1 := onGroup p.1 fun g =>
        let g := noteSpec p.2 g
        let g := (lanesOf p.2).foldl (fun g t => modThread g t fun th =>
          match th.region with
          | some r => if 1 < r.depth then { th with region := some { r with depth := r.depth - 1 } }
                      else { th with region := some { r with committing := true, rel := rel }, wait := .commit }
          | none => th) g
        advance s.iss 1 p.2 g
      match issGroup s1 with
      | none => s1
      | some g => (lanesOf p.2).foldl (fun s t =>
          if (threadOf g t).wait = .commit then due s .commitPoint { n0 := s.iss.cid, n1 := s.iss.slot, n2 := t } else s) s1

/-- commit (R455). -/
def execCommit (x : Bool) (s : State) : Out := commitWith (.commit x) none s

/-- commit.rel.SCOPE (R455). -/
def execCommitRel (x : Bool) (c : BitVec 3) (s : State) : Out := commitWith (.commitRel x c) (some c.toNat) s

/-- abort #imm: EXPLICIT, with the immediate as detail (R451). -/
def execAbort (x : Bool) (lit : Word) (s : State) : Out :=
  issueOn (.abort x lit) s fun s e =>
    let p := needsRegion (s, e)
    if p.2 = 0#32 then p.1 else
      abortLanes (onGroup p.1 (noteSpec p.2)) s.iss.cid s.iss.slot p.2 0x01 (fieldOf lit 0 8) 0#64

/-- The speculation status of a thread (R457). -/
def tstatWord (g : Group) (t : Nat) : Word :=
  match (threadOf g t).region with
  | none => 0#32
  | some r => BitVec.ofNat 32 (r.depth + (if r.isGroup then 8 else 0) + 16 * r.log.length + 1024 * (writeLines g).length + 524288 * (loadLines g).length)

/-- tstat d (R457). -/
def execTstat (x : Bool) (d : RegIx) (s : State) : Out := compute (.tstat x d) s fun g t => [(d.toNat, int32 (tstatWord g t))]

/-- The members of the commit that lane t takes part in: its whole instance in .group mode (R445, R455). -/
def commitMembers (g : Group) (t : Nat) : List Nat :=
  match (threadOf g t).region with
  | none => []
  | some r =>
    if r.isGroup then (List.range 32).filter fun u => match (threadOf g u).region with
      | some q => q.isGroup && q.instance_ == r.instance_
      | none => false
    else [t]

/-- What the members of a commit have buffered. -/
def commitWrites (g : Group) (ms : List Nat) : List Wr := ms.flatMap fun u => match (threadOf g u).region with | some q => q.writes | none => []

/-- The lines of memory of a commit, in ascending order (R214, R455). -/
def commitLines (g : Group) (ms : List Nat) : List Nat :=
  sortBy (fun a b => a ≤ b) (dedup (((commitWrites g ms).filter fun w => !w.scratch).map fun w => w.addr / 128))

/-- A commit has nothing left to wait for but the tokens of its write set: every member of the instance stands in its outermost COMMIT, the release has
waited, and no older store of a member to one of the lines is still in the store buffer (R237, R455). -/
def commitReady (s : State) (cid slot : Nat) (g : Group) (ms : List Nat) : Bool :=
  let region := fun (u : Nat) => (threadOf g u).region
  let lines := commitLines g ms
  g.stop.isNone &&
  (ms.all fun u => match region u with | some q => q.committing | none => false) &&
  (ms.all fun u => replayed g u && releaseReady s cid slot u (match region u with | some q => q.rel.getD 0 | none => 0) s.ids) &&
  !((coreOf s cid).sb.any fun e => e.slot == slot && ms.contains e.lane && lines.contains (e.addr / 128))

/-- The commit point: every buffered store and scratchpad span of the instance in one event; the regions end (R237, R455). -/
def performCommit (s : State) (cid slot : Nat) (g : Group) (ms : List Nat) : State :=
  let writes := commitWrites g ms
  let lines := commitLines g ms
  let s1 := (writes.filter fun w => !w.scratch).foldl (fun s w => writeLineBytes s w.addr [w.byte]) s
  let s2 := modCore s1 cid fun c => { c with scratch := (writes.filter (·.scratch)).foldl (fun m w => writeByte m w.addr w.byte) c.scratch }
  let s3 := lines.foldl (fun s l =>
    let r := lineOf s l
    let h := holderOf r (l1Agent cid)
    setLine s l (setHolder r { h with dirty := true, valid := true })) s2
  let s4 := modGroup s3 cid slot fun g => ms.foldl (fun g u =>
    let ops := match (threadOf g u).region with | some q => q.ops | none => []
    let g1 := ops.foldl (fun g op => storeDone op g) g
    modThread { g1 with specIssues := g1.specIssues.filter fun e => !(e.getLsbD u) } u fun th => { th with region := none, wait := .ready }) g
  lines.foldl (fun s l => l1Wrote s cid l fun sl u => sl == slot && ms.contains u) s4

/-- The release wait of a commit is over: its instance gathers its write set (R455). -/
def beginGathering (s : State) (cid slot : Nat) (ms : List Nat) : State :=
  modGroup s cid slot fun g => ms.foldl (fun g u => modThread g u fun th => { th with region := th.region.map fun r => { r with rel := none } }) g

/-- COMMIT_POINT: lane `n2` of slot `n1` of core `n0` stands in its outermost COMMIT.  When every member of its instance does, the release
has waited, and the core holds every token of the write set, all buffered stores are performed in one event (R237, R455, R456, R214). -/
def execCommitPoint (s : State) : Out :=
  let cid := s.args.n0
  let slot := s.args.n1
  let t := s.args.n2
  match groupOf s cid slot with
  | none => .next s
  | some g =>
    match (threadOf g t).region with
    | none => .next s
    | some r =>
      if !r.committing || g.stop.isSome then .next s else
        let ms := commitMembers g t
        let again := fun (s : State) => Host.Outcome.next (due s .commitPoint s.args)
        if !(commitReady s cid slot g ms) then again s else
          match (commitLines g ms).find? fun l => !(mayWrite s (l1Agent cid) l) with
          | some l => again (request (beginGathering s cid slot ms) (l1Agent cid) l .write)
          | none => .next (performCommit s cid slot g ms)

/-- Lane t reaches its commit point if its core holds every token of the write set. -/
def commitLane (s : State) (cid slot t : Nat) : State :=
  match groupOf s cid slot with
  | none => s
  | some g =>
    let th := threadOf g t
    let ms := commitMembers g t
    if th.wait = .commit && (match th.region with | some r => r.committing | none => false) && commitReady s cid slot g ms &&
        (commitLines g ms).all (mayWrite s (l1Agent cid)) then performCommit s cid slot g ms else s

/-- Every group that holds all tokens of the write set it commits reaches its commit point before anything else happens, a halt or a pre-emption among it;
several threads of a group do so in ascending lane order (R205, R455). -/
def serveCommits (s : State) : State :=
  (s.cores.flatMap fun c => c.2.groups.flatMap fun p => ((List.range 32).filter fun t => (threadOf p.2 t).wait = .commit).map fun t => (c.1, p.1, t)).foldl
    (fun s x => commitLane s x.1 x.2.1 x.2.2) s

/-! ## FENCE (R458) -/

/-- fence.SCOPE: no effect in a region at core scope, SCOPE at a wider one; otherwise the threads wait as a release at the scope waits
(R230, R446, R458). -/
def execFence (x : Bool) (c : BitVec 3) (s : State) : Out :=
  issueOn (.fence x c) s fun s e =>
    match issGroup s with
    | none => s
    | some g =>
      let er := regionLanes g e
      let s1 := if c.toNat == 0 then s else abortLanes s s.iss.cid s.iss.slot er 0x0C 0 0#64
      let e1 := stillThere s1 (if c.toNat == 0 then e else e &&& ~~~er)
      onGroup s1 fun g =>
        waitLanes (e1 &&& ~~~(regionLanes g e1)) (.fence c.toNat) (advance s.iss 1 e1 (noteSpec e1 g))

/-! ## Team barriers (R459 to R462) -/

/-- An arriving thread releases at core scope: while an earlier access of a lane is not yet core-visible, the lanes wait and the
instruction issues again (R231, R460). -/
def releaseFirst (s : State) (e : Lanes) (scope : Nat) (k : State → State) : State :=
  if (lanesOf e).all fun t => releaseReady s s.iss.cid s.iss.slot t scope s.ids then k s
  else onGroup s fun g => waitLanes e (.fence scope) g

/-- The team of the issuing group, if it has one. -/
def issTeam (s : State) : Option (Nat × Team) := (issGroup s).bind fun g => (teamOf s g.team).map fun t => (g.team, t)

/-- Count the arrivals of an instruction, which the threads of E make together (R460). -/
def arrive (s : State) (id n k : Nat) : State :=
  modTeam s id fun t => { t with barriers := modNth t.barriers n fun b => { b with arrived := b.arrived + k } }

/-- The barrier of a team. -/
def barrierOf (t : Team) (n : Nat) : Barrier := nth ⟨0, 0, 0#32⟩ t.barriers n

/-- bar.sync #b (R459). -/
def execBarSync (x : Bool) (n : BitVec 3) (s : State) : Out :=
  issueOn (.barSync x n) s fun s e => releaseFirst s e 0 fun s =>
    match issTeam s with
    | none => s
    | some (id, tm) =>
      let (wid, s) := takeId s
      let s1 := onGroup s fun g => waitLanes e (.barrier n.toNat (barrierOf tm n.toNat).phase wid s.iss.pc) (advance s.iss 1 e g)
      barrierCheck (arrive s1 id n.toNat (lanesOf e).length) id n.toNat

/-- bar.arrive d, #b (R459). -/
def execBarArrive (x : Bool) (d : RegIx) (n : BitVec 3) (s : State) : Out :=
  issueOn (.barArrive x d n) s fun s e => releaseFirst s e 0 fun s =>
    match issTeam s with
    | none => s
    | some (id, tm) =>
      let s1 := onGroup s (writeBack s.iss 1 e fun _ _ => [(d.toNat, int32 (barrierOf tm n.toNat).phase)])
      barrierCheck (arrive s1 id n.toNat (lanesOf e).length) id n.toNat

/-- bar.wait a, #b: each thread waits until the phase differs from a (R459). -/
def execBarWait (x : Bool) (a : RegIx) (n : BitVec 3) (s : State) : Out :=
  issueOn (.barWait x a n) s fun s e =>
    match issTeam s with
    | none => s
    | some (_, tm) =>
      let phase := (barrierOf tm n.toNat).phase
      let (wid, s) := takeId s
      onGroup s fun g =>
        (lanesOf e).foldl (fun h t =>
          if srcVal s.iss g t a.toNat = phase then modThread h t fun th => { th with wait := .barrier n.toNat phase wid s.iss.pc } else h)
          (advance s.iss 1 e g)

/-- bar.init: the expected count of a barrier; arrivals already counted stay (R459, R460). -/
def execBarInit (x : Bool) (lit : Word) (s : State) : Out :=
  issueOn (.barInit x lit) s fun s e =>
    match issTeam s with
    | none => s
    | some (id, _) =>
      let n := fieldOf lit 0 3
      let s1 := modTeam s id fun t => { t with barriers := modNth t.barriers n fun b => { b with expected := fieldOf lit 8 9 } }
      barrierCheck (onGroup s1 fun g => advance s.iss 2 e g) id n

/-! ## Convergence registers (R258, R463) -/

/-- Set the member set of a convergence register, unless its signed set is not empty (R258, R463). -/
def setMembers (n : BitVec 3) (members : Group → Lanes → Lanes) (p : State × Lanes) (iss : Issue) : State :=
  let q := operandCheck 0x02 false (fun g _ => if (nth Cv.empty g.cv n.toNat).signed = 0#32 then none else some 0) p
  if q.2 = 0#32 then q.1 else
    onGroup q.1 fun g => advance iss 1 q.2 { g with cv := setNth g.cv n.toNat { Cv.empty with members := members g q.2 } }

/-- cvset cvN (R463). -/
def execCvset (x : Bool) (n : BitVec 3) (s : State) : Out :=
  issueOn (.cvset x n) s fun s e => setMembers n (fun _ e => e) (s, e) s.iss

/-- cvset.mask cvN, a (R463). -/
def execCvsetMask (x : Bool) (a : RegIx) (n : BitVec 3) (s : State) : Out :=
  issueOn (.cvsetMask x a n) s fun s e =>
    setMembers n (fun g e => srcVal s.iss g (lowestLane e) a.toNat &&& liveLanes g) (s, e) s.iss

/-- cvwait cvN: the threads wait until the signed set is empty; a thread that finds it so goes on (R463).  A waiting thread issues the
instruction again once the set is empty. -/
def execCvwait (x : Bool) (n : BitVec 3) (s : State) : Out :=
  issueOn (.cvwait x n) s fun s e =>
    onGroup s fun g =>
      if (nth Cv.empty g.cv n.toNat).signed = 0#32 then advance s.iss 1 e g else waitLanes e (.cv n.toNat) g

/-- cvrd d:d+1, cvN (R463). -/
def execCvrd (x : Bool) (d : RegIx) (n : BitVec 3) (s : State) : Out :=
  compute (.cvrd x d n) s fun g _ =>
    let v := nth Cv.empty g.cv n.toNat
    [(d.toNat, int32 v.members), (d.toNat + 1, int32 v.signed)]

/-! ## Pipes (R464 to R466) -/

/-- A pipe instruction issues: a pipe the gang does not bind, or the wrong end, traps PIPE_ERROR; otherwise its threads wait until the
message has moved, which may be at once. -/
def pipeIssue (i : Instr) (n : Nat) (put : Bool) (s : State) : Out :=
  issueOn i s fun s e =>
    let p := operandCheck 0x0D false (fun g _ =>
      match pipeOf s g n put with
      | none => some 0
      | some (gang, p) => if put && kernelRetired s gang p.consumer then some 0 else none) (s, e)
    if p.2 = 0#32 then p.1 else
      let (op, s1) := beginOp i p.1 p.2 fun _ => 0#64
      servePipes (onGroup s1 fun g => waitLanes p.2 (.op op) (advance s.iss 1 p.2 g))

/-- pipe.put a, pN (R464, R465). -/
def execPipePut (x : Bool) (a : RegIx) (n : BitVec 2) (s : State) : Out := pipeIssue (.pipePut x a n) n.toNat true s

/-- pipe.get d, pN (R464, R465). -/
def execPipeGet (x : Bool) (d : RegIx) (n : BitVec 2) (s : State) : Out := pipeIssue (.pipeGet x d n) n.toNat false s

end Sys2Proof.Machine
end

