-- ==== Sys2Proof/Machine/Dispatch.lean ====
section
/-! DEFINITION.  One arm for each constructor of Instr: the meaning it calls. -/

namespace Sys2Proof.Machine

/-- What an instruction, or a step of the part, does. -/
def exec (i : Instr) (s : State) : Host.Outcome State Fault Refusal :=
  match i with
  | .movB32 x d a => Sys2Proof.Machine.execMovB32 x d a s
  | .movB32Lit x d lit => Sys2Proof.Machine.execMovB32Lit x d lit s
  | .movB64 x d a => Sys2Proof.Machine.execMovB64 x d a s
  | .movS64Lit x d lit => Sys2Proof.Machine.execMovS64Lit x d lit s
  | .iaddS32 x d a b => Sys2Proof.Machine.execIaddS32 x d a b s
  | .iaddS32Imm x d a imm => Sys2Proof.Machine.execIaddS32Imm x d a imm s
  | .iaddS32Lit x d a lit => Sys2Proof.Machine.execIaddS32Lit x d a lit s
  | .isubS32 x d a b => Sys2Proof.Machine.execIsubS32 x d a b s
  | .imulS32 x d a b => Sys2Proof.Machine.execImulS32 x d a b s
  | .imulS32Lit x d a lit => Sys2Proof.Machine.execImulS32Lit x d a lit s
  | .imulhiS32 x d a b => Sys2Proof.Machine.execImulhiS32 x d a b s
  | .imulhiN32 x d a b => Sys2Proof.Machine.execImulhiN32 x d a b s
  | .imadS32 x d a b => Sys2Proof.Machine.execImadS32 x d a b s
  | .iaddS32Sat x d a b => Sys2Proof.Machine.execIaddS32Sat x d a b s
  | .isubS32Sat x d a b => Sys2Proof.Machine.execIsubS32Sat x d a b s
  | .inegS32 x d a => Sys2Proof.Machine.execInegS32 x d a s
  | .iminS32 x d a b => Sys2Proof.Machine.execIminS32 x d a b s
  | .iminN32 x d a b => Sys2Proof.Machine.execIminN32 x d a b s
  | .imaxS32 x d a b => Sys2Proof.Machine.execImaxS32 x d a b s
  | .imaxN32 x d a b => Sys2Proof.Machine.execImaxN32 x d a b s
  | .iabsS32 x d a => Sys2Proof.Machine.execIabsS32 x d a s
  | .andB32 x d a b => Sys2Proof.Machine.execAndB32 x d a b s
  | .andB32Lit x d a lit => Sys2Proof.Machine.execAndB32Lit x d a lit s
  | .orB32 x d a b => Sys2Proof.Machine.execOrB32 x d a b s
  | .orB32Lit x d a lit => Sys2Proof.Machine.execOrB32Lit x d a lit s
  | .xorB32 x d a b => Sys2Proof.Machine.execXorB32 x d a b s
  | .xorB32Lit x d a lit => Sys2Proof.Machine.execXorB32Lit x d a lit s
  | .andnB32 x d a b => Sys2Proof.Machine.execAndnB32 x d a b s
  | .notB32 x d a => Sys2Proof.Machine.execNotB32 x d a s
  | .shlB32 x d a b => Sys2Proof.Machine.execShlB32 x d a b s
  | .shlB32Imm x d a imm => Sys2Proof.Machine.execShlB32Imm x d a imm s
  | .shrN32 x d a b => Sys2Proof.Machine.execShrN32 x d a b s
  | .shrN32Imm x d a imm => Sys2Proof.Machine.execShrN32Imm x d a imm s
  | .shrS32 x d a b => Sys2Proof.Machine.execShrS32 x d a b s
  | .shrS32Imm x d a imm => Sys2Proof.Machine.execShrS32Imm x d a imm s
  | .bfxN32 x d a lit => Sys2Proof.Machine.execBfxN32 x d a lit s
  | .bfxS32 x d a lit => Sys2Proof.Machine.execBfxS32 x d a lit s
  | .bfiB32 x d a lit => Sys2Proof.Machine.execBfiB32 x d a lit s
  | .popcB32 x d a => Sys2Proof.Machine.execPopcB32 x d a s
  | .clzB32 x d a => Sys2Proof.Machine.execClzB32 x d a s
  | .brevB32 x d a => Sys2Proof.Machine.execBrevB32 x d a s
  | .iaddS64 x d a b => Sys2Proof.Machine.execIaddS64 x d a b s
  | .iaddS64Lit x d a lit => Sys2Proof.Machine.execIaddS64Lit x d a lit s
  | .isubS64 x d a b => Sys2Proof.Machine.execIsubS64 x d a b s
  | .leaS32 x d a b lit => Sys2Proof.Machine.execLeaS32 x d a b lit s
  | .leaN32 x d a b lit => Sys2Proof.Machine.execLeaN32 x d a b lit s
  | .shlB64 x d a imm => Sys2Proof.Machine.execShlB64 x d a imm s
  | .shrN64 x d a imm => Sys2Proof.Machine.execShrN64 x d a imm s
  | .shrS64 x d a imm => Sys2Proof.Machine.execShrS64 x d a imm s
  | .imulwS32 x d a b => Sys2Proof.Machine.execImulwS32 x d a b s
  | .imulwN32 x d a b => Sys2Proof.Machine.execImulwN32 x d a b s
  | .icmpS32 x c d a b => Sys2Proof.Machine.execIcmpS32 x c d a b s
  | .icmpN32 x c d a b => Sys2Proof.Machine.execIcmpN32 x c d a b s
  | .icmpS32Lit x c d a lit => Sys2Proof.Machine.execIcmpS32Lit x c d a lit s
  | .selB32 x d a b => Sys2Proof.Machine.execSelB32 x d a b s
  | .selB64 x d a b => Sys2Proof.Machine.execSelB64 x d a b s
  | .icmpEqB64 x d a b => Sys2Proof.Machine.execIcmpEqB64 x d a b s
  | .icmpLtS64 x d a b => Sys2Proof.Machine.execIcmpLtS64 x d a b s
  | .icmpLtN64 x d a b => Sys2Proof.Machine.execIcmpLtN64 x d a b s
  | .voteBallot x d a => Sys2Proof.Machine.execVoteBallot x d a s
  | .voteAny x d a => Sys2Proof.Machine.execVoteAny x d a s
  | .voteAll x d a => Sys2Proof.Machine.execVoteAll x d a s
  | .shflIdx x d a b => Sys2Proof.Machine.execShflIdx x d a b s
  | .shflUp x d a b => Sys2Proof.Machine.execShflUp x d a b s
  | .shflDown x d a b => Sys2Proof.Machine.execShflDown x d a b s
  | .shflXor x d a b => Sys2Proof.Machine.execShflXor x d a b s
  | .shflDownImm x d a imm => Sys2Proof.Machine.execShflDownImm x d a imm s
  | .shflXorImm x d a imm => Sys2Proof.Machine.execShflXorImm x d a imm s
  | .matchB32 x d a => Sys2Proof.Machine.execMatchB32 x d a s
  | .gred x d a o => Sys2Proof.Machine.execGred x d a o s
  | .reorder x d a => Sys2Proof.Machine.execReorder x d a s
  | .reggrow x d n => Sys2Proof.Machine.execReggrow x d n s
  | .regshrink x d n => Sys2Proof.Machine.execRegshrink x d n s
  | .movxRd x d a => Sys2Proof.Machine.execMovxRd x d a s
  | .movxWr x d a => Sys2Proof.Machine.execMovxWr x d a s
  | .movxRdB64 x d a => Sys2Proof.Machine.execMovxRdB64 x d a s
  | .movxWrB64 x d a => Sys2Proof.Machine.execMovxWrB64 x d a s
  | .faddF32 x r d a b => Sys2Proof.Machine.execFaddF32 x r d a b s
  | .fsubF32 x r d a b => Sys2Proof.Machine.execFsubF32 x r d a b s
  | .fmulF32 x r d a b => Sys2Proof.Machine.execFmulF32 x r d a b s
  | .ffmaF32 x r d a b => Sys2Proof.Machine.execFfmaF32 x r d a b s
  | .fminF32 x d a b => Sys2Proof.Machine.execFminF32 x d a b s
  | .fmaxF32 x d a b => Sys2Proof.Machine.execFmaxF32 x d a b s
  | .fnegF32 x d a => Sys2Proof.Machine.execFnegF32 x d a s
  | .fabsF32 x d a => Sys2Proof.Machine.execFabsF32 x d a s
  | .fcmpF32 x c d a b => Sys2Proof.Machine.execFcmpF32 x c d a b s
  | .fcmpUnordF32 x d a b => Sys2Proof.Machine.execFcmpUnordF32 x d a b s
  | .fclassF32 x d a => Sys2Proof.Machine.execFclassF32 x d a s
  | .faddF32Lit x d a lit => Sys2Proof.Machine.execFaddF32Lit x d a lit s
  | .fmulF32Lit x d a lit => Sys2Proof.Machine.execFmulF32Lit x d a lit s
  | .fgredAddF32 x d a => Sys2Proof.Machine.execFgredAddF32 x d a s
  | .fgredMinF32 x d a => Sys2Proof.Machine.execFgredMinF32 x d a s
  | .fgredMaxF32 x d a => Sys2Proof.Machine.execFgredMaxF32 x d a s
  | .frintF32 x r d a => Sys2Proof.Machine.execFrintF32 x r d a s
  | .hadd x f d a b => Sys2Proof.Machine.execHadd x f d a b s
  | .hsub x f d a b => Sys2Proof.Machine.execHsub x f d a b s
  | .hmul x f d a b => Sys2Proof.Machine.execHmul x f d a b s
  | .hfma x f d a b => Sys2Proof.Machine.execHfma x f d a b s
  | .hmin x f d a b => Sys2Proof.Machine.execHmin x f d a b s
  | .hmax x f d a b => Sys2Proof.Machine.execHmax x f d a b s
  | .hneg x f d a => Sys2Proof.Machine.execHneg x f d a s
  | .habs x f d a => Sys2Proof.Machine.execHabs x f d a s
  | .rcpF32 x d a r => Sys2Proof.Machine.execRcpF32 x d a r s
  | .sqrtF32 x d a r => Sys2Proof.Machine.execSqrtF32 x d a r s
  | .rsqF32 x d a r => Sys2Proof.Machine.execRsqF32 x d a r s
  | .exp2F32 x d a r => Sys2Proof.Machine.execExp2F32 x d a r s
  | .log2F32 x d a r => Sys2Proof.Machine.execLog2F32 x d a r s
  | .sinF32 x d a r => Sys2Proof.Machine.execSinF32 x d a r s
  | .cosF32 x d a r => Sys2Proof.Machine.execCosF32 x d a r s
  | .cvt x d a lit => Sys2Proof.Machine.execCvt x d a lit s
  | .packMx x f d a lit => Sys2Proof.Machine.execPackMx x f d a lit s
  | .unpackMx x f d a lit => Sys2Proof.Machine.execUnpackMx x f d a lit s
  | .packAq4 x d a b lit => Sys2Proof.Machine.execPackAq4 x d a b lit s
  | .unpackAq4 x d a b lit => Sys2Proof.Machine.execUnpackAq4 x d a b lit s
  | .tag x d a k => Sys2Proof.Machine.execTag x d a k s
  | .rdtag x d a => Sys2Proof.Machine.execRdtag x d a s
  | .ld x d a z => Sys2Proof.Machine.execLd x d a z s
  | .ldLit x d a p m z lit => Sys2Proof.Machine.execLdLit x d a p m z lit s
  | .ldSpec x d a z => Sys2Proof.Machine.execLdSpec x d a z s
  | .ldSpecLit x d a p m z lit => Sys2Proof.Machine.execLdSpecLit x d a p m z lit s
  | .st x d a z => Sys2Proof.Machine.execSt x d a z s
  | .stLit x d a p m z lit => Sys2Proof.Machine.execStLit x d a p m z lit s
  | .ldFmt x d a k z => Sys2Proof.Machine.execLdFmt x d a k z s
  | .ldAcq x d a c z => Sys2Proof.Machine.execLdAcq x d a c z s
  | .stRel x d a c z => Sys2Proof.Machine.execStRel x d a c z s
  | .lds x d a z => Sys2Proof.Machine.execLds x d a z s
  | .ldsLit x d a p m z lit => Sys2Proof.Machine.execLdsLit x d a p m z lit s
  | .ldsWait x d a z => Sys2Proof.Machine.execLdsWait x d a z s
  | .ldsWaitLit x d a p m z lit => Sys2Proof.Machine.execLdsWaitLit x d a p m z lit s
  | .ldsWaitClr x d a z => Sys2Proof.Machine.execLdsWaitClr x d a z s
  | .ldsWaitClrLit x d a p m z lit => Sys2Proof.Machine.execLdsWaitClrLit x d a p m z lit s
  | .sts x d a z => Sys2Proof.Machine.execSts x d a z s
  | .stsLit x d a p m z lit => Sys2Proof.Machine.execStsLit x d a p m z lit s
  | .stsSet x d a z => Sys2Proof.Machine.execStsSet x d a z s
  | .stsSetLit x d a p m z lit => Sys2Proof.Machine.execStsSetLit x d a p m z lit s
  | .ldsFmt x d a k z => Sys2Proof.Machine.execLdsFmt x d a k z s
  | .ldsWaitFmt x d a k z => Sys2Proof.Machine.execLdsWaitFmt x d a k z s
  | .prefetch x a => Sys2Proof.Machine.execPrefetch x a s
  | .prefetchLit x a p m lit => Sys2Proof.Machine.execPrefetchLit x a p m lit s
  | .prefetchW x a => Sys2Proof.Machine.execPrefetchW x a s
  | .prefetchWLit x a p m lit => Sys2Proof.Machine.execPrefetchWLit x a p m lit s
  | .evict x a => Sys2Proof.Machine.execEvict x a s
  | .tlbinvVa x a => Sys2Proof.Machine.execTlbinvVa x a s
  | .tlbinvAll x => Sys2Proof.Machine.execTlbinvAll x s
  | .copyG2s x d a b => Sys2Proof.Machine.execCopyG2s x d a b s
  | .copyS2g x d a b => Sys2Proof.Machine.execCopyS2g x d a b s
  | .copyG2g x d a b => Sys2Proof.Machine.execCopyG2g x d a b s
  | .gather x d a b lit => Sys2Proof.Machine.execGather x d a b lit s
  | .scatter x d a b lit => Sys2Proof.Machine.execScatter x d a b lit s
  | .modset x n a b => Sys2Proof.Machine.execModset x n a b s
  | .modrd x d n => Sys2Proof.Machine.execModrd x d n s
  | .atom32 x o d a b => Sys2Proof.Machine.execAtom32 x o d a b s
  | .atomCasB32 x d a b => Sys2Proof.Machine.execAtomCasB32 x d a b s
  | .atom64 x o d a b => Sys2Proof.Machine.execAtom64 x o d a b s
  | .atomCasB64 x d a b => Sys2Proof.Machine.execAtomCasB64 x d a b s
  | .redAddS32 x a b => Sys2Proof.Machine.execRedAddS32 x a b s
  | .redAddS64 x a b => Sys2Proof.Machine.execRedAddS64 x a b s
  | .redAddF32 x a b => Sys2Proof.Machine.execRedAddF32 x a b s
  | .redAddBf16x2 x a b => Sys2Proof.Machine.execRedAddBf16x2 x a b s
  | .redAtomic x o a b => Sys2Proof.Machine.execRedAtomic x o a b s
  | .tryLane x d lit => Sys2Proof.Machine.execTryLane x d lit s
  | .tryGroup x d lit => Sys2Proof.Machine.execTryGroup x d lit s
  | .commit x => Sys2Proof.Machine.execCommit x s
  | .commitRel x c => Sys2Proof.Machine.execCommitRel x c s
  | .abort x lit => Sys2Proof.Machine.execAbort x lit s
  | .tstat x d => Sys2Proof.Machine.execTstat x d s
  | .fence x c => Sys2Proof.Machine.execFence x c s
  | .barSync x n => Sys2Proof.Machine.execBarSync x n s
  | .barArrive x d n => Sys2Proof.Machine.execBarArrive x d n s
  | .barWait x a n => Sys2Proof.Machine.execBarWait x a n s
  | .barInit x lit => Sys2Proof.Machine.execBarInit x lit s
  | .cvset x n => Sys2Proof.Machine.execCvset x n s
  | .cvsetMask x a n => Sys2Proof.Machine.execCvsetMask x a n s
  | .cvwait x n => Sys2Proof.Machine.execCvwait x n s
  | .cvrd x d n => Sys2Proof.Machine.execCvrd x d n s
  | .pipePut x a n => Sys2Proof.Machine.execPipePut x a n s
  | .pipeGet x d n => Sys2Proof.Machine.execPipeGet x d n s
  | .qsig x c a b => Sys2Proof.Machine.execQsig x c a b s
  | .qwait x d a b => Sys2Proof.Machine.execQwait x d a b s
  | .mma x d a b lit => Sys2Proof.Machine.execMma x d a b lit s
  | .mmaSp x d a b lit => Sys2Proof.Machine.execMmaSp x d a b lit s
  | .mrsv x d n => Sys2Proof.Machine.execMrsv x d n s
  | .mrel x n => Sys2Proof.Machine.execMrel x n s
  | .mrdF32 x d c n => Sys2Proof.Machine.execMrdF32 x d c n s
  | .mrdS32 x d c n => Sys2Proof.Machine.execMrdS32 x d c n s
  | .mwr x a c n => Sys2Proof.Machine.execMwr x a c n s
  | .mzero x n => Sys2Proof.Machine.execMzero x n s
  | .trace x d a b lit => Sys2Proof.Machine.execTrace x d a b lit s
  | .traceEmit x d a b lit => Sys2Proof.Machine.execTraceEmit x d a b lit s
  | .asbuild x d a n => Sys2Proof.Machine.execAsbuild x d a n s
  | .asbuildUpdate x d a n => Sys2Proof.Machine.execAsbuildUpdate x d a n s
  | .asrefit x d a n => Sys2Proof.Machine.execAsrefit x d a n s
  | .asretire x d a n => Sys2Proof.Machine.execAsretire x d a n s
  | .launch x d a => Sys2Proof.Machine.execLaunch x d a s
  | .emit x a b => Sys2Proof.Machine.execEmit x a b s
  | .bra x lit => Sys2Proof.Machine.execBra x lit s
  | .exit x => Sys2Proof.Machine.execExit x s
  | .brz x a lit => Sys2Proof.Machine.execBrz x a lit s
  | .brnz x a lit => Sys2Proof.Machine.execBrnz x a lit s
  | .call x d lit => Sys2Proof.Machine.execCall x d lit s
  | .ret x a => Sys2Proof.Machine.execRet x a s
  | .callr x d a => Sys2Proof.Machine.execCallr x d a s
  | .yield x => Sys2Proof.Machine.execYield x s
  | .rdsys x d imm => Sys2Proof.Machine.execRdsys x d imm s
  | .trap x imm => Sys2Proof.Machine.execTrap x imm s
  | .bkpt x => Sys2Proof.Machine.execBkpt x s
  | .nopFill x => Sys2Proof.Machine.execNopFill x s
  | .rett x d a => Sys2Proof.Machine.execRett x d a s
  | .grd x d a => Sys2Proof.Machine.execGrd x d a s
  | .gwr x d a => Sys2Proof.Machine.execGwr x d a s
  | .evwait x d => Sys2Proof.Machine.execEvwait x d s
  | .unallocatedOpcode word => Sys2Proof.Machine.execUnallocatedOpcode word s
  | .powerOnReset => Sys2Proof.Machine.execPowerOnReset s
  | .selfTestComplete => Sys2Proof.Machine.execSelfTestComplete s
  | .bootVerify => Sys2Proof.Machine.execBootVerify s
  | .viaductFailure => Sys2Proof.Machine.execViaductFailure s
  | .thermalThrottle => Sys2Proof.Machine.execThermalThrottle s
  | .thermalTrip => Sys2Proof.Machine.execThermalTrip s
  | .clockThrottleStep => Sys2Proof.Machine.execClockThrottleStep s
  | .powerLimitSet => Sys2Proof.Machine.execPowerLimitSet s
  | .telemetryRequest => Sys2Proof.Machine.execTelemetryRequest s
  | .firmwareUpdate => Sys2Proof.Machine.execFirmwareUpdate s
  | .firmwareActivate => Sys2Proof.Machine.execFirmwareActivate s
  | .ownershipNonce => Sys2Proof.Machine.execOwnershipNonce s
  | .releaseMessage => Sys2Proof.Machine.execReleaseMessage s
  | .releaseEraseComplete => Sys2Proof.Machine.execReleaseEraseComplete s
  | .claimMessage => Sys2Proof.Machine.execClaimMessage s
  | .ownerKeyAdd => Sys2Proof.Machine.execOwnerKeyAdd s
  | .ownerKeyRemove => Sys2Proof.Machine.execOwnerKeyRemove s
  | .svnFuseBlow => Sys2Proof.Machine.execSvnFuseBlow s
  | .debugUnlock => Sys2Proof.Machine.execDebugUnlock s
  | .ownerDigestExtend => Sys2Proof.Machine.execOwnerDigestExtend s
  | .getVersion => Sys2Proof.Machine.execGetVersion s
  | .getCapabilities => Sys2Proof.Machine.execGetCapabilities s
  | .negotiateAlgorithms => Sys2Proof.Machine.execNegotiateAlgorithms s
  | .getDigests => Sys2Proof.Machine.execGetDigests s
  | .getCertificate => Sys2Proof.Machine.execGetCertificate s
  | .challenge => Sys2Proof.Machine.execChallenge s
  | .getMeasurements => Sys2Proof.Machine.execGetMeasurements s
  | .keyExchange => Sys2Proof.Machine.execKeyExchange s
  | .finish => Sys2Proof.Machine.execFinish s
  | .sriovVfEnable => Sys2Proof.Machine.execSriovVfEnable s
  | .sriovVfDisable => Sys2Proof.Machine.execSriovVfDisable s
  | .peerPortStateChange => Sys2Proof.Machine.execPeerPortStateChange s
  | .hostSnoop => Sys2Proof.Machine.execHostSnoop s
  | .hostMemAccess => Sys2Proof.Machine.execHostMemAccess s
  | .bisnpResponse => Sys2Proof.Machine.execBisnpResponse s
  | .hqFnCfgWrite => Sys2Proof.Machine.execHqFnCfgWrite s
  | .queueEnable => Sys2Proof.Machine.execQueueEnable s
  | .queueDisable => Sys2Proof.Machine.execQueueDisable s
  | .cqEnable => Sys2Proof.Machine.execCqEnable s
  | .cqDisable => Sys2Proof.Machine.execCqDisable s
  | .cqIrqEnSet => Sys2Proof.Machine.execCqIrqEnSet s
  | .cqIrqEnClear => Sys2Proof.Machine.execCqIrqEnClear s
  | .notify => Sys2Proof.Machine.execNotify s
  | .cqHeadWrite => Sys2Proof.Machine.execCqHeadWrite s
  | .faultRingEnable => Sys2Proof.Machine.execFaultRingEnable s
  | .faultRingDisable => Sys2Proof.Machine.execFaultRingDisable s
  | .faultHeadWrite => Sys2Proof.Machine.execFaultHeadWrite s
  | .faultResumeRetry => Sys2Proof.Machine.execFaultResumeRetry s
  | .faultResumeAbort => Sys2Proof.Machine.execFaultResumeAbort s
  | .plCfgWrite => Sys2Proof.Machine.execPlCfgWrite s
  | .swapGo => Sys2Proof.Machine.execSwapGo s
  | .debugAttach => Sys2Proof.Machine.execDebugAttach s
  | .haltRequest => Sys2Proof.Machine.execHaltRequest s
  | .haltRelease => Sys2Proof.Machine.execHaltRelease s
  | .debugStep => Sys2Proof.Machine.execDebugStep s
  | .traceStatusClear => Sys2Proof.Machine.execTraceStatusClear s
  | .cyclesRead => Sys2Proof.Machine.execCyclesRead s
  | .registerWrite => Sys2Proof.Machine.execRegisterWrite s
  | .recordClaim => Sys2Proof.Machine.execRecordClaim s
  | .recordStart => Sys2Proof.Machine.execRecordStart s
  | .launchGrid => Sys2Proof.Machine.execLaunchGrid s
  | .launchGang => Sys2Proof.Machine.execLaunchGang s
  | .launchPool => Sys2Proof.Machine.execLaunchPool s
  | .signalToken => Sys2Proof.Machine.execSignalToken s
  | .waitToken => Sys2Proof.Machine.execWaitToken s
  | .waitTokenRecheck => Sys2Proof.Machine.execWaitTokenRecheck s
  | .waitTokenPoll => Sys2Proof.Machine.execWaitTokenPoll s
  | .waitTokenTimeout => Sys2Proof.Machine.execWaitTokenTimeout s
  | .copy => Sys2Proof.Machine.execCopy s
  | .asidRoot => Sys2Proof.Machine.execAsidRoot s
  | .queuePriority => Sys2Proof.Machine.execQueuePriority s
  | .watchdogDefault => Sys2Proof.Machine.execWatchdogDefault s
  | .ageLimit => Sys2Proof.Machine.execAgeLimit s
  | .queueStop => Sys2Proof.Machine.execQueueStop s
  | .nopFence => Sys2Proof.Machine.execNopFence s
  | .launchComplete => Sys2Proof.Machine.execLaunchComplete s
  | .completionEntryRetry => Sys2Proof.Machine.execCompletionEntryRetry s
  | .cqTimerExpiry => Sys2Proof.Machine.execCqTimerExpiry s
  | .mappingPass => Sys2Proof.Machine.execMappingPass s
  | .placementRecordArrival => Sys2Proof.Machine.execPlacementRecordArrival s
  | .placementPass => Sys2Proof.Machine.execPlacementPass s
  | .phaseTableUpdate => Sys2Proof.Machine.execPhaseTableUpdate s
  | .poolRecordDeliver => Sys2Proof.Machine.execPoolRecordDeliver s
  | .binAgeExpiry => Sys2Proof.Machine.execBinAgeExpiry s
  | .overflowRingReturn => Sys2Proof.Machine.execOverflowRingReturn s
  | .poolOverflowExpiry => Sys2Proof.Machine.execPoolOverflowExpiry s
  | .groupExit => Sys2Proof.Machine.execGroupExit s
  | .loadComplete => Sys2Proof.Machine.execLoadComplete s
  | .storePerform => Sys2Proof.Machine.execStorePerform s
  | .matrixPass => Sys2Proof.Machine.execMatrixPass s
  | .transferBurst => Sys2Proof.Machine.execTransferBurst s
  | .nodeVisit => Sys2Proof.Machine.execNodeVisit s
  | .fenceRecheck => Sys2Proof.Machine.execFenceRecheck s
  | .fencePoll => Sys2Proof.Machine.execFencePoll s
  | .builderTask => Sys2Proof.Machine.execBuilderTask s
  | .topNodeRewrite => Sys2Proof.Machine.execTopNodeRewrite s
  | .refitNode => Sys2Proof.Machine.execRefitNode s
  | .compactorBlock => Sys2Proof.Machine.execCompactorBlock s
  | .preemptStop => Sys2Proof.Machine.execPreemptStop s
  | .stoppingUnitReached => Sys2Proof.Machine.execStoppingUnitReached s
  | .contextImageWritten => Sys2Proof.Machine.execContextImageWritten s
  | .contextRestore => Sys2Proof.Machine.execContextRestore s
  | .trapResolution => Sys2Proof.Machine.execTrapResolution s
  | .faultEntryRetry => Sys2Proof.Machine.execFaultEntryRetry s
  | .faultTimeout => Sys2Proof.Machine.execFaultTimeout s
  | .watchdogExpiry => Sys2Proof.Machine.execWatchdogExpiry s
  | .haltTimeout => Sys2Proof.Machine.execHaltTimeout s
  | .eventTick => Sys2Proof.Machine.execEventTick s
  | .pageWalk => Sys2Proof.Machine.execPageWalk s
  | .swapLine => Sys2Proof.Machine.execSwapLine s
  | .swapMigAccess => Sys2Proof.Machine.execSwapMigAccess s
  | .transientRequest => Sys2Proof.Machine.execTransientRequest s
  | .forwardedRequest => Sys2Proof.Machine.execForwardedRequest s
  | .tokenMessage => Sys2Proof.Machine.execTokenMessage s
  | .attemptTimeout => Sys2Proof.Machine.execAttemptTimeout s
  | .arb => Sys2Proof.Machine.execArb s
  | .grant => Sys2Proof.Machine.execGrant s
  | .handoff => Sys2Proof.Machine.execHandoff s
  | .activate => Sys2Proof.Machine.execActivate s
  | .deactivate => Sys2Proof.Machine.execDeactivate s
  | .persistentReport => Sys2Proof.Machine.execPersistentReport s
  | .eviction => Sys2Proof.Machine.execEviction s
  | .drainWrite => Sys2Proof.Machine.execDrainWrite s
  | .partialCombine => Sys2Proof.Machine.execPartialCombine s
  | .census => Sys2Proof.Machine.execCensus s
  | .censusHoldExpiry => Sys2Proof.Machine.execCensusHoldExpiry s
  | .reggrowGrant => Sys2Proof.Machine.execReggrowGrant s
  | .reorderComplete => Sys2Proof.Machine.execReorderComplete s
  | .commitPoint => Sys2Proof.Machine.execCommitPoint s
  | .traceSample => Sys2Proof.Machine.execTraceSample s
  | .gapRecord => Sys2Proof.Machine.execGapRecord s
  | .powerLoss => Sys2Proof.Machine.execPowerLoss s
  | .peerAccess => Sys2Proof.Machine.execPeerAccess s
  | .hostLineObtained => Sys2Proof.Machine.execHostLineObtained s
  | .qwaitReread => Sys2Proof.Machine.execQwaitReread s
  | .hostLinkTraining => Sys2Proof.Machine.execHostLinkTraining s
  | .dynamicAddressAssignment => Sys2Proof.Machine.execDynamicAddressAssignment s

end Sys2Proof.Machine
end

