-- ==== Sys2Proof/Machine/Issue.lean ====
section
/-! DEFINITION.  Instruction issue: which group of a core issues, which threads of it, fetching the clause header and the words, the checks before
an instruction executes, the register interlocks, and the replay queue (R126 to R130, R140, R154, R333 to R341, R350 to R352, R436). -/

namespace Sys2Proof.Machine

/-! ## Flags and opcodes -/

/-- The instruction is attached to the flag its clause names (R335). -/
def holdsFlag (i : Instr) : Bool := !(flagUse i = .unattached)

/-- Fields of a clause header (R333): YIELD. -/
def headerYield (w : Word) : Bool := w.getLsbD 4
/-- WAIT as a number. -/
def waitMask (w : Word) : Nat := (headerWait w).toNat
/-- Step 1 of R351. -/
def headerLegal (w : Word) : Bool := !(headerCount w == 0) && fieldOf w 0 4 == 0

/-- The opcodes that abort a region with FORBIDDEN, whatever their fields (R390, R437, R446, R450). -/
def opForbidden (op : Nat) : Bool :=
  [0x06b, 0x070, 0x071, 0x192, 0x193, 0x194, 0x195, 0x198, 0x199, 0x19b, 0x1c0, 0x300, 0x301, 0x320, 0x321, 0x381, 0x3c1, 0x3c2].contains op ||
  (0x1b0 ≤ op && op ≤ 0x1b4) || (0x251 ≤ op && op ≤ 0x254) || (0x260 ≤ op && op ≤ 0x265) || (0x270 ≤ op && op ≤ 0x271) ||
  (0x280 ≤ op && op ≤ 0x281) || (0x2c0 ≤ op && op ≤ 0x2c5) || (0x310 ≤ op && op ≤ 0x313) || (0x3e0 ≤ op && op ≤ 0x3e3)

/-! ## Waking (R440) -/

/-- A thread whose wait is over is ready.  A FENCE awaits all that its thread has issued, what waits to be replayed among it (R230, R154). -/
def wakeThread (s : State) (cid slot : Nat) (g : Group) (t : Nat) (th : Thread) : Thread :=
  let p := pierNo cid
  let ended := match th.wait with
    | .op id => (opOf g id).isNone
    | .cv n => (nth Cv.empty g.cv n).signed = 0#32
    | .fence scope => releaseReady s cid slot t scope s.ids && replayed g t
    | .matrixTable => (pierOf s p).table.length < 16
    | .latch => heldLatches s p < 8
    | .tileTable .. => (pierOf s p).table.length < 16
    | .stream gather _ _ _ => (if gather then (pierOf s p).gathers else (pierOf s p).copies).length < 16
    | _ => false
  if ended then { th with wait := .ready } else th

/-- Wake the threads of one group. -/
def wakeGroup (s : State) (cid slot : Nat) (g : Group) : Group :=
  if g.stop.isSome then g else { g with threads := g.threads.mapIdx fun t th => wakeThread s cid slot g t th }

/-! ## The choice of threads (R130) -/

/-- A ready thread. -/
def readyThread (th : Thread) : Bool := !th.exited && th.wait = .ready && !th.held

/-- Ready lanes of a group. -/
def readyLanes (g : Group) : List Nat := (List.range 32).filter fun t => readyThread (threadOf g t)

/-- The lane whose PC is chosen: of those passed over 64 times the one passed over most often, the lowest among equals; else the lowest PC among those
without a YIELD mark, unless all have one. -/
def chooseLane (g : Group) : Option Nat :=
  let rs := readyLanes g
  let starved := rs.filter fun t => 64 ≤ (threadOf g t).passed
  match (sortBy (fun (a b : Nat) => (threadOf g b).passed ≤ (threadOf g a).passed) starved).head? with
  | some t => some t
  | none =>
    let plain := rs.filter fun t => !(threadOf g t).yielded
    let from_ := if plain.isEmpty then rs else plain
    (sortBy (fun (a b : Nat) => (threadOf g a).pc.toNat ≤ (threadOf g b).pc.toNat) from_).head?

/-- E: the ready threads at the PC of the chosen one, whose clause they all execute (R130, log entry 10). -/
def sharers (g : Group) (t : Nat) : Lanes := laneSet ((readyLanes g).filter fun u => (threadOf g u).pc = (threadOf g t).pc)

/-! ## Fetch (R176, R352) -/

/-- How an attempt to issue ends: an issue, or a group that cannot issue now. -/
inductive Tried where
  | issued (o : Out)
  | blocked (s : State)

/-- How a fetch ends. -/
inductive Fetched where
  | word (w : Word) (s : State)
  | wait (s : State)
  | fault (subtype level : Nat)
  | poison
  | down

/-- The word at a place that a translation gives, read by the core as its loads are, with a token of the line (R191, log entry 62); a fetch waits for no
buffered store. -/
def fetchAt (s : State) (cid : Nat) (e : TlbEntry) (va : Nat) : Fetched :=
  match readPhys s (l1Agent cid) cid (pteHome e.leaf == 3) (placeOf s e va) 4 fun _ => true with
  | .bytes b s1 => .word (BitVec.ofNat 32 (leNat b)) s1
  | .wait s1 => .wait s1
  | .fault a b => .fault a b
  | .poison => .poison
  | .down _ => .down

/-- Fetch one word for a group, through the L1 TLB or a walk. -/
def fetchWord (s : State) (cid : Nat) (g : Group) (pc : Dword) : Fetched :=
  let va := pc.toNat
  let fn := fnOfGroup s g
  match lookTlb s cid (asidOf s g) fn va .execute g.supervisor with
  | .hit e => fetchAt (touchTlb s cid e) cid e va
  | .fault a b => .fault a b
  | _ =>
    match walkFill s cid (asidOf s g) fn va .execute g.supervisor with
    | (.hit e, s1) => fetchAt s1 cid e va
    | (.direct e, s1) => fetchAt (endDirect s1 cid e) cid e va
    | (.fault a b, _) => .fault a b
    | (.unreadable, _) => .poison
    | (.miss, s1) => .wait s1

/-- Lanes in a region abort with FAULT; the others of a set are left (R353, R447). -/
def softAbort (s : State) (cid slot : Nat) (e : Lanes) (code : Nat) (va : Dword) : State × Lanes :=
  match groupOf s cid slot with
  | none => (s, 0#32)
  | some g =>
    let er := regionLanes g e
    let s1 := abortLanes s cid slot er 6 code va
    match groupOf s1 cid slot with
    | none => (s1, 0#32)
    | some h => (s1, laneSet ((lanesOf (e &&& ~~~er)).filter fun t => (threadOf h t).pc = (threadOf g t).pc))

/-- A fetch that faults raises PAGE_FAULT for its threads, with access kind execute (R156, R352). -/
def fetchFault (s : State) (cid slot : Nat) (e : Lanes) (va : Dword) (sub lvl : Nat) : State :=
  let p := softAbort s cid slot e 8 va
  if p.2 = 0#32 then p.1 else
    let s1 := stopGroup p.1 cid slot (faultStop sub lvl va.toNat p.2)
    raiseAll s1 cid slot 0 [(va.toNat, sub, lvl, .execute)]

/-- ECC_UNCORRECTABLE or ENGINE_FAULT for the threads of E: a region aborts and takes no trap (R447). -/
def softTrap (s : State) (cid slot : Nat) (e : Lanes) (code : Nat) (va : Dword) : State :=
  let p := softAbort s cid slot e code va
  if p.2 = 0#32 then p.1 else takeTrap p.1 cid slot code va.toNat p.2

/-- Go on with a fetched word, or end the attempt. -/
def withWord (s : State) (cid slot : Nat) (g : Group) (e : Lanes) (pc : Dword) (k : Word → State → Tried) : Tried :=
  match fetchWord s cid g pc with
  | .word w s1 => k w s1
  | .wait s1 => .blocked s1
  | .fault a b => .issued (.next (fetchFault s cid slot e pc a b))
  | .poison => .issued (.next (softTrap s cid slot e 0x12 pc))
  | .down => .issued (.next (softTrap s cid slot e 0x13 pc))

/-! ## Interlocks (R140, R152, R256, R336) -/

/-- An instruction that holds back a further one while it is unfinished: one that has been sent and writes no register is finished (R140). -/
def unfinished (o : Op) : Bool := !(o.sent && (destRegs o.instr).isEmpty)

/-- REORDER, whose arrivals count as one unfinished instruction of the group. -/
def isReorder : Instr → Bool
  | .reorder .. => true
  | _ => false

/-- Unfinished instructions of a group. -/
def unfinishedCount (g : Group) : Nat :=
  let us := g.ops.filter unfinished
  (us.filter fun o => !(isReorder o.instr)).length + (if us.any fun o => isReorder o.instr then 1 else 0)

/-- An instruction waits for what writes a register, whichever lanes that is for: an indexed move for any (R382), a REGSHRINK for those it discards
(R381). -/
def awaits (i : Instr) (v : Nat) : Bool :=
  match i with
  | .movxRd .. => true
  | .movxWr .. => true
  | .movxRdB64 .. => true
  | .movxWrB64 .. => true
  | .regshrink _ _ n => 8 * n.toNat ≤ v
  | _ => false

/-- An instruction that may write any register of its threads. -/
def writesAny : Instr → Bool
  | .movxWr .. => true
  | .movxWrB64 .. => true
  | _ => false

/-- The scale and metadata registers an MMA may read (R475). -/
def mmaExtra : Instr → List Nat
  | .mma _ _ _ b lit => if mmaMode lit == 0 then [] else regSpan (b.toNat, 16)
  | .mmaSp _ _ _ b lit => (if mmaMode lit == 0 then [] else regSpan (b.toNat, 16)) ++ regSpan (mmaMeta lit, 16)
  | _ => []

/-- A scratchpad store is performed when it issues. -/
def storesScratch (i : Instr) : Bool := match accessOf i with | some a => a.scratch && a.kind = .write | none => false

/-- A scratchpad access. -/
def usesScratch (i : Instr) : Bool := match accessOf i with | some a => a.scratch | none => false

/-- An unfinished instruction holds back a scratchpad store of its lanes: an acquire, another access to the scratchpad, or what may still trap (R224,
R228, R236). -/
def holdsStore (i : Instr) (e : Lanes) (o : Op) : Bool :=
  storesScratch i && !(o.todo &&& e = 0#32) && (isAcquire o || usesScratch o.instr || mayTrap o)

/-- An instruction of the lanes E must wait for an unfinished one of its group: for the registers it reads or writes, and not to change the registers
that a replay of the other would read (R152, R336). -/
def waitsFor (i : Instr) (e : Lanes) (o : Op) : Bool :=
  ((destRegs o.instr).any fun v => awaits i v || (namedRegs i ++ mmaExtra i).contains v) || holdsStore i e o ||
  (!o.sent && 6 < (captureOrder o.instr).length && (writesAny i || (destRegs i).any fun v => (captureOrder o.instr).contains v))

/-- An instruction cannot issue yet. -/
def interlocked (g : Group) (i : Instr) (e : Lanes) (flag : Nat) : Bool :=
  8 ≤ unfinishedCount g || (flag < 12 && 64 ≤ (nth ⟨0, none⟩ g.flags flag).count) || g.ops.any (waitsFor i e)

/-! ## The issue -/

/-- Count a busy cycle for the phase of an issuing group, once a cycle, while the phase table is enabled (R114, R116). -/
def countBusy (s : State) (cid : Nat) (g : Group) (cyc : Nat) : State :=
  if !((placerOf s (cid / 128)).phaseBase.getLsbD 63) then s else
    match phaseOf s g with
    | none => s
    | some n =>
      if find? (coreOf s cid).lastPhase n == some cyc then s
      else countPhase (modCore s cid fun c => { c with lastPhase := place c.lastPhase n cyc }) cid n 1 0

/-- The bookkeeping of an issue: counters, pass-over counts, YIELD marks, and the threads of E at the word they execute (R127, R130, R337). -/
def beginIssue (s : State) (cid slot cyc : Nat) (again : Bool) (g : Group) (iss : Issue) : State :=
  let threads := (List.range 32).map fun t =>
    let th := threadOf g t
    if iss.lanes.getLsbD t then
      { th with passed := 0, yielded := false, stepping := false, pc := iss.pc, clause := some (iss.header, iss.headerWord) }
    else if readyThread th then { th with passed := th.passed + 1, yielded := false }
    else { th with yielded := false }
  let s1 := setGroup s cid slot { g with threads := threads, lastIssue := cyc, yieldAfter := iss.last && headerYield iss.headerWord }
  let s2 := modCore s1 cid fun c => { c with cycle := cyc, firmwareIssue := if slot == 15 then cyc else c.firmwareIssue }
  countBusy { chargeIssue s2 cid slot again with iss := iss } cid g cyc

/-- Threads of E that must be held at a safe point: HALT is set, and they are not the ones a STEP releases (R294, R297). -/
def mustHold (s : State) (g : Group) (e : Lanes) : Lanes :=
  if s.dbg.halt && attachedTo s g then laneSet ((lanesOf e).filter fun t => !(threadOf g t).stepping) else 0#32

/-- Hold threads at a safe point. -/
def holdAt (s : State) (cid slot : Nat) (iss : Issue) (e : Lanes) : State :=
  modGroup s cid slot fun g => (lanesOf e).foldl (fun g t =>
    modThread g t fun th => { th with held := true, pc := iss.pc, clause := some (iss.header, iss.headerWord) }) g

/-- Move the threads of E to the word and trap: ILLEGAL_CLAUSE, or ILLEGAL_ENCODING (R351). -/
def trapAt (s : State) (cid slot cyc : Nat) (again : Bool) (g : Group) (iss : Issue) (code : Nat) : Out :=
  .next (takeTrap (beginIssue s cid slot cyc again g iss) cid slot code 0 iss.lanes)

/-- ILLEGAL_ENCODING, after the threads in a region that a forbidden opcode aborts (R450). -/
def trapEncoding (s : State) (cid slot cyc : Nat) (again : Bool) (g : Group) (iss : Issue) (op : Nat) : Out :=
  let s1 := beginIssue s cid slot cyc again g iss
  let bad := if opForbidden op then regionLanes g iss.lanes else 0#32
  let s2 := abortLanes s1 cid slot bad 0x0A 0 0#64
  let rest := stillThere s2 (iss.lanes &&& ~~~bad)
  .next (if rest = 0#32 then s2 else takeTrap s2 cid slot 0x02 0 rest)

/-- Issue a decoded instruction, unless an interlock holds it back. -/
def issueInstr (s : State) (cid slot cyc : Nat) (again : Bool) (g : Group) (iss : Issue) (i : Instr) : Tried :=
  let iss1 := { iss with flag := if holdsFlag i then flagFor i iss.headerWord else noFlag }
  if interlocked g i iss.lanes iss1.flag then .blocked s
  else match regionHeld { s with iss := iss1 } g i with
  | some s1 => .blocked { s1 with iss := s.iss }
  | none => .issued (exec i (beginIssue s cid slot cyc again g iss1))

/-- Steps 2 to 4 of R351 on the word at the issue's PC. -/
def checkWord (s : State) (cid slot cyc : Nat) (again : Bool) (g : Group) (iss : Issue) : Tried :=
  let op := (wordOp iss.word).toNat
  let n := (iss.pc.toNat - iss.header.toNat) / 4
  let count := headerCount iss.headerWord
  let words := wordCount iss.word
  let iss1 := { iss with last := n + words - 1 == count }
  if !(opAllocated op) then issueInstr s cid slot cyc again g iss1 (.unallocatedOpcode iss.word)
  else if (!(headerClass iss.headerWord == 7) && !(headerClass iss.headerWord == opClass op)) ||
      (opEndsClause op && !(n + words - 1 == count)) || count < n + words - 1 then
    .issued (trapAt s cid slot cyc again g iss1 0x03)
  else if words == 2 then
    withWord s cid slot g iss.lanes (iss.pc + 4) fun lit s1 =>
      let iss2 := { iss1 with lit := lit }
      match decode iss.word lit with
      | .ok i => issueInstr s1 cid slot cyc again g iss2 i
      | _ => .issued (trapEncoding s1 cid slot cyc again g iss2 op)
  else
    match decode iss.word 0#32 with
    | .ok i => issueInstr s cid slot cyc again g iss1 i
    | _ => .issued (trapEncoding s cid slot cyc again g iss1 op)

/-- The threads E at an instruction word of a clause: the debugger's part, then the word itself. -/
def issueWord (s : State) (cid slot cyc : Nat) (again : Bool) (g : Group) (e : Lanes) (pc header : Dword) (hw : Word) : Tried :=
  withWord s cid slot g e pc fun w s1 =>
    let iss : Issue := { Issue.none with cid := cid, slot := slot, lanes := e, pc := pc, header := header, headerWord := hw, word := w }
    if !(wordStop w) then checkWord s1 cid slot cyc again g iss else
      let hold := mustHold s1 g e
      let fresh := laneSet ((lanesOf e).filter fun t => !(threadOf g t).stepping)
      if !(hold = 0#32) then .blocked (holdAt s1 cid slot iss hold)
      else match (if fresh = 0#32 then none else breakpointAt s1 cid g pc) with
        | some o =>
          let s2 := beginIssue s1 cid slot cyc again g { iss with lanes := fresh }
          .issued (.next (hitBreakpoint s2 cid slot fresh o))
        | none => checkWord s1 cid slot cyc again g iss

/-- The first waited-for flag with an engine error (R436). -/
def flagError (g : Group) (wait : Nat) : Option (Nat × Nat × Nat) :=
  (List.range 12).findSome? fun n =>
    if wait / 2 ^ n % 2 == 1 then (nth ⟨0, none⟩ g.flags n).error.map fun e => (n, e.1, e.2) else none

/-- A waited-for flag is set. -/
def waitsOnFlag (g : Group) (wait : Nat) : Bool := (List.range 12).any fun n => wait / 2 ^ n % 2 == 1 && flagSet g n

/-- The core's own L1 serves a lane of an access: its L1 TLB translates the address, and it has the tokens of the line. -/
def laneInL1 (s : State) (cid : Nat) (g : Group) (o : Op) (a : Access) (t : Nat) : Bool :=
  let va := (nth 0#64 o.addrs t).toNat
  match lookTlb s cid (asidOf s g) (fnOfGroup s g) va a.kind g.supervisor with
  | .hit e =>
    let line := placeOf s e va / 128
    !(uncached e) && (if a.kind = .read then mayRead s (l1Agent cid) line else mayWrite s (l1Agent cid) line)
  | _ => false

/-- An unfinished access does not go beyond the L1: one to the scratchpad, or one of which the L1 serves every lane (R128). -/
def withinCore (s : State) (cid : Nat) (g : Group) (o : Op) : Bool :=
  match accessOf o.instr with
  | some a => a.scratch || (lanesOf o.todo).all (laneInL1 s cid g o a)
  | none => false

/-- The stores of an instruction that wait in the store buffer do not go beyond the L1. -/
def storesWithin (s : State) (cid op : Nat) : Bool :=
  (coreOf s cid).sb.all fun e => !(e.op == op) || mayWrite s (l1Agent cid) (e.addr / 128)

/-- A set flag among those waited for is owned by a memory access beyond the L1 or by an engine command (R128). -/
def ownedBeyond (s : State) (cid : Nat) (g : Group) (wait : Nat) : Bool :=
  (List.range 12).any fun n => wait / 2 ^ n % 2 == 1 &&
    (g.ops.filter fun o => o.flag == n && withinCore s cid g o).length +
      (g.storesOut.filter fun x => x.2.1 == n && storesWithin s cid x.1 && !(g.ops.any fun o => o.id == x.1)).length
      < (nth ⟨0, none⟩ g.flags n).count

/-- A group is ready as R126 says; what its chosen header says is read as it stands. -/
def readyGroup (s : State) (cid : Nat) (g : Group) : Bool :=
  g.stop.isNone && !g.exitedWhole && !(groupHeld g) &&
  match chooseLane g with
  | none => !g.replayQ.isEmpty
  | some t =>
    let th := threadOf g t
    th.clause.isSome ||
    (match peek s cid (asidOf s g) (fnOfGroup s g) th.pc.toNat 4 with
     | some h => !(waitsOnFlag g (waitMask (BitVec.ofNat 32 h)))
     | none => true)

/-- The oldest ready pending group of a core. -/
def readyPending (s : State) (cid : Nat) : Option Nat :=
  ((sortBy byAge ((coreOf s cid).groups.filter fun p => p.1 < 15 && !p.2.active && readyGroup s cid p.2)).head?).map (·.1)

/-- The oldest ready pending groups of a core enter its active set while that has room (R128). -/
def admitPending (cid : Nat) : Nat → State → State
  | 0, s => s
  | n + 1, s =>
    if 8 ≤ activeCount (coreOf s cid) then s else
      match readyPending s cid with
      | none => s
      | some k => admitPending cid n (modGroup s cid k fun g => { g with active := true, lastIssue := (coreOf s cid).cycle })

/-- Wake the threads of every group of every core, and let ready pending groups into active sets with room (R128, R440). -/
def wakeAll (s : State) : State :=
  let s1 := { s with cores := s.cores.map fun (c : Nat × Core) =>
    (c.1, { c.2 with groups := c.2.groups.map fun (g : Nat × Group) => (g.1, wakeGroup s c.1 g.1 g.2) }) }
  (s1.cores.map (·.1)).foldl (fun s c => admitPending c 8 s) s1

/-- An active group whose clause waits on a flag of far work swaps with the oldest ready pending group (R128). -/
def swapOut (s : State) (cid slot : Nat) (g : Group) (wait : Nat) : State :=
  if 15 ≤ slot || !(ownedBeyond s cid g wait) then s else
    match readyPending s cid with
    | none => s
    | some k => modCore s cid fun c => { c with groups := c.groups.map fun p =>
        if p.1 == slot then (p.1, { p.2 with active := false })
        else if p.1 == k then (p.1, { p.2 with active := true, lastIssue := c.cycle }) else p }

/-- The threads E at a clause header: step 1 of R351, the WAIT flags and their errors, then the first instruction (R334, R436). -/
def issueHeader (s : State) (cid slot cyc : Nat) (again : Bool) (g : Group) (e : Lanes) (pc : Dword) : Tried :=
  withWord s cid slot g e pc fun w s1 =>
    let s2 := { s1 with iss := { Issue.none with cid := cid, slot := slot, lanes := e, pc := pc } }
    if !(headerLegal w) then .issued (.next (takeTrap s2 cid slot 0x03 0 e))
    else if waitsOnFlag g (waitMask w) then .blocked (swapOut s1 cid slot g (waitMask w))
    else match flagError g (waitMask w) with
      | some (n, kind, va) =>
        let s3 := modGroup s2 cid slot fun g => { g with flags := modNth g.flags n fun f => { f with error := none } }
        .issued (.next (softTrap s3 cid slot e (if kind == 0 then 0x12 else 0x13) (BitVec.ofNat 64 va)))
      | none => issueWord s1 cid slot cyc again g e (pc + 4) pc w

/-! ## The replay queue (R154) -/

/-- Drop the entry at the head of the replay queue. -/
def dropReplay (g : Group) : Group := { g with replayQ := g.replayQ.drop 1 }

/-- The result of an instruction is a pair: what it writes from register d on, without the address registers of a post-increment (R154, R349). -/
def writesPair (i : Instr) : Bool := match accessOf i with | some a => !a.noResult && 8 ≤ a.size | none => true

/-- A DONE entry: its captured slots are the result (R154). -/
def doneReplay (g : Group) (r : Replay) : Group :=
  let d := (wordD r.word).toNat
  let pair : Bool := match decode r.word r.lit with | .ok i => (destRegs i).contains (d + 1) && writesPair i | _ => false
  (lanesOf r.lanes).foldl (fun g t =>
    let h := setReg g t d ⟨(nth Reg.zero (nth [] r.slots 0) t).val, r.resultTag⟩
    if pair then setReg h t (d + 1) ⟨(nth Reg.zero (nth [] r.slots 1) t).val, r.resultTag⟩ else h) g

/-- A wait for room, after which the instruction is tried again. -/
def isRetryWait : Wait → Bool
  | .matrixTable => true
  | .latch => true
  | .stream .. => true
  | .tileTable .. => true
  | .fence .. => true
  | _ => false

/-- An instruction whose waits for room make it issue again; a FENCE waits after it has issued. -/
def retries : Instr → Bool
  | .fence .. => false
  | _ => true

/-- What follows a replayed instruction: one that found no room stays at the head of the queue; otherwise its entry is gone, and the flag of an
instruction that attaches nothing clears. -/
def afterReplay (old : Group) (cid slot : Nat) (r : Replay) (i : Instr) (s : State) : Tried :=
  match groupOf s cid slot with
  | none => .issued (.next s)
  | some g =>
    if g.stop.isSome then .issued (.next s)
    else if retries i && (lanesOf r.lanes).any fun t => isRetryWait (threadOf g t).wait then
      let threads := (List.range 32).map fun t => if r.lanes.getLsbD t then { threadOf g t with wait := (threadOf old t).wait } else threadOf g t
      .blocked (setGroup s cid slot { g with threads := threads, replayQ := r :: g.replayQ })
    else .issued (.next (setGroup s cid slot (if holdsFlag i then g else completeFlag g r.flag)))

/-- The group has stopped with an entry for an instruction. -/
def listedInStop (s : State) (cid slot seq : Nat) : Bool :=
  match (groupOf s cid slot).bind (·.stop) with
  | some st => st.seqs.contains seq
  | none => true

/-- Execute a replayed word, its entry out of the queue; a trap that leaves the instruction without an entry is raised with the entry back at the head
of the queue, and with it of the new frame (R154). -/
def runReplay (s : State) (cid slot : Nat) (g : Group) (r : Replay) (iss : Issue) (i : Instr) : Tried :=
  let s0 := { s with iss := iss }
  let out := modGroup s0 cid slot dropReplay
  match exec i out with
  | .next s1 => if listedInStop s1 cid slot r.seq then afterReplay g cid slot r i s1 else .issued (exec i s0)
  | o => .issued o

/-- An instruction of the replay queue cannot issue yet. -/
def replayHeld (g : Group) (r : Replay) : Bool :=
  8 ≤ unfinishedCount g || (match decode r.word r.lit with | .ok i => g.ops.any (holdsStore i r.lanes) | _ => false)

/-- Run the entry at the head of the replay queue. -/
def issueReplay (s : State) (cid slot cyc : Nat) (again : Bool) (g : Group) (r : Replay) : Tried :=
  if r.status == 2 then .issued (.next (setGroup s cid slot (completeFlag (dropReplay (doneReplay g r)) r.flag)))
  else if !(r.status == 1) then .issued (.next (setGroup s cid slot (completeFlag (dropReplay g) r.flag)))
  else if replayHeld g r then .blocked s
  else
    let iss : Issue := { Issue.none with cid := cid, slot := slot, lanes := r.lanes, pc := r.pc, header := r.pc, word := r.word, lit := r.lit,
                                         replay := true, flag := r.flag, seq := r.seq }
    let s1 := modCore (setGroup s cid slot { g with lastIssue := cyc }) cid fun c =>
      { c with cycle := cyc, firmwareIssue := if slot == 15 then cyc else c.firmwareIssue }
    let s2 := moveCharges (countBusy (chargeIssue s1 cid slot again) cid g cyc) cid (contextOf s g) 1 2
    match decode r.word r.lit with
    | .ok i => runReplay s2 cid slot g r { iss with slots := (captured i).zip r.slots } i
    | .illegalOpcode => .issued (exec (.unallocatedOpcode r.word) { s2 with iss := iss })
    | .illegalEncoding => .issued (.next (takeTrap { s2 with iss := iss } cid slot 0x02 0 r.lanes))

/-! ## The groups of a core (R127 to R129, R337) -/

/-- Try to issue from one group in a cycle. -/
def issueGroup (cid cyc : Nat) (again : Bool) (s : State) (slot : Nat) : Tried :=
  match groupOf s cid slot with
  | none => .blocked s
  | some g =>
    if g.stop.isSome || g.exitedWhole || groupHeld g then .blocked s else
      match g.replayQ with
      | r :: _ => issueReplay s cid slot cyc again g r
      | [] =>
        match chooseLane g with
        | none => .blocked s
        | some t =>
          let th := threadOf g t
          match th.clause with
          | none => issueHeader s cid slot cyc again g (sharers g t) th.pc
          | some (h, w) => issueWord s cid slot cyc again g (sharers g t) th.pc h w

/-- Try the groups of a list in order. -/
def tryGroups (cid cyc : Nat) (again : Bool) : List Nat → State → Tried
  | [], s => .blocked s
  | k :: r, s =>
    match issueGroup cid cyc again s k with
    | .issued o => .issued o
    | .blocked s1 => tryGroups cid cyc again r s1

/-- A group goes before others in a cycle: it has waited 32 cycles; it does not yield after its clause; it is older (R127, R337). -/
def issuesBefore (cyc : Nat) (a b : Nat × Group) : Bool :=
  let starving := fun (g : Group) => g.lastIssue + 32 ≤ cyc
  let yields := fun (g : Group) => g.yieldAfter && g.lastIssue + 1 == cyc
  if !(starving a.2 == starving b.2) then starving a.2
  else if !(yields a.2 == yields b.2) then yields b.2
  else byAge a b

/-- The slots of a core in the order they are tried in a cycle.  The firmware group is tried as the oldest, but while a user group is ready only once in
16 cycles and in one issue slot (R129). -/
def issueOrder (s : State) (cid cyc : Nat) (again : Bool) : List Nat :=
  let c := coreOf s cid
  let users := (sortBy (issuesBefore cyc) (c.groups.filter fun p =>
    p.1 < 15 && p.2.active && runnable p.2 && !(again && p.2.lastIssue == cyc))).map (·.1)
  let firmware := c.groups.any fun p => p.1 == 15 && runnable p.2 && !(again && p.2.lastIssue == cyc)
  let ready := c.groups.any fun p => p.1 < 15 && readyGroup s cid p.2
  if firmware && (c.firmwareIssue + 16 ≤ cyc || !ready) then 15 :: users else users

/-- One issue of a core: the second of the cycle when another group can issue beside the first, else the first of the next cycle. -/
def issueCore (s : State) (cid : Nat) : Tried :=
  let c := coreOf s cid
  let second := if c.second.isSome then tryGroups cid c.cycle true (issueOrder s cid c.cycle true) s else .blocked s
  match second with
  | .issued o => .issued o
  | .blocked s1 => tryGroups cid (c.cycle + 1) false (issueOrder s1 cid (c.cycle + 1) false) s1

/-- A core holds a group that could issue. -/
def coreRuns (c : Core) : Bool := c.groups.any fun p => (p.2.active || p.1 == 15) && runnable p.2

end Sys2Proof.Machine
end

