-- ==== Sys2Proof/Machine/Step.lean ====
section
/-! DEFINITION.  One step of the module.  Time passes; then one thing happens: a step of the part that is due, or the issue of one instruction by a
core.  Which of them, where the spec gives no order, is a free value (log entries 4 and 5).  Also where a word is placed so that the next step
runs it. -/

namespace Sys2Proof.Machine

/-- A step of the part: an instruction without an encoding. -/
def isEvent (i : Instr) : Bool := (encode i).isEmpty

/-- Run a step of the part that was due. -/
def runDue (s : State) (d : Due) : Out :=
  if isEvent d.step then exec d.step { s with args := d.args } else .next s

/-- Time passes: at least one tick, and a free number more (R9, log entry 4). -/
def passTime (s : State) : State :=
  { s with time := s.time + BitVec.ofNat 64 (1 + Config.ticks s.free), free := s.free + 1 }

/-- Free granules go to the groups blocked in REGGROW, and when every user group of a core that has not exited is blocked all but the oldest fail, in
the cycle in which that comes about (R247, R248). -/
def serveGrowth (s : State) : State :=
  { s with cores := s.cores.map fun (c : Nat × Core) =>
      if c.2.groups.any fun p => p.1 < 15 && blockedGrow p.2 then (c.1, failGrow (grantGrow c.2 16)) else c }

/-- What needs no choice before anything else happens: groups whose threads are all held become halted, pipes serve what they can, register growth is
granted or fails, commits that hold every token are made, and waits that are over end (R247, R248, R294, R440, R455, R466). -/
def prelude_ (s : State) : State := wakeAll (serveCommits (serveGrowth (servePipes (serveHalts s))))

/-- The earliest timer. -/
def nextTimer (s : State) : Option Timer := (sortBy (fun (a b : Timer) => a.at_ ≤ b.at_) s.timers).head?

/-- Take a timer off the list and run its step; time is then at least what the timer says. -/
def runTimer (s : State) (t : Timer) : Out :=
  runDue { s with timers := removeOne t s.timers, time := if now s < t.at_ then BitVec.ofNat 64 t.at_ else s.time } t.due

/-- The cores that hold a group that could issue. -/
def runningCores (s : State) : List Nat := (s.cores.filter fun c => coreRuns c.2).map (·.1)

/-- Self-test ends by itself; whether every block passed, and which of the variant's blocks failed first, are free values (R38, R39). -/
def endSelfTest (s : State) : Out :=
  let f := fun (k : Nat) => Config.freeNat (s.free + k)
  let kinds := bistKinds s
  let b := nth (0, 1) kinds (f 1 % kinds.length)
  exec .selfTestComplete { s with free := s.free + 4, args :=
    { flag := f 0 % 2 == 0, n0 := b.1, n1 := b.2, n2 := f 2 % bistBlocks s b.1 b.2, n3 := f 3 } }

/-- Take the entry of an index from the agenda and run it. -/
def runAgenda (s : State) (k : Nat) : Out :=
  match s.agenda[k]? with
  | none => .next s
  | some d => runDue { s with agenda := s.agenda.take k ++ s.agenda.drop (k + 1) } d

/-- Nothing is left to choose: the next timer runs; with none, only time has passed. -/
def runIdle (s : State) : Out :=
  match nextTimer s with
  | some t => runTimer s t
  | none => .next s

/-- Let the cores of a list issue, the first that can. -/
def runCores : List Nat → State → Tried
  | [], s => .blocked s
  | c :: r, s =>
    match issueCore s c with
    | .issued o => .issued o
    | .blocked s1 => runCores r s1

/-- One of the things that can happen: an entry of the agenda, an issue of a core, or the end of self-test.  Messages arrive in no order (R17); the orders
of the ports of the L2 slices and of the viaduct (R134, R135) bound times only (log entry 4).  A core that cannot issue leaves its
turn to the others, and these to the agenda. -/
def runChoice (s : State) : Out :=
  let cores := runningCores s
  let n := s.agenda.length + cores.length + (if s.trust.life = .selfTest then 1 else 0)
  if n == 0 then runIdle s else
    let k := if n == 1 then 0 else Config.pick s.free % n
    let s1 := { s with free := s.free + 1 }
    if k < s.agenda.length then runAgenda s1 k
    else if k < s.agenda.length + cores.length then
      let j := k - s.agenda.length
      match runCores (cores.drop j ++ cores.take j) s1 with
      | .issued o => o
      | .blocked s2 => if s2.agenda.isEmpty then runIdle s2 else runAgenda s2 0
    else endSelfTest s1

/-- One step of the module.  Without power only a power-on happens. -/
def step (s : State) : Host.Outcome State Fault Refusal :=
  let s1 := passTime s
  if !s1.platform.powered then
    match s1.agenda.find? fun d => d.step = .powerOnReset with
    | some d => runDue { s1 with agenda := removeOne d s1.agenda } d
    | none => .next s1
  else
    let s2 := prelude_ s1
    match s2.timers.find? fun t => t.at_ ≤ now s2 with
    | some t => runTimer s2 t
    | none => runChoice s2

/-! ## Placing one instruction -/

/-- The address the placed clause header stands at, virtual and physical. -/
def probeBase : Nat := 0x1000

/-- The leaf of the placed page: readable, writable and executable by users, frame 1 (R172). -/
def probeLeaf : Dword := 0x1003F#64

/-- A team of one group of 16 granules, 4 scratchpad units and 1 tile. -/
def probeTeam : Team :=
  { Team.blank with launch := 1, groups := 1, slots := [0], granules := 16, units := 4, tiles := [0], code := BitVec.ofNat 64 probeBase }

/-- The launch of the placed group. -/
def probeLaunch (supervisor : Bool) : Launch :=
  ⟨.grid, none, 0, 0, 0, 0, 0, 1, supervisor, 0#64, 1, 1, 1, [⟨BitVec.ofNat 64 probeBase, 0, 1, 16, 4, 1⟩], [], 1, 0, 10000000, 0, none, [], none, [0],
   [1], none, none⟩

/-- The state with an instruction placed as the one instruction of a clause of class 7 in a group of core 0, and nothing else due, so that the
next step issues it; a privileged opcode is placed in supervisor mode (log entry 6). -/
def State.withFetchWord (s : State) (nbits w : Nat) : State :=
  let word := BitVec.ofNat 32 (w % 2 ^ nbits)
  let lit := w % 2 ^ nbits / 2 ^ 32
  let op := (wordOp word).toNat
  let header : Nat := if opHasLiteral op then 0x2E001FE0 else 0x1E001FE0
  let threads := (List.range 32).map fun _ => Thread.start (BitVec.ofNat 64 probeBase)
  let g : Group := { newGroup 1 0 16 1 threads [] with active := true, supervisor := decide (0x3e0 ≤ op) }
  let entry : TlbEntry := ⟨1, 0, false, probeBase, 4096, probeLeaf, probeBase, []⟩
  let core : Core := { Core.reset with groups := [(0, g)], tlb := [entry] }
  { s with
    trust := { s.trust with life := .operational }
    platform := { s.platform with powered := true }
    dbg := { s.dbg with enabled := false, halt := false }
    mem := writeBytes s.mem probeBase (leBytes 4 header ++ leBytes 4 word.toNat ++ leBytes 4 lit)
    cores := [(0, core)]
    teams := [(1, probeTeam)]
    launches := [(1, probeLaunch (decide (0x3e0 ≤ op)))]
    agenda := []
    timers := [] }

end Sys2Proof.Machine
end

