-- ==== Sys2Proof/Safety.lean ====
section
/-! DEFINITION.  What claims are stated in: the conditions under which an issued instruction runs, what it may change, and the invariants a safe
run keeps. -/

namespace Sys2Proof.Machine

/-! ## An issue that no check stops -/

/-- The issue under way is one of group `g`, and no check of R351 steps 5 to 7 or R450 parts 2 to 4 stops instruction `i` in any lane: the group
is resident, has 1 to 16 granules (R245) and its 32 threads (R96), is not stopped and does not wait as a whole (R126); E has a lane and each of its threads stands at the
instruction (or the issue is a replay, R154); its encoding is legal (R351 step 4); a privileged instruction runs in the firmware group (R346); a unit it names is present (R3); it
names only registers the group holds (R245); and a try region of the lanes allows it and has room in its log (R442, R446). -/
structure Ready (i : Instr) (s : State) (g : Group) : Prop where
  group : issGroup s = some g
  threads : g.threads.length = 32
  granules : g.granules ≤ 16
  running : g.stop = none
  unheld : groupHeld g = false
  lanes : s.iss.lanes ≠ 0#32
  there : s.iss.replay = true ∨ ∀ t, s.iss.lanes.getLsbD t = true → (threadOf g t).pc = s.iss.pc
  legal : encodingLegal i = true
  mode : privileged i = true → g.supervisor = true
  units : needsRays i = true → s.variant ≠ .k960c
  bound : ∀ v ∈ namedRegs i, v < 8 * g.granules
  allowed : forbidden i = true → regionLanes g s.iss.lanes = 0#32
  room : logFull g i s.iss.lanes = 0#32

/-- Lane t executes the issued instruction. -/
def Active (s : State) (t : Nat) : Prop := t < 32 ∧ s.iss.lanes.getLsbD t = true

/-- The register v of lane t once the writes `w` (register, value) have been made in order. -/
def written (w : List (Nat × Reg)) (v : Nat) (old : Reg) : Reg := w.foldl (fun r x => if x.1 = v then x.2 else r) old

/-- The registers of group `h` are those of `g` with the writes `f t` made in each lane t of E, and no others. -/
def RegsFrom (s : State) (g h : Group) (f : Nat → List (Nat × Reg)) : Prop :=
  ∀ t v, t < 32 → v < 128 →
    (Active s t → regOf h t v = written (f t) v (regOf g t v)) ∧ (¬ Active s t → regOf h t v = regOf g t v)

/-- The threads of E have gone past an instruction of `words` words (R334, a replay moves no PC), and no other thread has moved. -/
def PcsPast (s : State) (g h : Group) (words : Nat) : Prop :=
  ∀ t, t < 32 →
    (Active s t → (threadOf h t).pc = if s.iss.replay then (threadOf g t).pc else s.iss.pc + BitVec.ofNat 64 (4 * words)) ∧
    (¬ Active s t → threadOf h t = threadOf g t)

/-- Group `h` differs from `g` only in its registers, in its threads' PC, clause and register-write log, and in the note of a speculative issue
(R302): its flags, convergence and modulo registers, latch, unfinished instructions, marks and stop are as they were. -/
def OnlyRegs (g h : Group) : Prop :=
  h = { g with regs := h.regs, threads := h.threads, specIssues := h.specIssues } ∧ h.threads.length = g.threads.length ∧
  ∀ t, threadOf h t = { threadOf g t with pc := (threadOf h t).pc, clause := (threadOf h t).clause, region := (threadOf h t).region }

/-- The state `s` with group `h` in the issuing slot: nothing else has changed. -/
def withGroup (s : State) (h : Group) : State := setGroup s s.iss.cid s.iss.slot h

/-- An instruction of `words` words completes at issue: in every state in which no check stops it, the next state differs only in the issuing
group, whose lanes of E have the registers that `f` gives from the group as it stood (R365), and have gone past the instruction. -/
def Completes (i : Instr) (words : Nat) (f : State → Group → Nat → List (Nat × Reg)) : Prop :=
  ∀ s g, Ready i s g → ∃ h, exec i s = .next (withGroup s h) ∧ OnlyRegs g h ∧ RegsFrom s g h (f s g) ∧ PcsPast s g h words

end Sys2Proof.Machine
end

