-- ==== Sys2Proof/Certificates/Slice0/Obligations.lean ====
section
/-! DEFINITION.  The statements for the provers, from the numbered rules of the spec.  Shapes that several instructions share come first, as
predicates over a constructor and the function the spec gives for it; each obligation then names its instructions. -/

namespace Sys2Proof.Machine

/-! ## Shapes -/

/-- One INT32-tagged result from two sources (R250, R365). -/
def Binary (mk : Bool → RegIx → RegIx → RegIx → Instr) (f : Word → Word → Word) : Prop :=
  ∀ x d a b, Completes (mk x d a b) 1 fun s g t => [(d.toNat, ⟨f (srcVal s.iss g t a.toNat) (srcVal s.iss g t b.toNat), 12#4⟩)]

/-- One INT32-tagged result from one source. -/
def Unary (mk : Bool → RegIx → RegIx → Instr) (f : Word → Word) : Prop :=
  ∀ x d a, Completes (mk x d a) 1 fun s g t => [(d.toNat, ⟨f (srcVal s.iss g t a.toNat), 12#4⟩)]

/-- One INT32-tagged result from a source and the 7-bit field b. -/
def UnaryImm (mk : Bool → RegIx → RegIx → BitVec 7 → Instr) (f : Word → BitVec 7 → Word) : Prop :=
  ∀ x d a i, Completes (mk x d a i) 1 fun s g t => [(d.toNat, ⟨f (srcVal s.iss g t a.toNat) i, 12#4⟩)]

/-- One INT32-tagged result from a source and a literal word. -/
def UnaryLit (mk : Bool → RegIx → RegIx → Word → Instr) (f : Word → Word → Word) : Prop :=
  ∀ x d a lit, Completes (mk x d a lit) 2 fun s g t => [(d.toNat, ⟨f (srcVal s.iss g t a.toNat) lit, 12#4⟩)]

/-- The writes of a 64-bit result to an INT32-tagged pair, low word first (R7, R371). -/
def pairWrites (d : RegIx) (v : Dword) : List (Nat × Reg) :=
  [(d.toNat, ⟨v.setWidth 32, 12#4⟩), (d.toNat + 1, ⟨(v >>> 32).setWidth 32, 12#4⟩)]

/-- A 64-bit result from two pairs. -/
def Binary64 (mk : Bool → RegIx → RegIx → RegIx → Instr) (f : Dword → Dword → Dword) : Prop :=
  ∀ x d a b, Completes (mk x d a b) 1 fun s g t => pairWrites d (f (srcPair s.iss g t a.toNat) (srcPair s.iss g t b.toNat))

/-- A 64-bit result from a pair and the 7-bit field b. -/
def Unary64Imm (mk : Bool → RegIx → RegIx → BitVec 7 → Instr) (f : Dword → BitVec 7 → Dword) : Prop :=
  ∀ x d a i, Completes (mk x d a i) 1 fun s g t => pairWrites d (f (srcPair s.iss g t a.toNat) i)

/-- A condition register: 1 or 0, tagged INT32 (R250, R372). -/
def truth (b : Bool) : Reg := ⟨if b then 1#32 else 0#32, 12#4⟩

/-- The comparison of condition code c: eq, ne, lt, le, gt, ge (R372). -/
def compares (c : Nat) (p q : Int) : Bool :=
  if c = 0 then p == q else if c = 1 then p != q else if c = 2 then p < q else if c = 3 then p ≤ q else if c = 4 then p > q else p ≥ q

/-- The value a shuffle gives lane t from source lane u: the register of lane u with its tag when u executes the instruction, else its own (R375). -/
def Shuffled (s : State) (g : Group) (a : RegIx) (t : Nat) (u : Int) : Reg :=
  if 0 ≤ u ∧ u < 32 ∧ s.iss.lanes.getLsbD u.toNat = true then srcReg s.iss g u.toNat a.toNat else srcReg s.iss g t a.toNat

/-- An instruction that completes at issue under a further condition on the state and the group. -/
def CompletesWhen (i : Instr) (words : Nat) (pre : State → Group → Prop) (f : State → Group → Nat → List (Nat × Reg)) : Prop :=
  ∀ s g, Ready i s g → pre s g →
    ∃ h, exec i s = .next (withGroup s h) ∧ OnlyRegs g h ∧ RegsFrom s g h (f s g) ∧ PcsPast s g h words

/-- In every lane of E the listed registers carry the listed tags (R251, R393). -/
def Tagged (want : List (Nat × BitVec 4)) (s : State) (g : Group) : Prop :=
  ∀ t, Active s t → ∀ w ∈ want, (srcReg s.iss g t w.1).tag = w.2

/-- One FP32-tagged result of an operation in the rounding mode of the opcode (R395, R396): `f` is computed exactly and rounded once. -/
def FpBinary (mk : Bool → BitVec 2 → RegIx → RegIx → RegIx → Instr) (f : RMode → Val → Val → Val) : Prop :=
  ∀ x r d a b, Completes (mk x r d a b) 1 fun s g t =>
    [(d.toNat, ⟨toF32 (rmode r.toNat) (f (rmode r.toNat) (f32 (srcVal s.iss g t a.toNat)) (f32 (srcVal s.iss g t b.toNat))), 1#4⟩)]

/-- One FP32-tagged result of a register and a literal, rounded to nearest. -/
def FpLit (mk : Bool → RegIx → RegIx → Word → Instr) (f : Val → Val → Val) : Prop :=
  ∀ x d a lit, Completes (mk x d a lit) 2 fun s g t =>
    [(d.toNat, ⟨toF32 .rne (f (f32 (srcVal s.iss g t a.toNat)) (f32 lit)), 1#4⟩)]

/-- A packed operation (R311, R399): each 16-bit element on its own, in FP16 or BF16 by the format bit, tagged with that format. -/
def Packed (mk : Bool → BitVec 1 → RegIx → RegIx → RegIx → Instr) (f : Fmt → Nat → Nat → Nat) : Prop :=
  ∀ x k d a b, Completes (mk x k d a b) 1 fun s g t =>
    let fmt := if k = 0#1 then fp16 else bf16
    let p := srcVal s.iss g t a.toNat
    let q := srcVal s.iss g t b.toNat
    let lo := f fmt (p.extractLsb' 0 16).toNat (q.extractLsb' 0 16).toNat
    let hi := f fmt (p.extractLsb' 16 16).toNat (q.extractLsb' 16 16).toNat
    [(d.toNat, ⟨BitVec.ofNat 16 hi ++ BitVec.ofNat 16 lo, if k = 0#1 then 2#4 else 3#4⟩)]

/-- A function of R315 in the mode of field b. -/
def FpFunction (mk : Bool → RegIx → RegIx → BitVec 2 → Instr) (f : RMode → Word → Word) : Prop :=
  ∀ x d a r, Completes (mk x d a r) 1 fun s g t => [(d.toNat, ⟨f (rmode r.toNat) (srcVal s.iss g t a.toNat), 1#4⟩)]

/-- A magnitude m / 2^k rounded to the integer n in a mode, for the sign `neg` (R312). -/
def RoundedTo (mode : RMode) (neg : Bool) (m k n : Nat) : Prop :=
  match mode, neg with
  | .rne, _ => 2 * m ≤ (2 * n + 1) * 2 ^ k ∧ 2 * n * 2 ^ k ≤ 2 * m + 2 ^ k ∧
      ((2 * m = (2 * n + 1) * 2 ^ k ∨ 2 * n * 2 ^ k = 2 * m + 2 ^ k) → n % 2 = 0)
  | .rz, _ => n * 2 ^ k ≤ m ∧ m < (n + 1) * 2 ^ k
  | .ru, false => m ≤ n * 2 ^ k ∧ n * 2 ^ k < m + 2 ^ k
  | .ru, true => n * 2 ^ k ≤ m ∧ m < (n + 1) * 2 ^ k
  | .rd, true => m ≤ n * 2 ^ k ∧ n * 2 ^ k < m + 2 ^ k
  | .rd, false => n * 2 ^ k ≤ m ∧ m < (n + 1) * 2 ^ k

/-- Where the lanes of E stand: at the target that `to` gives, where the next word is a clause header (R340), or past the instruction. -/
def PcsTo (s : State) (g h : Group) (words : Nat) (toward : Nat → Option Dword) : Prop :=
  ∀ t, t < 32 →
    (Active s t → match toward t with
      | some p => (threadOf h t).pc = p ∧ (threadOf h t).clause = none
      | none => (threadOf h t).pc = if s.iss.replay then (threadOf g t).pc else s.iss.pc + BitVec.ofNat 64 (4 * words)) ∧
    (¬ Active s t → threadOf h t = threadOf g t)

/-- A control transfer: registers as `f` says, PCs as `to` says, nothing else. -/
def Jumps (i : Instr) (words : Nat) (pre : State → Group → Prop) (f : State → Group → Nat → List (Nat × Reg))
    (toward : State → Group → Nat → Option Dword) : Prop :=
  ∀ s g, Ready i s g → pre s g →
    ∃ h, exec i s = .next (withGroup s h) ∧ OnlyRegs g h ∧ RegsFrom s g h (f s g) ∧ PcsTo s g h words (toward s g)

/-- The target H + 4 × lit (R383). -/
def labelOf (s : State) (lit : Word) : Dword := s.iss.header + lit.signExtend 64 * 4#64

/-- The frame fields every trap fills (R150, R151): causes, code, faulting address, lanes and the PC of each thread. -/
def FrameHolds (m : Memory) (base causes code va : Nat) (lanes : Lanes) (g : Group) : Prop :=
  readNat m base 4 = causes ∧ readNat m (base + 4) 1 = code ∧ readNat m (base + 8) 8 = va % 2 ^ 57 ∧ readNat m (base + 16) 4 = lanes.toNat ∧
  ∀ u, u < 32 → readNat m (base + 64 + 8 * u) 8 = (threadOf g u).pc.toNat

/-- What taking a trap does (R150, R151, R155): the group stops out of the active set with the cause TRAP, its threads where they stood and its
registers as they were; the frame in its slot of the save area says why; memory outside the frame is unchanged; and Soliracor is handed the
trap of a user group. -/
def Trapped (s t : State) (g : Group) (code va : Nat) (lanes : Lanes) : Prop :=
  let base := s.saveArea + 8192 * (16 * s.iss.cid + s.iss.slot)
  ∃ h st, groupOf t s.iss.cid s.iss.slot = some h ∧ h.stop = some st ∧ st.causes = 1 ∧ st.code = code ∧ st.lanes = lanes ∧ st.va = va ∧
    h.active = false ∧ h.granules = g.granules ∧ (∀ u, (threadOf h u).pc = (threadOf g u).pc) ∧
    ((∀ o ∈ g.ops, o.sent = false) → h.regs = g.regs) ∧
    FrameHolds t.mem base 1 code va lanes g ∧ (∀ a, ¬ (base ≤ a ∧ a < base + 8192) → readByte t.mem a = readByte s.mem a) ∧
    (s.iss.slot < 15 → (⟨.trapResolution, { n0 := s.iss.cid, n1 := s.iss.slot }⟩ : Due) ∈ t.agenda)

/-- An unfinished instruction has begun over the lanes `e` (R140, R152): the last of the group's instructions holds its effective addresses and
reads its captured sources as they were; the registers change as `post` says, and the threads of E have gone past. -/
def Begun (s : State) (g h : Group) (i : Instr) (words : Nat) (e : Lanes) (addr : Nat → Dword) (post : Nat → List (Nat × Reg)) : Prop :=
  ∃ o, h.ops = g.ops ++ [o] ∧ o.id = s.ids ∧ o.instr = i ∧ o.lanes = e ∧ o.todo = e ∧ o.flag = s.iss.flag ∧ o.sent = false ∧
    (∀ u, u < 32 → nth 0#64 o.addrs u = addr u) ∧ (∀ u v, u < 32 → v ∈ captured i → opReg h o u v = srcReg s.iss g u v) ∧
    RegsFrom s g h (fun t => if s.iss.replay then [] else post t) ∧ PcsPast s g h words

/-- The lanes of E that are in a region may make the access: no verdict of R450 part 4 aborts them, and neither a page fault nor an unreadable table
meets them at issue (R447). -/
def RegionAllows (i : Instr) (s : State) (g : Group) (ea : Nat → Dword) : Prop :=
  ∀ a, accessOf i = some a → ∀ t, Active s t → inRegion g t = true →
    scopeVerdict s a g t (ea t).toNat = none ∧ regionVerdict s i a g t (ea t).toNat (regionPlan s a g s.iss.lanes ea t) = none ∧ regionFault a s (fun _ => ea) g t = none ∧
      regionUnread a s (fun _ => ea) g t = none

/-- A load, an atomic or a reduction of memory issues: with every address a multiple of its alignment, the instruction begins over E and each of its
lanes is due to be performed (R412, R413). -/
def LoadIssues (i : Instr) (words size : Nat) (ea : State → Group → Nat → Dword) (post : State → Group → Nat → List (Nat × Reg)) : Prop :=
  ∀ s g, Ready i s g → (∀ t, Active s t → (ea s g t).toNat % size = 0) → RegionAllows i s g (ea s g) →
    ∃ t h, exec i s = .next t ∧ groupOf t s.iss.cid s.iss.slot = some h ∧ Begun s g h i words s.iss.lanes (ea s g) (post s g) ∧ t.mem = s.mem ∧
      ∀ u, Active s u → (⟨.loadComplete, { n0 := s.iss.cid, n1 := s.iss.slot, n2 := s.ids, n3 := u }⟩ : Due) ∈ t.agenda

/-- A store to memory issues outside a region with no translation in the L1 TLB: it begins over E, and a walk is due for each lane (R178, R412). -/
def StoreIssues (i : Instr) (words size : Nat) (ea : State → Group → Nat → Dword) (post : State → Group → Nat → List (Nat × Reg)) : Prop :=
  ∀ s g, Ready i s g → (∀ t, Active s t → (ea s g t).toNat % size = 0) → regionLanes g s.iss.lanes = 0#32 → (∀ o ∈ g.ops, o.id ≠ s.ids) →
    (∀ t, Active s t → lookTlb s s.iss.cid (asidOf s g) (contextOf s g).1 (ea s g t).toNat .write g.supervisor = .miss) →
    ∃ t h, exec i s = .next t ∧ groupOf t s.iss.cid s.iss.slot = some h ∧ Begun s g h i words s.iss.lanes (ea s g) (post s g) ∧ t.mem = s.mem ∧
      h.storesOut = g.storesOut ++ [(s.ids, s.iss.flag, (lanesOf s.iss.lanes).length)] ∧
      ∀ u, Active s u → (⟨.pageWalk, { n0 := s.iss.cid, n1 := s.iss.slot, n2 := s.ids, n3 := u }⟩ : Due) ∈ t.agenda

/-- The address of a global form (R347): the pair, and the sign-extended literal of an offset form. -/
def pairAddr (a : RegIx) (s : State) (g : Group) (t : Nat) : Dword := srcPair s.iss g t a.toNat

/-- The address of a global form with a literal: with P = 1 the literal is no offset (R347, R348). -/
def pairOff (a : RegIx) (p : BitVec 1) (lit : Word) (s : State) (g : Group) (t : Nat) : Dword :=
  srcPair s.iss g t a.toNat + if p = 1#1 then 0#64 else lit.signExtend 64

/-- What a global post-increment writes (R347, R348): the pair plus the signed increment in literal bits 18:0. -/
def pairPost (a : RegIx) (p : BitVec 1) (lit : Word) (s : State) (g : Group) (t : Nat) : List (Nat × Reg) :=
  if p = 1#1 then pairWrites a (srcPair s.iss g t a.toNat + (lit.extractLsb' 0 19).signExtend 64) else []

/-- The offset a scratchpad form names (R347): the register plus the literal, modulo 2^32. -/
def offAddr (a : RegIx) (off : Word) (s : State) (g : Group) (t : Nat) : Nat := (srcVal s.iss g t a.toNat + off).toNat

/-- What a scratchpad post-increment writes (R255, R347, R348): modulo the length of the named modulo register when bit 31 is set. -/
def offPost (a : RegIx) (p : BitVec 1) (m : BitVec 3) (lit : Word) (s : State) (g : Group) (t : Nat) : List (Nat × Reg) :=
  let v : Int := (srcVal s.iss g t a.toNat).toNat
  let inc := (lit.extractLsb' 0 19).toInt
  let md := if lit.getLsbD 31 then nth (0, 0) g.modulo m.toNat else (0, 0)
  if p = 1#1 then
    [(a.toNat, ⟨BitVec.ofInt 32 ((if md.2 = 0 then v + inc else md.1 + (v + inc - md.1) % md.2) % 2 ^ 19), 12#4⟩)]
  else []

/-- A scratchpad access that R252 allows: below 2^19, within the run of the team, and aligned. -/
def InScratch (tm : Team) (size off : Nat) : Prop := off < 2 ^ 19 ∧ off + size ≤ 4096 * tm.units ∧ off % size = 0

/-- A scratchpad load issues (R236, R252, R412); the lanes of a waiting form wait in it (R421). -/
def ScratchLoad (i : Instr) (words size : Nat) (waits : Bool) (ea : State → Group → Nat → Nat) (post : State → Group → Nat → List (Nat × Reg)) : Prop :=
  ∀ s g tm, Ready i s g → teamOf s g.team = some tm → (∀ t, Active s t → InScratch tm size (ea s g t)) →
    RegionAllows i s g (fun t => BitVec.ofNat 64 (ea s g t)) →
    ∃ t h, exec i s = .next t ∧ groupOf t s.iss.cid s.iss.slot = some h ∧
      Begun s g h i words s.iss.lanes (fun u => BitVec.ofNat 64 (ea s g u)) (post s g) ∧ t.mem = s.mem ∧
      (coreOf t s.iss.cid).scratch = (coreOf s s.iss.cid).scratch ∧ (waits = true → ∀ u, Active s u → (threadOf h u).wait = .op s.ids) ∧
      ∀ u, Active s u → (⟨.loadComplete, { n0 := s.iss.cid, n1 := s.iss.slot, n2 := s.ids, n3 := u }⟩ : Due) ∈ t.agenda

/-- The bytes a store takes from registers d onwards, lowest first (R417). -/
def regBytes (s : State) (g : Group) (d : RegIx) (size u : Nat) : List Byte :=
  ((List.range ((size + 3) / 4)).flatMap fun k => leBytes 4 (srcVal s.iss g u (d.toNat + k)).toNat).take size

/-- A scratchpad store outside a region is performed at issue, lane after lane (R236, R412, R417); a .set form also fills the granule (R254, R421).
A replayed one completes its flag (R256).  Bytes outside the stored spans, and all of memory, stay as they were. -/
def ScratchStore (i : Instr) (words size : Nat) (fills : Bool) (d : RegIx) (ea : State → Group → Nat → Nat)
    (post : State → Group → Nat → List (Nat × Reg)) : Prop :=
  ∀ s g tm, Ready i s g → teamOf s g.team = some tm → (∀ t, Active s t → InScratch tm size (ea s g t)) → regionLanes g s.iss.lanes = 0#32 →
    let at_ := fun u => 4096 * tm.unitBase + ea s g u
    ∃ t h, exec i s = .next t ∧ groupOf t s.iss.cid s.iss.slot = some h ∧
      OnlyRegs (if s.iss.replay then completeFlag g s.iss.flag else g) h ∧
      RegsFrom s g h (fun u => if s.iss.replay then [] else post s g u) ∧ PcsPast s g h words ∧ t.mem = s.mem ∧
      (coreOf t s.iss.cid).scratch =
        (lanesOf s.iss.lanes).foldl (fun m u => writeBytes m (at_ u) (regBytes s g d size u)) (coreOf s s.iss.cid).scratch ∧
      (∀ a, (∀ u, Active s u → ¬ (at_ u ≤ a ∧ a < at_ u + size)) →
        readByte (coreOf t s.iss.cid).scratch a = readByte (coreOf s s.iss.cid).scratch a) ∧
      (∀ k, k ∈ (coreOf t s.iss.cid).full ↔ k ∈ (coreOf s s.iss.cid).full ∨ (fills = true ∧ ∃ u, Active s u ∧ k = at_ u / 16))

/-- The tokens of a line: at its home, with the agents, and in flight (R190, R192). -/
def tokensOf (s : State) (line : Nat) : Nat :=
  (lineOf s line).home + ((lineOf s line).holders.map (·.count)).sum +
    ((s.coherence.net.filter fun m => m.line == line).map (·.count)).sum

/-- No stopped group of the core of an L1 has a region that has read the line: the loss of its tokens aborts no thread whose frame memory holds
(R151, R453). -/
def NoStoppedReader (s : State) (a line : Nat) : Prop :=
  ∀ cid, l1Core a = some cid → ∀ p ∈ (coreOf s cid).groups, p.2.stop ≠ none → ∀ th ∈ p.2.threads, ∀ r, th.region = some r → line ∉ r.loads

/-- Nothing is to be done with the tokens of a line that its home has: no request for it is active (R204, R215). -/
def HomeIdle (s : State) (line : Nat) : Prop := activePart s line = none ∧ mirrorOf s (homeDie s (128 * line)) line = none

/-- No pipe instruction is unfinished, and the tables of cores and groups have one entry for each key. -/
def PipesIdle (s : State) : Prop :=
  rising s.cores = true ∧ ∀ c ∈ s.cores, rising c.2.groups = true ∧ ∀ q ∈ c.2.groups, ∀ o ∈ q.2.ops, isPipe o.instr = false


/-- An engine, a builder or Soliracor has taken an instruction over (R140, R431): its last unfinished instruction is one whose work has left the
core; the registers are as they were, and the threads of E have gone past. -/
def TakenOver (s : State) (g h : Group) (i : Instr) (words : Nat) : Prop :=
  (∃ o, h.ops = g.ops ++ [o] ∧ o.id = s.ids ∧ o.instr = i ∧ o.lanes = s.iss.lanes ∧ o.todo = s.iss.lanes ∧ o.flag = s.iss.flag ∧ o.sent = true) ∧
  h.regs = g.regs ∧ h.flags = (attachIssue s.iss g).flags ∧ PcsPast s g h words

/-- Every token of a device line is at its home, and none is on its way there: the line is in the ordinary state, and the host does not cache it
(R192, R212, R215). -/
def TokensHome (s : State) (line : Nat) : Prop :=
  (lineOf s line).home = 1024 ∧ (lineOf s line).isPart = false ∧ (lineOf s line).hostState = 0 ∧ ∀ m ∈ s.coherence.net, m.line ≠ line

/-- An agent takes every token of a line of device memory at once: they are at its home, which has an entry of its token-out table for the line, and one
to spare, and nothing calls them away or holds them back (R191, R197, R204, R217). -/
def FreeLine (s : State) (a line : Nat) : Prop :=
  hostLine s line = false ∧ TokensHome s line ∧ (lineOf s line).holders = [] ∧ (lineOf s line).homeKey = true ∧ (tokenOutRivals s line).length < 7 ∧
  s.coherence.census.contains line = false ∧ calledAway s a line = false

/-- A span that a unit of a pier reaches at once: the L2 TLB of the pier translates each of its addresses by one entry, in a set that is not too full,
through a leaf that allows the access and has its lines performed at their home (R167, R199), to the physical span from `pa` in the module's own
memory, with the tokens at home (R191), with no error and no exchange. -/
def AtHand (s : State) (p asid fn : Nat) (k : AccKind) (sup : Bool) (va n pa : Nat) : Prop :=
  va + n ≤ 2 ^ 57 ∧ ∀ j, j < n →
    (∃ e ∈ (pierOf s p).tlb, e.serves asid fn (va + j) = true ∧ (∀ x ∈ (pierOf s p).tlb, x.serves asid fn (va + j) = true → x = e) ∧
      ((pierOf s p).tlb.filter fun x => tlbSet x == tlbSet e).length ≤ 8 ∧ permitted e.leaf k sup = true ∧ pteHome e.leaf = 3 ∧
      pteMig e.leaf = false ∧ e.pa (va + j) = pa + j) ∧
    (tierOf s (pa + j) = some 0 ∨ tierOf s (pa + j) = some 1) ∧ hostLine s ((pa + j) / 128) = false ∧ TokensHome s ((pa + j) / 128) ∧
    poisoned s ((pa + j) / 128) = false

/-- A COPY, GATHER or SCATTER issues (R261, R431 to R433): the operands of the lowest lane allowed and the stream with room, the stream of the pier
holds one more command with those operands, and nothing has moved yet. -/
def TransferIssues (i : Instr) (words : Nat) (ends : State → Group → Nat → Ends) (ok : Team → Ends → Prop) : Prop :=
  ∀ s g tm, Ready i s g → teamOf s g.team = some tm →
    let x := ends s g (lowestLane s.iss.lanes)
    let gather := decide (3 ≤ x.kind)
    let stream := fun (s : State) => if gather then (pierOf s (pierNo s.iss.cid)).gathers else (pierOf s (pierNo s.iss.cid)).copies
    ok tm x → (stream s).length < 16 →
    ∃ t h c, exec i s = .next t ∧ groupOf t s.iss.cid s.iss.slot = some h ∧ h.regs = g.regs ∧ h.ops = g.ops ∧
      h.flags = (attachIssue s.iss g).flags ∧ PcsPast s g h words ∧ t.mem = s.mem ∧
      (coreOf t s.iss.cid).scratch = (coreOf s s.iss.cid).scratch ∧ stream t = stream s ++ [c] ∧
      (⟨c.kind, c.src, c.dst, c.list_, c.len, c.size⟩ : Ends) = x ∧ c.cursor = 0 ∧ c.lanes = s.iss.lanes ∧ c.flag = s.iss.flag ∧ c.team = g.team ∧
      (⟨.transferBurst, { n0 := pierNo s.iss.cid, n1 := if gather then 1 else 0 }⟩ : Due) ∈ t.agenda

/-- A LEN that R432 allows. -/
def LenAllowed (most n : Nat) : Prop := n % 16 = 0 ∧ 16 ≤ n ∧ n ≤ most

/-- A scratchpad span of a team that R252 allows. -/
def SpanAllowed (tm : Team) (off n align : Nat) : Prop := off < 2 ^ 19 ∧ off + n ≤ 4096 * tm.units ∧ off % align = 0

/-- An instruction that puts an entry into the reservation table of its pier's matrix engine at issue (R131, R473): the group holds the tile's
reservation and the table has room. -/
def EntersTable (i : Instr) (n : BitVec 4) (post : State → Group → State → Group → MatEntry → Prop) : Prop :=
  ∀ s g tm, Ready i s g → teamOf s g.team = some tm → (g.index, n.toNat) ∈ tm.resv → (pierOf s (pierNo s.iss.cid)).table.length < 16 →
    (∀ o ∈ g.ops, o.id ≠ s.ids) →
    ∃ t h e, exec i s = .next t ∧ groupOf t s.iss.cid s.iss.slot = some h ∧ PcsPast s g h 1 ∧ h.regs = g.regs ∧ t.mem = s.mem ∧
      (pierOf t (pierNo s.iss.cid)).table = (pierOf s (pierNo s.iss.cid)).table ++ [e] ∧
      (pierOf t (pierNo s.iss.cid)).tiles = (pierOf s (pierNo s.iss.cid)).tiles ∧
      e.instr = i ∧ e.tile = nth 0 tm.tiles n.toNat ∧ e.lanes = s.iss.lanes ∧ e.cid = s.iss.cid ∧ e.slot = s.iss.slot ∧ post s g t h e ∧
      (⟨.matrixPass, { n0 := pierNo s.iss.cid }⟩ : Due) ∈ t.agenda

/-- No check of R478 fails for the lanes of E, for the A format `c`. -/
def MmaAllowed (sp : Bool) (d a b : RegIx) (lit : Word) (c : Nat) (s : State) (g : Group) (tm : Team) : Prop :=
  (∀ t, Active s t → signBound s.iss sp d b lit g t = none ∧ signMember s.iss (mmaCv lit) lit g t = none ∧ signTags s.iss sp d b lit c g t = none ∧
    descriptorBad (descOf s.iss a g t) c sp (mmaMode lit) = false ∧
    placementBad tm (descOf s.iss a g t) (logicalK c sp) (mmaMode lit) = none ∧ signMeta s.iss sp lit c g t = none) ∧
  (g.index, mmaTile lit) ∈ tm.resv

/-- MMA and MMA.SP sign a convergence register, and the last member to sign sends the operation (R258, R259, R475, R477). -/
def MmaSigns (mk : Bool → RegIx → RegIx → RegIx → Word → Instr) (sp : Bool) : Prop :=
  ∀ x d a b lit s g tm c v, let i := mk x d a b lit
    let pier := pierOf s (pierNo s.iss.cid)
    Ready i s g → teamOf s g.team = some tm → g.cv[mmaCv lit]? = some v → g.latch = none →
    (v.flags = [] → ((lanesOf s.iss.lanes).map (aFormat s.iss d lit g)).find? (fun c => !(c == 0)) = some c) → (v.flags ≠ [] → v.fmt = c) →
    MmaAllowed sp d a b lit c s g tm → pier.table.length < 16 → (mmaReuse lit = true → heldLatches s (pierNo s.iss.cid) < 8) →
    let rows := v.rows ++ (lanesOf s.iss.lanes).map fun t =>
      ⟨t, (List.range 32).map fun k => srcVal s.iss g t (d.toNat + k), (List.range (scaleRegs c sp)).map fun k => srcVal s.iss g t (b.toNat + k),
        (List.range (metaRegs c sp)).map fun k => srcVal s.iss g t (mmaMeta lit + k)⟩
    let all := v.signed ||| s.iss.lanes
    ∃ t h w, exec i s = .next t ∧ groupOf t s.iss.cid s.iss.slot = some h ∧ h.regs = g.regs ∧ PcsPast s g h 2 ∧ t.mem = s.mem ∧
      h.cv[mmaCv lit]? = some w ∧ w.members = v.members ∧
      (v.members &&& ~~~all ≠ 0#32 → w.signed = all ∧ w.rows = rows ∧ w.fmt = c ∧ w.flags = v.flags ++ [s.iss.flag] ∧ w.lit = lit ∧
        (pierOf t (pierNo s.iss.cid)).table = pier.table) ∧
      (v.members &&& ~~~all = 0#32 → w.signed = 0#32 ∧ w.flags = [] ∧ h.latch = (if mmaReuse lit then some ⟨c, rows⟩ else none) ∧
        (∃ e, (pierOf t (pierNo s.iss.cid)).table = pier.table ++ [e] ∧ e.instr = i ∧ e.lanes = all ∧ e.rows = rows ∧ e.fmt = c ∧ e.lit = lit ∧
          e.flags = v.flags ++ [s.iss.flag] ∧ e.tile = nth 0 tm.tiles (mmaTile lit)) ∧
        (⟨.matrixPass, { n0 := pierNo s.iss.cid }⟩ : Due) ∈ t.agenda)


/-- The descriptor of a TRACE or a builder command: at hand, at a multiple of 64, with no earlier access of the group unfinished or still to be
replayed (R233, R265). -/
def DescriptorAtHand (s : State) (g : Group) (a : RegIx) (u : Nat) (k : AccKind) (pa : Nat) : Prop :=
  (srcPair s.iss g u a.toNat).toNat % 64 = 0 ∧ g.ops = [] ∧ g.replayQ = [] ∧
  AtHand s (pierNo s.iss.cid) (asidOf s g) (contextOf s g).1 k g.supervisor (srcPair s.iss g u a.toNat).toNat 192 pa

/-- A TRACE of one lane is accepted (R286, R288, R289, R480): the slot BUILDING or READY and a count entry at hand, the ray joins the traversal
unit of the pier with the generation of its slot, is counted, and starts at the root under fence 0.  TRACE.EMIT also carries its ten payload
registers, and asks a pool launch and a code offset that is a multiple of 4 (R483). -/
def RayAccepted (i : Instr) (emit : Bool) (d a b : RegIx) (lit : Word) : Prop :=
  ∀ s g u pa, let p := pierNo s.iss.cid
    let ray := (List.range 8).map fun k => srcVal s.iss g u (b.toNat + k)
    let slot := pa + 64 + 64 * fieldOf lit 0 1
    let key := generationKey pa (fieldOf lit 0 1) (readNat s.mem (slot + 24) 4)
    Ready i s g → s.iss.lanes = oneLane u → u < 32 → DescriptorAtHand s g a u .read pa → (∀ r ∈ (pierOf s p).rays, r.id ≠ s.ids + 1) →
    (emit = true → (srcVal s.iss g u d.toNat).toNat % 4 = 0 ∧ ∃ l, launchOfGroup s g = some l ∧ l.kind = .pool) →
    (readNat s.mem (slot + 36) 1 = 1 ∨ readNat s.mem (slot + 36) 1 = 2) → ((find? s.rayCounts key).isSome = true ∨ s.rayCounts.length < 256) →
    hitsNothing ray = false →
    ∃ t h r, exec i s = .next t ∧ groupOf t s.iss.cid s.iss.slot = some h ∧ TakenOver s g h i 2 ∧ t.mem = s.mem ∧
      (pierOf t p).rays = (pierOf s p).rays ++ [r] ∧ r.id = s.ids + 1 ∧ r.op = s.ids ∧ r.lane = u ∧ r.ray = ray ∧ r.emit = emit ∧
      r.payload = (if emit then (List.range 10).map fun k => srcVal s.iss g u (d.toNat + k) else []) ∧
      r.accepted = true ∧ r.generation = readNat s.mem (slot + 24) 4 ∧ r.work = [.fenced 0 (readNat s.mem slot 8) none] ∧ r.best = none ∧
      look 0 t.rayCounts key = look 0 s.rayCounts key + 1 ∧ (⟨.nodeVisit, { n0 := p, n1 := r.id }⟩ : Due) ∈ t.agenda

/-- A build that R268 and R274 let start is accepted: the generation counter of the descriptor moves on, the slot is BUILDING with the generation
that was there and nothing used, no other byte of memory changes, and the builders of the die have the command. -/
def BuildStarts (i : Instr) (kind : Nat) (a : RegIx) (n : BitVec 1) (source : State → Nat → Prop) : Prop :=
  ∀ s g pa, let slot := pa + 64 + 64 * n.toNat
    let u := lowestLane s.iss.lanes
    let gen := readNat s.mem (pa + 56) 4
    Ready i s g → DescriptorAtHand s g a u .read pa → DescriptorAtHand s g a u .write pa → readNat s.mem (slot + 36) 1 = 0 → source s pa →
    checkDescriptor (readBytes s.mem pa 192) n.toNat = 0 →
    ∃ t h b, exec i s = .next t ∧ groupOf t s.iss.cid s.iss.slot = some h ∧ TakenOver s g h i 1 ∧
      readNat t.mem (pa + 56) 4 = nextGeneration gen ∧ readNat t.mem (slot + 24) 4 = gen ∧ readNat t.mem (slot + 28) 8 = 0 ∧
      readNat t.mem (slot + 36) 1 = 1 ∧
      (∀ x, ¬ (pa + 56 ≤ x ∧ x < pa + 60) → ¬ (slot + 24 ≤ x ∧ x < slot + 37) → readByte t.mem x = readByte s.mem x) ∧
      find? t.builds s.ids = some b ∧ b.kind = kind ∧ b.phase = 1 ∧ b.op = s.ids ∧ b.lanes = s.iss.lanes ∧ b.generation = gen ∧
      b.clusters = readNat s.mem (pa + 28) 4 ∧ (⟨.builderTask, { n0 := s.ids }⟩ : Due) ∈ t.agenda

/-- A command's record, started and not complete, completes without an error when `pre` holds: nothing of it stays claimed, `post` holds of the
state after, and, where its completion is not to be reported (R89), no byte of memory changes. -/
def Answers (ev : Instr) (pre : State → Rec → Prop) (post : State → Rec → State → Prop) : Prop :=
  ∀ s r, commandOf s = some r → pre s r →
    ∃ t, exec ev s = .next t ∧ recordOf t s.args.n0 s.args.n1 s.args.n2 = none ∧ post s r t ∧ (r.flags.testBit 1 = true → t.mem = s.mem)

/-- A command's record fails with a status and a detail: nothing of it stays claimed, and its queue, if ENABLED, is in ERROR with the status and the
record's number (R69, R78). -/
def Rejects (ev : Instr) (pre : State → Rec → Prop) (status : Nat) : Prop :=
  ∀ s r, commandOf s = some r → pre s r →
    ∃ t, exec ev s = .next t ∧ recordOf t s.args.n0 s.args.n1 s.args.n2 = none ∧
      ((queueOf s s.args.n0 s.args.n1).state = 1 → (queueOf t s.args.n0 s.args.n1).state = 2 ∧
        (queueOf t s.args.n0 s.args.n1).err = BitVec.ofNat 64 (status * 2 ^ 32 + s.args.n2 % 2 ^ 32))

/-- The next slot of a completion queue is free and at hand, and no entry waits before it (R77, R91). -/
def CqReady (s : State) (fn c pa : Nat) : Prop :=
  let q := cqOf s fn c
  q.waiting = [] ∧ (q.tail - q.head).toNat < ringSize q.log2 ∧
  AtHand s 0 (absAsid s fn q.asid) fn .write true (q.base.toNat + 32 * (q.tail.toNat % ringSize q.log2)) 32 pa

/-- The completion entry of a record stands at `pa` (R89): tag, queue, opcode, status, record number, scope, dies, time, detail and PHASE. -/
def EntryAt (s t : State) (pa q : Nat) (r : Rec) (status detail phase : Nat) : Prop :=
  readNat t.mem pa 4 = r.tag % 2 ^ 32 ∧ readNat t.mem (pa + 4) 2 = q % 2 ^ 16 ∧ readNat t.mem (pa + 6) 1 = r.opcode % 256 ∧
  readNat t.mem (pa + 7) 1 = status ∧ readNat t.mem (pa + 8) 4 = r.n % 2 ^ 32 ∧ readNat t.mem (pa + 12) 4 = 0 ∧
  readNat t.mem (pa + 16) 8 = s.time.toNat ∧ readNat t.mem (pa + 24) 4 = detail ∧ readNat t.mem (pa + 28) 4 = 2 ^ 31 * phase ∧
  ∀ a, ¬ (pa ≤ a ∧ a < pa + 32) → readByte t.mem a = readByte s.mem a

/-- A launch that a record hands to placement (R76, R81): it exists with the fields that `post` names, its record waits for it, and a record of it is on
the way to each of its dies; no byte of memory changes. -/
def HandsOver (ev : Instr) (pre : State → Rec → Prop) (post : State → Rec → Launch → State → Prop) : Prop :=
  ∀ s r, commandOf s = some r → pre s r →
    ∃ t l y, exec ev s = .next t ∧ launchOf t s.ids = some l ∧ l.fn = s.args.n0 ∧ l.q = s.args.n1 ∧ l.rec_ = r.n ∧ l.parent = none ∧
      l.priority = (queueOf s s.args.n0 s.args.n1).priority ∧ l.teams = [] ∧ recordOf t s.args.n0 s.args.n1 s.args.n2 = some y ∧
      y.launch = some s.ids ∧ t.mem = s.mem ∧
      (∀ d ∈ diesOfLaunch s l, (⟨.placementRecordArrival, { n0 := d, n1 := s.ids }⟩ : Due) ∈ t.agenda) ∧ post s r l t

/-- The management port answers: 20 ms have passed since reset (R26). -/
def PortOpen (s : State) : Prop := 20000000 ≤ s.time.toNat

/-- A message of the management port is answered with a code, and only the trust state changes besides. -/
def Replies (s t : State) (b : List Byte) : Prop := t.out = { s.out with replies := s.out.replies ++ [b] } ∧ t.mem = s.mem

/-- An owner command (R45, R56, R293): signed by a key of the store and allowed, it acts; otherwise, once the port answers, it changes nothing. -/
def OwnerCommand (ev : Instr) (code : Nat) (payload : State → List Byte) (allowed : State → Prop) (effect : Trust → State → Trust → Prop) : Prop :=
  ∀ s, PortOpen s →
    (s.trust.life = .operational → ownerSigned s.trust s.args.n0 (leBytes 1 code ++ payload s) s.args.sig = true → allowed s →
      ∃ t, exec ev s = .next t ∧ Replies s t [0#8] ∧ effect s.trust s t.trust) ∧
    ((s.trust.life ≠ .operational ∨ ownerSigned s.trust s.args.n0 (leBytes 1 code ++ payload s) s.args.sig = false ∨ ¬ allowed s) →
      ∃ t, exec ev s = .next t ∧ Replies s t [1#8] ∧ t.trust = s.trust)

end Sys2Proof.Machine

section
open Sys2Proof Sys2Proof.Machine

/-! ## Encodings, steps and reset -/

/-- R333, R341 to R345, R351: words written out from the encodings of the spec decode to the instructions they stand for. -/
def Obligations.WordsDecode : Prop :=
  decode 0x00810286#32 0#32 = .ok (.iaddS32 false 4#7 5#7 6#7) ∧ decode 0x02C04000#32 1#32 = .ok (.andB32Lit false 1#7 0#7 1#32) ∧
  decode 0x20010400#32 0x51#32 = .ok (.cvt false 4#7 8#7 0x51#32) ∧ decode 0x28082000#32 0x28#32 = .ok (.packMx false 0#3 32#7 64#7 0x28#32) ∧
  decode 0x30E1031A#32 0#32 = .ok (.ldAcq false 4#7 6#7 3#4 2#3) ∧
  decode 0x3222014A#32 0x80000080#32 = .ok (.ldsLit false 8#7 2#7 1#1 1#3 2#3 0x80000080#32) ∧
  decode 0x40010308#32 0#32 = .ok (.atom32 false 0#4 4#7 6#7 8#7) ∧ decode 0x48600003#32 0#32 = .ok (.commitRel false 3#3) ∧
  decode 0x50001400#32 0x03020000#32 = .ok (.mma false 0#7 40#7 0#7 0x03020000#32) ∧ decode 0x60050308#32 0#32 = .ok (.trace false 20#7 6#7 8#7 0#32) ∧
  decode 0x70600080#32 0xA#32 = .ok (.brnz false 1#7 0xA#32) ∧ decode 0x78000000#32 0#32 = .ok (.rdsys false 0#7 0#7) ∧
  decode 0xF0200000#32 0#32 = .ok (.exit true)

/-- R341 to R345, R351: every well-formed instruction decodes from its encoding, whatever the next word is when it has no literal, and the length the
opcode gives is the length of its encoding. -/
def Obligations.DecodeEncodeRoundTrip : Prop :=
  ∀ i w l, i.wellFormed = true → (encode i = [w] ∨ encode i = [w, l]) → (∀ v, i ≠ .unallocatedOpcode v) →
    decode w l = .ok i ∧ wordCount w = (encode i).length ∧ opAllocated (wordOp w).toNat = true

/-- R341, R342, R345, R351: a word decodes to nothing but the instruction whose encoding it is, and is an illegal opcode exactly when no description
lists its opcode. -/
def Obligations.DecodedWordsAreEncodings : Prop :=
  (∀ w l i, decode w l = .ok i → i.wellFormed = true ∧ encode i = if wordCount w = 2 then [w, l] else [w]) ∧
  (∀ w l, decode w l = .illegalOpcode ↔ opAllocated (wordOp w).toNat = false)

/-- R126, R130, R334, R337, R350, R351: when one core holds the one group that can issue, nothing else is due, and the word at the PC of its chosen thread
decodes, a step runs the decoded instruction on the threads that share that PC, at most eight being unfinished, with its literal from the word behind.  A
group that waits as a whole, for register growth or for room in an engine, and an access that a region makes wait for a translation do not issue. -/
def Obligations.StepRunsDecoded : Prop :=
  ∀ s cid slot g u h hw w lit i s3, let s2 := prelude_ (passTime s)
    let s1 : State := { s2 with free := s2.free + 1 }
    let th := threadOf g u
    let cyc := (coreOf s2 cid).cycle + 1
    let n := (th.pc.toNat - h.toNat) / 4 + wordCount w - 1
    let iss : Issue := { Issue.none with
      cid := cid, slot := slot, lanes := sharers g u, pc := th.pc, header := h, headerWord := hw, word := w, lit := lit,
      last := n == headerCount hw, flag := if holdsFlag i then flagFor i hw else noFlag }
    s.platform.powered = true → s2.timers = [] → s2.agenda = [] → s2.trust.life ≠ .selfTest → runningCores s2 = [cid] → (coreOf s2 cid).second = none →
    issueOrder s1 cid cyc false = [slot] → groupOf s2 cid slot = some g → g.stop = none → g.exitedWhole = false → groupHeld g = false → g.replayQ = [] →
    chooseLane g = some u → th.clause = some (h, hw) → wordStop w = false → decode w lit = .ok i →
    (if wordCount w = 2 then ∃ s', fetchWord s1 cid g th.pc = .word w s' ∧ fetchWord s' cid g (th.pc + 4) = .word lit s3
      else lit = 0#32 ∧ fetchWord s1 cid g th.pc = .word w s3) →
    opAllocated (wordOp w).toNat = true → (headerClass hw = 7 ∨ headerClass hw = opClass (wordOp w).toNat) → n ≤ headerCount hw →
    (opEndsClause (wordOp w).toNat = true → n = headerCount hw) → interlocked g i (sharers g u) iss.flag = false →
    regionHeld { s3 with iss := iss } g i = none →
    step s = exec i (beginIssue s3 cid slot cyc false g iss)

/-- R9, R51, R60: a step runs the step of the part that is due: the earliest timer that has run out, or, with no core to issue, what the agenda holds; and
without power only a power-on happens. -/
def Obligations.StepRunsDue : Prop :=
  (∀ s, ∃ k, passTime s = { s with time := s.time + BitVec.ofNat 64 (k + 1), free := s.free + 1 }) ∧
  (∀ s d, let s2 := prelude_ (passTime s)
    s.platform.powered = true → s2.timers.find? (fun t => decide (t.at_ ≤ now s2)) = none → s2.agenda = [d] → runningCores s2 = [] →
    s2.trust.life ≠ .selfTest → encode d.step = [] →
    step s = exec d.step { s2 with free := s2.free + 1, agenda := [], args := d.args }) ∧
  (∀ s t, let s2 := prelude_ (passTime s)
    s.platform.powered = true → s2.timers.find? (fun t => decide (t.at_ ≤ now s2)) = some t → encode t.due.step = [] →
    step s = exec t.due.step { s2 with timers := removeOne t s2.timers, args := t.due.args }) ∧
  (∀ s, s.platform.powered = false → (∀ d ∈ s.agenda, d.step ≠ .powerOnReset) → step s = .next (passTime s)) ∧
  (∀ s d, s.platform.powered = false → s.agenda = [d] → d.step = .powerOnReset →
    step s = exec .powerOnReset { passTime s with agenda := [], args := d.args })

/-- Every step keeps memory in its canonical form, addresses strictly rising and no entry of zero, so that equal memories are equal lists.  The form is the
model's own (log entry 2); R164 gives the address space it covers. -/
def Obligations.MemoryStaysCanonical : Prop :=
  ∀ s t, Memory.wf s.mem = true → step s = .next t → Memory.wf t.mem = true

/-- R49, R51, R53, R63, R66, R67, R112, R157, R196, R244, R293, R308: the machine right after power-on reset: in SELF_TEST, with time and measurements
zero, every token at home, nothing resident or due, and the registers of BAR 0 at the values the spec gives.  That memory lists nothing is log entry 2. -/
def Obligations.ResetValues : Prop :=
  let s := State.reset
  s.trust.life = .selfTest ∧ s.time = 0#64 ∧ (∀ m ∈ s.trust.measures, m = List.replicate 32 0#8) ∧ (∀ line, lineOf s line = LineRec.atHome) ∧
  s.teams = [] ∧ s.launches = [] ∧ s.agenda = [] ∧ Memory.wf s.mem = true ∧ (∀ a, readByte s.mem a = 0#8) ∧ (∀ c, (coreOf s c).groups = []) ∧
  (∀ q, q < 4096 → readRegister s 0 (0x100008 + 64 * q) = 0x0000030000000000#64) ∧
  (∀ c, c < 4096 → readRegister s 0 (0x140008 + 32 * c) = 0x0001000100000000#64) ∧
  readRegister s 0 0x1000 = 0x0010000000010000#64 ∧ readRegister s 0 0x200000 = 0x801#64 ∧ readRegister s 0 0x300008 = 0x000003E800000000#64 ∧
  readRegister s 0 0x600000 = 0#64 ∧ readRegister s 0 0x600108 = 0x00000000FFFFFFFF#64 ∧ readRegister s 0 0x100 = 0#64

/-! ## Integer instructions (R367 to R371) -/

/-- R367, R368, R250: the 32-bit integer, logical and shift instructions with two register sources. -/
def Claims.IntegerBinary : Prop :=
  Binary .iaddS32 (fun p q => p + q) ∧
  Binary .isubS32 (fun p q => p - q) ∧
  Binary .imulS32 (fun p q => p * q) ∧
  Binary .imulhiS32 (fun p q => BitVec.ofInt 32 (p.toInt * q.toInt / 2 ^ 32)) ∧
  Binary .imulhiN32 (fun p q => BitVec.ofNat 32 (p.toNat * q.toNat / 2 ^ 32)) ∧
  Binary .iaddS32Sat (fun p q => BitVec.ofInt 32 (max (-2147483648) (min 2147483647 (p.toInt + q.toInt)))) ∧
  Binary .isubS32Sat (fun p q => BitVec.ofInt 32 (max (-2147483648) (min 2147483647 (p.toInt - q.toInt)))) ∧
  Binary .iminS32 (fun p q => if p.toInt ≤ q.toInt then p else q) ∧
  Binary .imaxS32 (fun p q => if p.toInt ≤ q.toInt then q else p) ∧
  Binary .iminN32 (fun p q => if p.toNat ≤ q.toNat then p else q) ∧
  Binary .imaxN32 (fun p q => if p.toNat ≤ q.toNat then q else p) ∧
  Binary .andB32 (fun p q => p &&& q) ∧
  Binary .orB32 (fun p q => p ||| q) ∧
  Binary .xorB32 (fun p q => p ^^^ q) ∧
  Binary .andnB32 (fun p q => p &&& ~~~q) ∧
  Binary .shlB32 (fun p q => if 32 ≤ q.toNat then 0#32 else p <<< q.toNat) ∧
  Binary .shrN32 (fun p q => if 32 ≤ q.toNat then 0#32 else p >>> q.toNat) ∧
  Binary .shrS32 (fun p q => if 32 ≤ q.toNat then (if p.toInt < 0 then 0xFFFFFFFF#32 else 0#32) else p.sshiftRight q.toNat)

/-- R367, R368, R343: the 32-bit integer instructions with one register source, an immediate or a literal. -/
def Claims.IntegerUnary : Prop :=
  Unary .inegS32 (fun p => 0#32 - p) ∧
  Unary .iabsS32 (fun p => if p.toInt < 0 then 0#32 - p else p) ∧
  Unary .notB32 (fun p => ~~~p) ∧
  UnaryImm .iaddS32Imm (fun p i => p + i.signExtend 32) ∧
  UnaryImm .shlB32Imm (fun p i => if 32 ≤ i.toNat then 0#32 else p <<< i.toNat) ∧
  UnaryImm .shrN32Imm (fun p i => if 32 ≤ i.toNat then 0#32 else p >>> i.toNat) ∧
  UnaryImm .shrS32Imm (fun p i => if 32 ≤ i.toNat then (if p.toInt < 0 then 0xFFFFFFFF#32 else 0#32) else p.sshiftRight i.toNat) ∧
  UnaryLit .iaddS32Lit (fun p l => p + l) ∧
  UnaryLit .imulS32Lit (fun p l => p * l) ∧
  UnaryLit .andB32Lit (fun p l => p &&& l) ∧
  UnaryLit .orB32Lit (fun p l => p ||| l) ∧
  UnaryLit .xorB32Lit (fun p l => p ^^^ l) ∧
  (∀ x d a b, Completes (.imadS32 x d a b) 1 fun s g t =>
    [(d.toNat, ⟨srcVal s.iss g t d.toNat + srcVal s.iss g t a.toNat * srcVal s.iss g t b.toNat, 12#4⟩)])

/-- R367, R368, R370, R371: the 64-bit integer instructions and LEA. -/
def Claims.Integer64 : Prop :=
  Binary64 .iaddS64 (fun p q => p + q) ∧
  Binary64 .isubS64 (fun p q => p - q) ∧
  (∀ x d a lit, Completes (.iaddS64Lit x d a lit) 2 fun s g t => pairWrites d (srcPair s.iss g t a.toNat + lit.signExtend 64)) ∧
  Unary64Imm .shlB64 (fun p i => if 64 ≤ i.toNat then 0#64 else p <<< i.toNat) ∧
  Unary64Imm .shrN64 (fun p i => if 64 ≤ i.toNat then 0#64 else p >>> i.toNat) ∧
  Unary64Imm .shrS64 (fun p i => if 64 ≤ i.toNat then (if p.toInt < 0 then BitVec.allOnes 64 else 0#64) else p.sshiftRight i.toNat) ∧
  (∀ x d a b, Completes (.imulwS32 x d a b) 1 fun s g t =>
    pairWrites d (BitVec.ofInt 64 ((srcVal s.iss g t a.toNat).toInt * (srcVal s.iss g t b.toNat).toInt))) ∧
  (∀ x d a b, Completes (.imulwN32 x d a b) 1 fun s g t =>
    pairWrites d (BitVec.ofNat 64 ((srcVal s.iss g t a.toNat).toNat * (srcVal s.iss g t b.toNat).toNat))) ∧
  (∀ x d a b lit, Completes (.leaS32 x d a b lit) 2 fun s g t =>
    pairWrites d (srcPair s.iss g t a.toNat + ((srcVal s.iss g t b.toNat).signExtend 64 <<< (lit.extractLsb' 0 3).toNat))) ∧
  (∀ x d a b lit, Completes (.leaN32 x d a b lit) 2 fun s g t =>
    pairWrites d (srcPair s.iss g t a.toNat + ((srcVal s.iss g t b.toNat).setWidth 64 <<< (lit.extractLsb' 0 3).toNat)))

/-- R369: the legal field literals, and what each bit of BFX and BFI is. -/
def Claims.BitFields : Prop :=
  UnaryLit .bfxN32 extractField ∧ UnaryLit .bfxS32 extractSigned ∧
  (∀ x d a lit, Completes (.bfiB32 x d a lit) 2 fun s g t =>
    [(d.toNat, ⟨insertField (srcVal s.iss g t d.toNat) (srcVal s.iss g t a.toNat) lit, 12#4⟩)]) ∧
  (∀ (old p lit : Word), fieldLiteralOk lit = true → ∀ k, k < 32 →
    let pos := (lit.extractLsb' 0 5).toNat
    let width := (lit.extractLsb' 8 6).toNat
    (extractField p lit).getLsbD k = (decide (k < width) && p.getLsbD (pos + k)) ∧
    (extractSigned p lit).getLsbD k = (if k < width then p.getLsbD (pos + k) else p.getLsbD (pos + width - 1)) ∧
    (insertField old p lit).getLsbD k = (if pos ≤ k ∧ k < pos + width then p.getLsbD (k - pos) else old.getLsbD k))

/-- R367: population count, leading zeros and bit reversal, with what each result says of the bits of its source. -/
def Claims.BitCounts : Prop :=
  Unary .popcB32 (fun p => BitVec.ofNat 32 (popcount p)) ∧ Unary .clzB32 (fun p => BitVec.ofNat 32 (leadingZeros p)) ∧
  Unary .brevB32 reverseBits ∧
  (∀ p : Word, popcount p = ((List.range 32).map fun k => if p.getLsbD k then 1 else 0).sum) ∧
  (∀ p : Word, leadingZeros p ≤ 32 ∧ (∀ k, 32 - leadingZeros p ≤ k → p.getLsbD k = false) ∧
    (p ≠ 0#32 → p.getLsbD (31 - leadingZeros p) = true)) ∧
  (∀ (p : Word) (k : Nat), k < 32 → (reverseBits p).getLsbD k = p.getLsbD (31 - k))

/-- R250, R367, R373: moves keep the tag of what they move, a literal is tagged RAW, and a select takes its value with its tag. -/
def Claims.Moves : Prop :=
  (∀ x d a, Completes (.movB32 x d a) 1 fun s g t => [(d.toNat, srcReg s.iss g t a.toNat)]) ∧
  (∀ x d a, Completes (.movB64 x d a) 1 fun s g t => [(d.toNat, srcReg s.iss g t a.toNat), (d.toNat + 1, srcReg s.iss g t (a.toNat + 1))]) ∧
  (∀ x d lit, Completes (.movB32Lit x d lit) 2 fun _ _ _ => [(d.toNat, ⟨lit, 0#4⟩)]) ∧
  (∀ x d lit, Completes (.movS64Lit x d lit) 2 fun _ _ _ =>
    [(d.toNat, ⟨lit, 0#4⟩), (d.toNat + 1, ⟨if lit.toInt < 0 then 0xFFFFFFFF#32 else 0#32, 0#4⟩)]) ∧
  (∀ x d a b, Completes (.selB32 x d a b) 1 fun s g t =>
    [(d.toNat, if srcVal s.iss g t d.toNat ≠ 0#32 then srcReg s.iss g t a.toNat else srcReg s.iss g t b.toNat)]) ∧
  (∀ x d a b, Completes (.selB64 x d a b) 1 fun s g t =>
    if srcVal s.iss g t d.toNat ≠ 0#32 then [(d.toNat, srcReg s.iss g t a.toNat), (d.toNat + 1, srcReg s.iss g t (a.toNat + 1))]
    else [(d.toNat, srcReg s.iss g t b.toNat), (d.toNat + 1, srcReg s.iss g t (b.toNat + 1))]) ∧
  (∀ x d a k, Completes (.tag x d a k) 1 fun s g t => [(d.toNat, ⟨srcVal s.iss g t a.toNat, k⟩)]) ∧
  (∀ x d a, Completes (.rdtag x d a) 1 fun s g t => [(d.toNat, ⟨BitVec.ofNat 32 (srcReg s.iss g t a.toNat).tag.toNat, 12#4⟩)])

/-- R372: the integer compares. -/
def Claims.Compares : Prop :=
  (∀ x c d a b, Completes (.icmpS32 x c d a b) 1 fun s g t =>
    [(d.toNat, truth (compares c.toNat (srcVal s.iss g t a.toNat).toInt (srcVal s.iss g t b.toNat).toInt))]) ∧
  (∀ x c d a b, Completes (.icmpN32 x c d a b) 1 fun s g t =>
    [(d.toNat, truth (compares c.toNat (srcVal s.iss g t a.toNat).toNat (srcVal s.iss g t b.toNat).toNat))]) ∧
  (∀ x c d a lit, Completes (.icmpS32Lit x c d a lit) 2 fun s g t =>
    [(d.toNat, truth (compares c.toNat (srcVal s.iss g t a.toNat).toInt lit.toInt))]) ∧
  (∀ x d a b, Completes (.icmpEqB64 x d a b) 1 fun s g t =>
    [(d.toNat, truth (decide (srcPair s.iss g t a.toNat = srcPair s.iss g t b.toNat)))]) ∧
  (∀ x d a b, Completes (.icmpLtS64 x d a b) 1 fun s g t =>
    [(d.toNat, truth (decide ((srcPair s.iss g t a.toNat).toInt < (srcPair s.iss g t b.toNat).toInt)))]) ∧
  (∀ x d a b, Completes (.icmpLtN64 x d a b) 1 fun s g t =>
    [(d.toNat, truth (decide ((srcPair s.iss g t a.toNat).toNat < (srcPair s.iss g t b.toNat).toNat)))])

/-! ## Group operations (R374 to R377) -/

/-- R374, R375, R376: votes, shuffles and MATCH over the lanes E that execute the instruction. -/
def Claims.VotesAndShuffles : Prop :=
  (∀ x d a, Completes (.voteBallot x d a) 1 fun s g _ =>
    [(d.toNat, ⟨laneSet ((lanesOf s.iss.lanes).filter fun u => srcVal s.iss g u a.toNat != 0#32), 12#4⟩)]) ∧
  (∀ x d a, Completes (.voteAny x d a) 1 fun s g _ =>
    [(d.toNat, truth (decide (∃ u ∈ lanesOf s.iss.lanes, srcVal s.iss g u a.toNat ≠ 0#32)))]) ∧
  (∀ x d a, Completes (.voteAll x d a) 1 fun s g _ =>
    [(d.toNat, truth (decide (∀ u ∈ lanesOf s.iss.lanes, srcVal s.iss g u a.toNat ≠ 0#32)))]) ∧
  (∀ x d a b, Completes (.shflIdx x d a b) 1 fun s g t => [(d.toNat, Shuffled s g a t (srcVal s.iss g t b.toNat).toNat)]) ∧
  (∀ x d a b, Completes (.shflUp x d a b) 1 fun s g t => [(d.toNat, Shuffled s g a t ((t : Int) - (srcVal s.iss g t b.toNat).toNat))]) ∧
  (∀ x d a b, Completes (.shflDown x d a b) 1 fun s g t => [(d.toNat, Shuffled s g a t ((t : Int) + (srcVal s.iss g t b.toNat).toNat))]) ∧
  (∀ x d a b, Completes (.shflXor x d a b) 1 fun s g t => [(d.toNat, Shuffled s g a t (t ^^^ (srcVal s.iss g t b.toNat).toNat : Nat))]) ∧
  (∀ x d a i, Completes (.shflDownImm x d a i) 1 fun s g t => [(d.toNat, Shuffled s g a t ((t : Int) + i.toNat))]) ∧
  (∀ x d a i, Completes (.shflXorImm x d a i) 1 fun s g t => [(d.toNat, Shuffled s g a t (t ^^^ i.toNat : Nat))]) ∧
  (∀ x d a, Completes (.matchB32 x d a) 1 fun s g t =>
    [(d.toNat, ⟨laneSet ((lanesOf s.iss.lanes).filter fun u => srcVal s.iss g u a.toNat == srcVal s.iss g t a.toNat), 12#4⟩)])

/-- R377: GRED gives every lane of E the combination of the values of all lanes of E. -/
def Claims.GroupReductions : Prop :=
  ∀ x d a o, Completes (.gred x d a o) 1 fun s g _ =>
    let vs := (lanesOf s.iss.lanes).map fun u => srcVal s.iss g u a.toNat
    [(d.toNat, ⟨if o = 0#3 then vs.foldl (· + ·) 0#32
      else if o = 1#3 then vs.foldl (fun p q => if p.toInt ≤ q.toInt then p else q) 0x7FFFFFFF#32
      else if o = 2#3 then vs.foldl (fun p q => if p.toInt ≤ q.toInt then q else p) 0x80000000#32
      else if o = 3#3 then vs.foldl (fun p q => if p.toNat ≤ q.toNat then p else q) 0xFFFFFFFF#32
      else if o = 4#3 then vs.foldl (fun p q => if p.toNat ≤ q.toNat then q else p) 0#32
      else if o = 5#3 then vs.foldl (· &&& ·) 0xFFFFFFFF#32
      else if o = 6#3 then vs.foldl (· ||| ·) 0#32
      else vs.foldl (· ^^^ ·) 0#32, 12#4⟩)]


/-- R382: the indexed moves take or write the register that the index names, when it is one the group holds. -/
def Claims.IndexedMoves : Prop :=
  (∀ x d a, CompletesWhen (.movxRd x d a) 1
    (fun s g => ∀ t, Active s t → (srcVal s.iss g t a.toNat).toNat < 8 * g.granules) fun s g t =>
    [(d.toNat, regOf g t (srcVal s.iss g t a.toNat).toNat)]) ∧
  (∀ x d a, CompletesWhen (.movxWr x d a) 1
    (fun s g => (∀ t, Active s t → (srcVal s.iss g t d.toNat).toNat < 8 * g.granules) ∧
      indexLogFull false g s.iss.lanes (fun t => (srcVal s.iss g t d.toNat).toNat) = 0#32) fun s g t =>
    [((srcVal s.iss g t d.toNat).toNat, srcReg s.iss g t a.toNat)]) ∧
  (∀ x d a, CompletesWhen (.movxRdB64 x d a) 1
    (fun s g => ∀ t, Active s t → (srcVal s.iss g t a.toNat).toNat % 2 = 0 ∧ (srcVal s.iss g t a.toNat).toNat < 8 * g.granules) fun s g t =>
    let k := (srcVal s.iss g t a.toNat).toNat
    [(d.toNat, regOf g t k), (d.toNat + 1, regOf g t (k + 1))]) ∧
  (∀ x d a, CompletesWhen (.movxWrB64 x d a) 1
    (fun s g => (∀ t, Active s t → (srcVal s.iss g t d.toNat).toNat % 2 = 0 ∧ (srcVal s.iss g t d.toNat).toNat < 8 * g.granules) ∧
      indexLogFull true g s.iss.lanes (fun t => (srcVal s.iss g t d.toNat).toNat) = 0#32) fun s g t =>
    let k := (srcVal s.iss g t d.toNat).toNat
    [(k, srcReg s.iss g t a.toNat), (k + 1, srcReg s.iss g t (a.toNat + 1))])

/-! ## Floating point and conversions (R312 to R318, R395 to R409) -/

/-- R395, R396, R314: FP32 arithmetic is exact and rounded once in the mode of the instruction. -/
def Claims.FloatArithmetic : Prop :=
  FpBinary .faddF32 addVal ∧
  FpBinary .fsubF32 (fun m p q => addVal m p (negVal q)) ∧
  FpBinary .fmulF32 (fun _ => mulVal) ∧
  (∀ x r d a b, Completes (.ffmaF32 x r d a b) 1 fun s g t =>
    [(d.toNat, ⟨toF32 (rmode r.toNat) (addVal (rmode r.toNat)
      (mulVal (f32 (srcVal s.iss g t a.toNat)) (f32 (srcVal s.iss g t b.toNat))) (f32 (srcVal s.iss g t d.toNat))), 1#4⟩)]) ∧
  FpLit .faddF32Lit (addVal .rne) ∧
  FpLit .fmulF32Lit mulVal ∧
  (∀ x d a, Completes (.fnegF32 x d a) 1 fun s g t => [(d.toNat, ⟨srcVal s.iss g t a.toNat ^^^ 0x80000000#32, 1#4⟩)]) ∧
  (∀ x d a, Completes (.fabsF32 x d a) 1 fun s g t => [(d.toNat, ⟨srcVal s.iss g t a.toNat &&& 0x7FFFFFFF#32, 1#4⟩)]) ∧
  (∀ x r d a, Completes (.frintF32 x r d a) 1 fun s g t =>
    let v := srcVal s.iss g t a.toNat
    [(d.toNat, ⟨match f32 v with
      | .nan => 0x7FC00000#32
      | .inf _ => v
      | .fin neg m e =>
        let n := if 0 ≤ e then m * 2 ^ e.toNat else roundShift (rmode r.toNat) neg m (-e).toNat false
        toF32 .rne (.fin neg n 0), 1#4⟩)])

/-- R312, R313, R396: what the exact operations and the roundings mean: an integer rounding meets the definition of its mode, a product and a
sum of finite values are the exact ones, and a NaN gives the canonical NaN. -/
def Obligations.ExactThenRounded : Prop :=
  (∀ mode neg m k, RoundedTo mode neg m k (roundShift mode neg m k false)) ∧
  (∀ a b m n i j, mulVal (.fin a m i) (.fin b n j) = .fin (xor a b) (m * n) (i + j)) ∧
  (∀ mode a b m n i j, ∃ c p k, addVal mode (.fin a m i) (.fin b n j) = .fin c p k ∧
    ∀ base, base ≤ min i j → base ≤ k → scaled base c p k = scaled base a m i + scaled base b n j) ∧
  (∀ mode v, toF32 mode .nan = 0x7FC00000#32 ∧ addVal mode .nan v = .nan ∧ addVal mode v .nan = .nan ∧ mulVal .nan v = .nan ∧
    mulVal v .nan = .nan) ∧
  (∀ m e a b, mulVal (.inf a) (.fin b m e) = (if m = 0 then .nan else .inf (xor a b)) ∧ addVal .rne (.inf a) (.inf (!a)) = .nan) ∧
  (∀ w : Word, f32 w = .nan ↔ w.extractLsb' 23 8 = 0xFF#8 ∧ w.extractLsb' 0 23 ≠ 0#23)

/-- R397: minimum, maximum, comparison and classification. -/
def Claims.FloatComparesAndClasses : Prop :=
  (∀ x d a b, Completes (.fminF32 x d a b) 1 fun s g t =>
    [(d.toNat, ⟨BitVec.ofNat 32 (fminmaxEnc fp32 false (srcVal s.iss g t a.toNat).toNat (srcVal s.iss g t b.toNat).toNat), 1#4⟩)]) ∧
  (∀ x d a b, Completes (.fmaxF32 x d a b) 1 fun s g t =>
    [(d.toNat, ⟨BitVec.ofNat 32 (fminmaxEnc fp32 true (srcVal s.iss g t a.toNat).toNat (srcVal s.iss g t b.toNat).toNat), 1#4⟩)]) ∧
  (∀ x c d a b, Completes (.fcmpF32 x c d a b) 1 fun s g t =>
    [(d.toNat, truth (fcmpVal (c.toNat - 4) (f32 (srcVal s.iss g t a.toNat)) (f32 (srcVal s.iss g t b.toNat))))]) ∧
  (∀ x d a b, Completes (.fcmpUnordF32 x d a b) 1 fun s g t =>
    [(d.toNat, truth ((f32 (srcVal s.iss g t a.toNat)).isNan || (f32 (srcVal s.iss g t b.toNat)).isNan))]) ∧
  (∀ x d a, Completes (.fclassF32 x d a) 1 fun s g t => [(d.toNat, ⟨fclassOf (srcVal s.iss g t a.toNat), 12#4⟩)]) ∧
  (∀ (maxi : Bool) (p q : Word), let r := BitVec.ofNat 32 (fminmaxEnc fp32 maxi p.toNat q.toNat)
    if (f32 p).isNan || (f32 q).isNan then r = 0x7FC00000#32
    else (r = p ∨ r = q) ∧ (∀ v, v = p ∨ v = q → cmpVal (f32 r) (f32 v) ≠ if maxi then .lt else .gt)) ∧
  (∀ p q : Val, (p.isNan || q.isNan) = true → ∀ c, c < 6 → fcmpVal c p q = decide (c = 1)) ∧
  (∀ w : Word, ∃ k, k < 10 ∧ fclassOf w = 1#32 <<< k ∧
    (k = 0 ↔ w = 0xFF800000#32) ∧ (k = 7 ↔ w = 0x7F800000#32) ∧ (k = 3 ↔ w = 0x80000000#32) ∧ (k = 4 ↔ w = 0#32) ∧
    (k = 8 ∨ k = 9 ↔ f32 w = .nan) ∧ (k = 9 ↔ f32 w = .nan ∧ w.getLsbD 22 = true))

/-- R398: group reductions of FP32 values; the exact sum does not depend on the order of the values. -/
def Claims.FloatGroupReductions : Prop :=
  (∀ x d a, Completes (.fgredAddF32 x d a) 1 fun s g _ =>
    [(d.toNat, ⟨toF32 .rne (sumVals ((lanesOf s.iss.lanes).map fun u => f32 (srcVal s.iss g u a.toNat))), 1#4⟩)]) ∧
  (∀ x d a, Completes (.fgredMinF32 x d a) 1 fun s g _ =>
    [(d.toNat, ⟨BitVec.ofNat 32 (((lanesOf s.iss.lanes).map fun u => (srcVal s.iss g u a.toNat).toNat).foldl (fminmaxEnc fp32 false)
      (srcVal s.iss g (lowestLane s.iss.lanes) a.toNat).toNat), 1#4⟩)]) ∧
  (∀ x d a, Completes (.fgredMaxF32 x d a) 1 fun s g _ =>
    [(d.toNat, ⟨BitVec.ofNat 32 (((lanesOf s.iss.lanes).map fun u => (srcVal s.iss g u a.toNat).toNat).foldl (fminmaxEnc fp32 true)
      (srcVal s.iss g (lowestLane s.iss.lanes) a.toNat).toNat), 1#4⟩)]) ∧
  (∀ p q : List Val, p.Perm q → sumVals p = sumVals q)

/-- R311, R399: packed FP16 and BF16. -/
def Claims.PackedHalves : Prop :=
  Packed .hadd (fun f p q => roundVal f .rne false (addVal .rne (valueOf f p) (valueOf f q))) ∧
  Packed .hsub (fun f p q => roundVal f .rne false (addVal .rne (valueOf f p) (negVal (valueOf f q)))) ∧
  Packed .hmul (fun f p q => roundVal f .rne false (mulVal (valueOf f p) (valueOf f q))) ∧
  Packed .hmin (fun f => fminmaxEnc f false) ∧
  Packed .hmax (fun f => fminmaxEnc f true) ∧
  (∀ x k d a b, Completes (.hfma x k d a b) 1 fun s g t =>
    let f := if k = 0#1 then fp16 else bf16
    let el := fun (v n : Nat) => valueOf f ((srcVal s.iss g t v).extractLsb' (16 * n) 16).toNat
    let out := fun (n : Nat) => roundVal f .rne false (addVal .rne (mulVal (el a.toNat n) (el b.toNat n)) (el d.toNat n))
    [(d.toNat, ⟨BitVec.ofNat 16 (out 1) ++ BitVec.ofNat 16 (out 0), if k = 0#1 then 2#4 else 3#4⟩)]) ∧
  (∀ x k d a, Completes (.hneg x k d a) 1 fun s g t =>
    [(d.toNat, ⟨srcVal s.iss g t a.toNat ^^^ 0x80008000#32, if k = 0#1 then 2#4 else 3#4⟩)]) ∧
  (∀ x k d a, Completes (.habs x k d a) 1 fun s g t =>
    [(d.toNat, ⟨srcVal s.iss g t a.toNat &&& 0x7FFF7FFF#32, if k = 0#1 then 2#4 else 3#4⟩)])

/-- R315, R400: the functions complete, with the special cases of the table of R315 in every mode. -/
def Claims.RoundedFunctions : Prop :=
  FpFunction .rcpF32 (functionOf 0) ∧ FpFunction .sqrtF32 (functionOf 1) ∧ FpFunction .rsqF32 (functionOf 2) ∧
  FpFunction .exp2F32 (functionOf 3) ∧ FpFunction .log2F32 (functionOf 4) ∧ FpFunction .sinF32 (functionOf 5) ∧
  FpFunction .cosF32 (functionOf 6) ∧
  (∀ mode (w : Word), (∀ k, k < 7 → f32 w = .nan → functionOf k mode w = 0x7FC00000#32) ∧
    (w = 0#32 → functionOf 0 mode w = 0x7F800000#32 ∧ functionOf 1 mode w = w ∧ functionOf 2 mode w = 0x7F800000#32 ∧
      functionOf 4 mode w = 0xFF800000#32 ∧ functionOf 5 mode w = w ∧ functionOf 6 mode w = 0x3F800000#32) ∧
    (w = 0x80000000#32 → functionOf 0 mode w = 0xFF800000#32 ∧ functionOf 1 mode w = w ∧ functionOf 2 mode w = 0xFF800000#32 ∧
      functionOf 4 mode w = 0xFF800000#32 ∧ functionOf 5 mode w = w ∧ functionOf 6 mode w = 0x3F800000#32) ∧
    (w = 0x7F800000#32 → functionOf 0 mode w = 0#32 ∧ functionOf 1 mode w = w ∧ functionOf 2 mode w = 0#32 ∧ functionOf 3 mode w = w ∧
      functionOf 4 mode w = w ∧ functionOf 5 mode w = 0x7FC00000#32 ∧ functionOf 6 mode w = 0x7FC00000#32) ∧
    (w = 0xFF800000#32 → functionOf 0 mode w = 0x80000000#32 ∧ functionOf 3 mode w = 0#32 ∧ functionOf 5 mode w = 0x7FC00000#32 ∧
      functionOf 6 mode w = 0x7FC00000#32) ∧
    (0x80000000#32 < w → w ≤ 0xFF800000#32 → functionOf 1 mode w = 0x7FC00000#32 ∧ functionOf 2 mode w = 0x7FC00000#32 ∧
      functionOf 4 mode w = 0x7FC00000#32))

/-- R401 to R405, R393: CVT converts N = max(nf, nt) elements, element i from register a + ⌊i / nf⌋ to register d + ⌊i / nt⌋, when the sources
carry the tag that an element or scale kind asks for. -/
def Claims.Conversions : Prop :=
  (∀ x d a lit,
    let from_ := (lit.extractLsb' 0 4).toNat
    let toward := (lit.extractLsb' 4 4).toNat
    let nf := tagElems from_
    let nt := tagElems toward
    CompletesWhen (.cvt x d a lit) 2
      (fun s g => ((5 ≤ from_ ∧ from_ ≤ 11) ∨ from_ = 13 ∨ from_ = 14) →
        Tagged ((List.range (max nf nt / nf)).map fun k => (a.toNat + k, BitVec.ofNat 4 from_)) s g)
      fun s g t => (List.range (max nf nt / nt)).map fun r =>
        (d.toNat + r, ⟨packElems toward ((List.range nt).map fun j =>
          let i := r * nt + j
          convertElem toward (rmode (lit.extractLsb' 8 2).toNat) (lit.getLsbD 10) (lit.getLsbD 11)
            (elemVal from_ (lit.getLsbD 11) (elemOf from_ (srcVal s.iss g t (a.toNat + i / nf)) (i % nf)))), BitVec.ofNat 4 toward⟩)) ∧
  (∀ k, k ∈ [1, 2, 3, 5, 6, 7, 8, 9, 10, 11, 12, 13, 14] → tagElems k =
    if k = 1 ∨ k = 12 then 1 else if k = 2 ∨ k = 3 then 2 else if k = 9 ∨ k = 11 then 8 else 4)

/-- R317, R318, R329, R404: a conversion of a narrow value to FP32 and back gives the value it started from, in every mode; the NaN of a format
with one gives its canonical NaN. -/
def Claims.NarrowValuesSurviveFp32 : Prop :=
  ∀ mode sat k c, k ∈ [5, 6, 7, 8, 9, 10, 11] → c < 2 ^ (if k = 9 ∨ k = 11 then 4 else if k = 7 ∨ k = 8 then 6 else 8) →
    let back := convertElem k mode sat false (valueOf fp32 (roundVal fp32 mode false (elemVal k false c)))
    (elemVal k false c = .nan → back = if k = 5 then 0x7F else 0x7E) ∧
    (elemVal k false c ≠ .nan → (sat = true → ∀ neg, elemVal k false c ≠ .inf neg) → back = c)

/-- R330, R331, R393, R406, R407: scale-aware packing and unpacking, on sources that carry their tags. -/
def Claims.BlockPacking : Prop :=
  (∀ x f d a lit, CompletesWhen (.packMx x f d a lit) 2
    (Tagged ((List.range 32).map fun k => (a.toNat + k, 1#4))) fun s g t =>
    let sr := (lit.extractLsb' 0 7).toNat
    let r := packBlock f ((List.range 32).map fun k => f32 (srcVal s.iss g t (a.toNat + k)))
    let per := tagElems (mxTag f)
    ((List.range (if f = 4#3 then 4 else 8)).map fun k => (d.toNat + k, ⟨packElems (mxTag f) ((r.2.drop (per * k)).take per), BitVec.ofNat 4 (mxTag f)⟩)) ++
    [(sr, ⟨setByte (srcVal s.iss g t sr) (lit.extractLsb' 8 2).toNat r.1, 13#4⟩)]) ∧
  (∀ x f d a lit, CompletesWhen (.unpackMx x f d a lit) 2
    (Tagged (((List.range (if f = 4#3 then 4 else 8)).map fun k => (a.toNat + k, BitVec.ofNat 4 (mxTag f))) ++ [((lit.extractLsb' 0 7).toNat, 13#4)])) fun s g t =>
    let sc := ((srcVal s.iss g t (lit.extractLsb' 0 7).toNat).extractLsb' (8 * (lit.extractLsb' 8 2).toNat) 8).toNat
    (List.range 32).map fun i => (d.toNat + i,
      ⟨unpackElem f sc (elemOf (mxTag f) (srcVal s.iss g t (a.toNat + i / tagElems (mxTag f))) (i % tagElems (mxTag f))), 1#4⟩)) ∧
  (∀ x d a b lit, CompletesWhen (.packAq4 x d a b lit) 2
    (Tagged (((List.range 8).map fun k => (a.toNat + k, 1#4)) ++ [(b.toNat, 1#4)])) fun s g t =>
    let sr := (lit.extractLsb' 0 7).toNat
    let r := packAq4Block (f32 (srcVal s.iss g t b.toNat)) ((List.range 8).map fun k => f32 (srcVal s.iss g t (a.toNat + k)))
    [(d.toNat, ⟨packElems 9 r.2, 9#4⟩), (sr, ⟨setByte (srcVal s.iss g t sr) (lit.extractLsb' 8 2).toNat r.1, 14#4⟩)]) ∧
  (∀ x d a b lit, CompletesWhen (.unpackAq4 x d a b lit) 2
    (Tagged [(a.toNat, 9#4), (b.toNat, 1#4), ((lit.extractLsb' 0 7).toNat, 14#4)]) fun s g t =>
    let band := f32 (srcVal s.iss g t b.toNat)
    let sc := valueOf e3m5 ((srcVal s.iss g t (lit.extractLsb' 0 7).toNat).extractLsb' (8 * (lit.extractLsb' 8 2).toNat) 8).toNat
    (List.range 8).map fun k => (d.toNat + k,
      ⟨match band with
        | .fin _ _ _ => toF32 .rne (mulVal (mulVal (valueOf e2m1 (elemOf 9 (srcVal s.iss g t a.toNat) k)) band) sc)
        | _ => 0x7FC00000#32, 1#4⟩)) ∧
  (∀ f vs, (packBlock f vs).2.length = vs.length ∧ (vs.any notFinite = true → (packBlock f vs).1 = 0xFF ∧ ∀ e ∈ (packBlock f vs).2, e = 0)) ∧
  (∀ w e b k, e < 4 → k < 4 → byteOf (setByte w e b) k = if k = e then b % 256 else byteOf w k)


/-! ## Control transfer, system values and traps (R378 to R391, R488 to R491) -/

/-- R383, R384, R385: branches, calls and returns. -/
def Claims.ControlTransfer : Prop :=
  (∀ x lit, Jumps (.bra x lit) 2 (fun _ _ => True) (fun _ _ _ => []) fun s _ _ => some (labelOf s lit)) ∧
  (∀ x a lit, Jumps (.brz x a lit) 2 (fun _ _ => True) (fun _ _ _ => []) fun s g t =>
    if srcVal s.iss g t a.toNat = 0#32 then some (labelOf s lit) else none) ∧
  (∀ x a lit, Jumps (.brnz x a lit) 2 (fun _ _ => True) (fun _ _ _ => []) fun s g t =>
    if srcVal s.iss g t a.toNat = 0#32 then none else some (labelOf s lit)) ∧
  (∀ x d lit, Jumps (.call x d lit) 2 (fun _ _ => True) (fun s _ _ => pairWrites d (s.iss.pc + 8)) fun s _ _ => some (labelOf s lit)) ∧
  (∀ x a, Jumps (.ret x a) 1 (fun s g => ∀ t, Active s t → (srcPair s.iss g t a.toNat).toNat % 4 = 0) (fun _ _ _ => [])
    fun s g t => some (srcPair s.iss g t a.toNat)) ∧
  (∀ x d a, Jumps (.callr x d a) 1 (fun s g => ∀ t, Active s t → (srcPair s.iss g t a.toNat).toNat % 4 = 0)
    (fun s _ _ => pairWrites d (s.iss.pc + 4)) fun s g t => some (srcPair s.iss g t a.toNat))

/-- R388: a system value is read into one register, or into a pair for the codes 32 and up, tagged INT32; a read of the time leaves a record in
the replay log (R306, R389). -/
def Claims.SystemValues : Prop :=
  (∀ x d i s g, Ready (.rdsys x d i) s g →
    ∃ h, exec (.rdsys x d i) s = .next (withGroup (if i.toNat = 33 then logGroup s s.iss.cid s.iss.slot else s) h) ∧ OnlyRegs g h ∧
      RegsFrom s g h (fun t => let v := sysValue s g s.iss.lanes t i.toNat
        if i.toNat < 32 then [(d.toNat, ⟨BitVec.ofNat 32 v, 12#4⟩)] else pairWrites d (BitVec.ofNat 64 v)) ∧ PcsPast s g h 1) ∧
  (∀ s g e t, let v := sysValue s g e t
    v 0 = t ∧ v 1 = g.index ∧ v 10 = s.iss.cid % 128 ∧ v 11 = s.iss.cid % 128 / 4 ∧ v 12 = s.iss.cid / 128 ∧ v 13 = s.iss.slot ∧
    v 14 = g.granules ∧ v 15 = e.toNat ∧ v 16 = (laneSet ((List.range 32).filter fun u => !(threadOf g u).exited)).toNat ∧ v 33 = s.time.toNat) ∧
  (∀ s g e t tm l, teamOf s g.team = some tm → launchOf s tm.launch = some l → let v := sysValue s g e t
    v 2 = tm.groups ∧ v 17 = tm.poolKey ∧ v 18 = tm.gangIndex ∧ v 19 = (if l.kind = .gang then tm.kernel else 0) ∧ v 20 = l.depth ∧
    v 21 = 4096 * tm.units ∧ v 22 = tm.tiles.length ∧ v 23 = l.priority ∧ v 34 = tm.code.toNat ∧
    (l.kind ≠ .pool → v 3 = tm.x ∧ v 4 = tm.y ∧ v 5 = tm.z ∧ v 6 = l.nx ∧ v 7 = l.ny ∧ v 8 = l.nz ∧ v 9 = tm.linear ∧ v 32 = l.arg.toNat) ∧
    (l.kind = .pool → v 3 = 0 ∧ v 4 = 0 ∧ v 5 = 0 ∧ v 6 = 1 ∧ v 7 = 1 ∧ v 8 = 1 ∧ v 9 = 0 ∧ v 32 = 0))

/-- R359, R386, R387: NOP_FILL does nothing, YIELD sets the mark of the threads of E and nothing else, and EXIT marks them exited; when no
thread of the group is left, the end of the group is due. -/
def Claims.NopYieldExit : Prop :=
  (∀ x, Completes (.nopFill x) 1 fun _ _ _ => []) ∧
  (∀ x s g, Ready (.yield x) s g → ∃ h, exec (.yield x) s = .next (withGroup s h) ∧
    h = { g with threads := h.threads, specIssues := h.specIssues } ∧ PcsPast s g h 1 ∧
    ∀ t, t < 32 → Active s t → ∃ pc cl, threadOf h t = { threadOf g t with pc := pc, clause := cl, yielded := true }) ∧
  (∀ x s g, Ready (.exit x) s g → ∃ t h, exec (.exit x) s = .next t ∧ groupOf t s.iss.cid s.iss.slot = some h ∧ h.regs = g.regs ∧
    (∀ u, u < 32 → ((threadOf h u).exited = true ↔ (threadOf g u).exited = true ∨ Active s u)) ∧ t.mem = s.mem ∧
    (liveLanes h = 0#32 → g.exitedWhole = false → (⟨.groupExit, { n0 := s.iss.cid, n1 := s.iss.slot }⟩ : Due) ∈ t.agenda))

/-- R150, R151, R345, R488: TRAP takes SOFTWARE, BKPT takes BREAKPOINT (and sets HALT for an attached debugger, R298), and an opcode no
instruction has takes ILLEGAL_OPCODE, each for the threads of E. -/
def Obligations.TrapsAreTaken : Prop :=
  (∀ x i s g, Ready (.trap x i) s g → ∃ t, exec (.trap x i) s = .next t ∧ Trapped s t g 0x11 0 s.iss.lanes) ∧
  (∀ x s g, Ready (.bkpt x) s g → ∃ t, exec (.bkpt x) s = .next t ∧ Trapped s t g 0x0F 0 s.iss.lanes ∧
    t.dbg.halt = (s.dbg.halt || attachedTo s g)) ∧
  (∀ w s g, Ready (.unallocatedOpcode w) s g → regionLanes g s.iss.lanes = 0#32 →
    ∃ t, exec (.unallocatedOpcode w) s = .next t ∧ Trapped s t g 0x01 0 s.iss.lanes)

/-- R346, R351: in user mode a privileged instruction traps PRIVILEGED, whatever its operands; on a module without traversal units and builders
an instruction that names one traps; and a register at or above the bound of R245 traps REG_RANGE, outside a region, before the instruction
has any effect. -/
def Claims.IssueTraps : Prop :=
  ∀ i s g, issGroup s = some g → g.threads.length = 32 → g.stop = none → groupHeld g = false → s.iss.lanes ≠ 0#32 → regionLanes g s.iss.lanes = 0#32 →
    (s.iss.replay = true ∨ ∀ t, s.iss.lanes.getLsbD t = true → (threadOf g t).pc = s.iss.pc) → isEvent i = false →
    (privileged i = true → g.supervisor = false → ∃ t, exec i s = .next t ∧ Trapped s t g 0x0A 0 s.iss.lanes) ∧
    (privileged i = false → needsRays i = true → s.variant = .k960c → ∃ t, exec i s = .next t ∧ Trapped s t g 0x09 0 s.iss.lanes) ∧
    ((privileged i = false ∨ g.supervisor = true) → (needsRays i = false ∨ s.variant ≠ .k960c) → (∃ v ∈ namedRegs i, 8 * g.granules ≤ v) →
      ∃ t, exec i s = .next t ∧ Trapped s t g 0x04 0 s.iss.lanes)

/-- R384: a RET or CALLR whose target is not a multiple of 4 traps MISALIGN with the target as the address, in the lanes where it is not, and
writes no register. -/
def Claims.MisalignedTargetTraps : Prop :=
  ∀ i (a : RegIx), (∃ x, i = .ret x a) ∨ (∃ x d, i = .callr x d a) → ∀ s g, Ready i s g → regionLanes g s.iss.lanes = 0#32 →
    ∀ u, u < 32 → Active s u → (srcPair s.iss g u a.toNat).toNat % 4 ≠ 0 →
      (∀ v, v < u → Active s v → (srcPair s.iss g v a.toNat).toNat % 4 = 0) →
      ∃ t, exec i s = .next t ∧ Trapped s t g 0x07 (srcPair s.iss g u a.toNat).toNat
        (laneSet ((lanesOf s.iss.lanes).filter fun v => (srcPair s.iss g v a.toNat).toNat % 4 != 0))

/-- R489, R154: RETT writes its status to every thread of E, and with status 0 the stopped group runs again from its frame: the PCs, marks and
modulo registers are those of the frame. -/
def Claims.ReturnFromTrap : Prop :=
  (∀ x d a s g, Ready (.rett x d a) s g →
    let sel := (srcVal s.iss g (lowestLane s.iss.lanes) a.toNat).toNat
    let status := if 16 ≤ sel then 1 else resumeStatus s s.iss.cid sel
    ∃ h, exec (.rett x d a) s = .next (if status = 0 then resumeGroup (withGroup s h) s.iss.cid sel else withGroup s h) ∧ OnlyRegs g h ∧
      RegsFrom s g h (fun _ => [(d.toNat, ⟨BitVec.ofNat 32 status, 12#4⟩)]) ∧ PcsPast s g h 1) ∧
  (∀ s cid slot, ((∀ g, groupOf s cid slot = some g → g.stop = none) → resumeStatus s cid slot = 1) ∧
    (∀ g st, groupOf s cid slot = some g → g.stop = some st → st.faults ≠ [] → resumeStatus s cid slot ≠ 0)) ∧
  (∀ s cid slot g st, groupOf s cid slot = some g → g.stop = some st → resumeStatus s cid slot = 0 →
    ∃ h, groupOf (resumeGroup s cid slot) cid slot = some h ∧ h.stop = none ∧ h.regs = g.regs ∧ (resumeGroup s cid slot).mem = s.mem ∧
      (∀ u, u < 32 → (threadOf h u).pc = BitVec.ofNat 64 (readNat s.mem (st.frame + 64 + 8 * u) 8) ∧
        (threadOf h u).passed = readNat s.mem (st.frame + 320 + u) 1 ∧
        (threadOf h u).yielded = (BitVec.ofNat 32 (readNat s.mem (st.frame + 352) 4)).getLsbD u ∧ (threadOf h u).held = false) ∧
      h.modulo = (List.range 8).map fun k =>
        (readNat s.mem (st.frame + 368 + 8 * k) 4 % 2 ^ 19, readNat s.mem (st.frame + 372 + 8 * k) 4 % 2 ^ 19))

/-- R490: GRD reads a register of a stopped group of the core, with its tag, and gives 0 and all ones for a selector that names none; GWR writes
one, and writes nothing for such a selector. -/
def Claims.RegistersOfStoppedGroups : Prop :=
  (∀ x d a, Completes (.grd x d a) 1 fun s g _ =>
    let w := srcVal s.iss g (lowestLane s.iss.lanes) a.toNat
    match (if w &&& 0xFFE080F0#32 = 0#32 then groupOf s s.iss.cid (w.extractLsb' 0 4).toNat else none) with
    | some h =>
      if h.stop ≠ none ∧ (w.extractLsb' 8 7).toNat < 8 * h.granules then
        let r := regOf h (w.extractLsb' 16 5).toNat (w.extractLsb' 8 7).toNat
        [(d.toNat, ⟨r.val, 12#4⟩), (d.toNat + 1, ⟨BitVec.ofNat 32 r.tag.toNat, 12#4⟩)]
      else [(d.toNat, ⟨0#32, 12#4⟩), (d.toNat + 1, ⟨0xFFFFFFFF#32, 12#4⟩)]
    | none => [(d.toNat, ⟨0#32, 12#4⟩), (d.toNat + 1, ⟨0xFFFFFFFF#32, 12#4⟩)]) ∧
  (∀ x d a s g, Ready (.gwr x d a) s g →
    let u := lowestLane s.iss.lanes
    let w := srcVal s.iss g u d.toNat
    let sl := (w.extractLsb' 0 4).toNat
    ∃ t h, exec (.gwr x d a) s = .next t ∧ groupOf t s.iss.cid s.iss.slot = some h ∧ OnlyRegs g h ∧ RegsFrom s g h (fun _ => []) ∧
      PcsPast s g h 1 ∧ t.mem = s.mem ∧
      (∀ k, w &&& 0xFFE080F0#32 = 0#32 → groupOf s s.iss.cid sl = some k → k.stop ≠ none → (w.extractLsb' 8 7).toNat < 8 * k.granules →
        ∃ k', groupOf t s.iss.cid sl = some k' ∧ k' = { k with regs := k'.regs } ∧ ∀ e v, e < 32 → v < 128 → regOf k' e v =
          if e = (w.extractLsb' 16 5).toNat ∧ v = (w.extractLsb' 8 7).toNat
          then ⟨srcVal s.iss g u a.toNat, (srcVal s.iss g u (a.toNat + 1)).setWidth 4⟩ else regOf k e v) ∧
      (¬ (w &&& 0xFFE080F0#32 = 0#32) → t = withGroup s h))

/-- R491: EVWAIT with a nonzero event word takes the word into its destination and clears it in one event; with a zero word its threads wait. -/
def Claims.EventWait : Prop :=
  ∀ x d s g, Ready (.evwait x d) s g → rising (coreOf s s.iss.cid).groups = true →
    (∀ p ∈ (coreOf s s.iss.cid).groups, ∀ o ∈ p.2.ops, ∀ y e, o.instr ≠ .evwait y e) → (∀ o ∈ g.ops, o.id ≠ s.ids) →
    ∃ t h, exec (.evwait x d) s = .next t ∧ groupOf t s.iss.cid s.iss.slot = some h ∧ t.mem = s.mem ∧ (coreOf t s.iss.cid).event = 0#32 ∧
      ((coreOf s s.iss.cid).event ≠ 0#32 → h.ops = g.ops ∧ RegsFrom s g h (fun _ => [(d.toNat, ⟨(coreOf s s.iss.cid).event, 12#4⟩)]) ∧
        ∀ u, Active s u → (threadOf h u).wait = .ready) ∧
      ((coreOf s s.iss.cid).event = 0#32 → RegsFrom s g h (fun _ => []) ∧ (∀ u, Active s u → (threadOf h u).wait = .op s.ids) ∧
        ∃ o, h.ops = g.ops ++ [o] ∧ o.id = s.ids ∧ o.instr = .evwait x d ∧ o.todo = s.iss.lanes)

/-- R246, R247, R380, R381: REGGROW and REGSHRINK of a group whose request can be met at once. -/
def Claims.RegisterGrowth : Prop :=
  (∀ x d n, CompletesWhen (.reggrow x d n) 1 (fun _ g => n.toNat ≤ g.granules) fun _ g _ => [(d.toNat, ⟨BitVec.ofNat 32 g.granules, 12#4⟩)]) ∧
  (∀ x d n, CompletesWhen (.regshrink x d n) 1 (fun _ g => g.granules ≤ n.toNat) fun _ g _ => [(d.toNat, ⟨BitVec.ofNat 32 g.granules, 12#4⟩)]) ∧
  (∀ x d n s g, Ready (.reggrow x d n) s g → g.granules < n.toNat → s.iss.slot < 15 → g.exitedWhole = false →
    rising (coreOf s s.iss.cid).groups = true → (∀ o ∈ g.ops, o.id ≠ s.ids) →
    (∀ p ∈ (coreOf s s.iss.cid).groups, blockedGrow p.2 = false) →
    n.toNat - g.granules ≤ 240 - (((coreOf s s.iss.cid).groups.filter fun p => decide (p.1 < 15)).map fun p => p.2.granules).sum →
    ∃ t h, exec (.reggrow x d n) s = .next t ∧ groupOf t s.iss.cid s.iss.slot = some h ∧ h.granules = n.toNat ∧ h.ops = g.ops ∧
      RegsFrom s g h (fun _ => [(d.toNat, ⟨BitVec.ofNat 32 n.toNat, 12#4⟩)]) ∧ PcsPast s g h 1 ∧ t.mem = s.mem) ∧
  (∀ x d n s g, Ready (.regshrink x d n) s g → n.toNat < g.granules → d.toNat < 8 * n.toNat →
    (∀ p ∈ (coreOf s s.iss.cid).groups, blockedGrow p.2 = false) →
    ∃ t h, exec (.regshrink x d n) s = .next t ∧ groupOf t s.iss.cid s.iss.slot = some h ∧ h.granules = n.toNat ∧ PcsPast s g h 1 ∧
      t.mem = s.mem ∧ ∀ u v, u < 32 → v < 128 → regOf h u v =
        if v = d.toNat ∧ s.iss.lanes.getLsbD u = true then ⟨BitVec.ofNat 32 n.toNat, 12#4⟩ else if v < 8 * n.toNat then regOf g u v else Reg.zero)

/-- R378: the threads that execute REORDER wait with their key captured, and once every thread of the team waits there and nothing of its groups
is unfinished, the threads of the team are sorted by key, then group, then lane: the thread at each place is the one the sorted list gives, with
its registers, and its destination holds the place it came from. -/
def Obligations.Reordering : Prop :=
  (∀ x d a s g tm, Ready (.reorder x d a) s g → teamOf s g.team = some tm → tm.cid = s.iss.cid → (∀ o ∈ g.ops, o.id ≠ s.ids) →
    ∃ t h o, exec (.reorder x d a) s = .next t ∧ groupOf t s.iss.cid s.iss.slot = some h ∧ h.ops = g.ops ++ [o] ∧ o.todo = s.iss.lanes ∧
      o.instr = .reorder x d a ∧ RegsFrom s g h (fun _ => []) ∧ (∀ u, u < 32 → Active s u → (threadOf h u).wait = .reorder) ∧
      (∀ u, u < 32 → Active s u → (opReg h o u a.toNat).val = srcVal s.iss g u a.toNat) ∧
      (⟨.reorderComplete, { n0 := g.team }⟩ : Due) ∈ t.agenda ∧ t.mem = s.mem) ∧
  (∀ s tm slot g, teamOf s s.args.n0 = some tm → rising (coreOf s tm.cid).groups = true → groupOf s tm.cid slot = some g →
    g.index = 0 → g.team = s.args.n0 → (∀ p ∈ (coreOf s tm.cid).groups, p.2.team = s.args.n0 → p.1 = slot) →
    g.stop = none → g.storesOut = [] → (∀ f, f < 12 → flagSet g f = false) → (∀ v ∈ g.cv, v.signed = 0#32) → liveLanes g ≠ 0#32 → rising g.regs = true →
    (∀ u, u < 32 → (threadOf g u).exited = true ∨ (threadOf g u).wait = .reorder) →
    (∀ o ∈ g.ops, ∃ x d a, o.instr = .reorder x d a) →
    (∀ u, u < 32 → (threadOf g u).exited = false → ∃ k, reorderOf g u = some k) →
    (∀ u, u < 32 → (threadOf g u).exited = true → reorderOf g u = none) →
    ∃ t h, ∃ l : List Nat, exec .reorderComplete s = .next t ∧ groupOf t tm.cid slot = some h ∧ t.mem = s.mem ∧
      l.Perm (lanesOf (liveLanes g)) ∧
      l.Pairwise (fun u v => ∀ k m, reorderOf g u = some k → reorderOf g v = some m → k.1 < m.1 ∨ (k.1 = m.1 ∧ u ≤ v)) ∧
      (∀ i u, i < 32 → l[i]? = some u → (threadOf h i).pc = (threadOf g u).pc ∧ (threadOf h i).exited = false ∧ (threadOf h i).wait = .ready ∧
        ∀ k v, reorderOf g u = some k → v < 128 →
          regOf h i v = if v = k.2.1 then ⟨BitVec.ofNat 32 u, 12#4⟩ else regOf g u v) ∧
      (∀ i, i < 32 → l[i]? = none → (threadOf h i).exited = true))


/-! ## Memory and scratchpad (R236, R252 to R255, R347, R348, R412 to R430) -/

/-- R347, R348, R412 to R416, R418 to R420: loads of memory issue. -/
def Claims.GlobalLoadsIssue : Prop :=
  (∀ x d a z, LoadIssues (.ld x d a z) 1 (2 ^ z.toNat) (pairAddr a) fun _ _ _ => []) ∧
  (∀ x d a p m z lit, LoadIssues (.ldLit x d a p m z lit) 2 (2 ^ z.toNat) (pairOff a p lit) (pairPost a p lit)) ∧
  (∀ x d a z, LoadIssues (.ldSpec x d a z) 1 (2 ^ z.toNat) (pairAddr a) fun _ _ _ => []) ∧
  (∀ x d a p m z lit, LoadIssues (.ldSpecLit x d a p m z lit) 2 (2 ^ z.toNat) (pairOff a p lit) (pairPost a p lit)) ∧
  (∀ x d a k z, LoadIssues (.ldFmt x d a k z) 1 (2 ^ z.toNat) (pairAddr a) fun _ _ _ => []) ∧
  (∀ x d a c z, LoadIssues (.ldAcq x d a c z) 1 (2 ^ z.toNat) (pairAddr a) fun _ _ _ => []) ∧
  (∀ x d a b, LoadIssues (.qwait x d a b) 1 32 (pairAddr a) fun _ _ _ => [])

/-- R422 to R426: atomics and reductions issue. -/
def Claims.AtomicsIssue : Prop :=
  (∀ x o d a b, LoadIssues (.atom32 x o d a b) 1 4 (pairAddr a) fun _ _ _ => []) ∧
  (∀ x o d a b, LoadIssues (.atom64 x o d a b) 1 8 (pairAddr a) fun _ _ _ => []) ∧
  (∀ x d a b, LoadIssues (.atomCasB32 x d a b) 1 4 (pairAddr a) fun _ _ _ => []) ∧
  (∀ x d a b, LoadIssues (.atomCasB64 x d a b) 1 8 (pairAddr a) fun _ _ _ => []) ∧
  (∀ x a b, LoadIssues (.redAddS32 x a b) 1 4 (pairAddr a) fun _ _ _ => []) ∧
  (∀ x a b, LoadIssues (.redAddS64 x a b) 1 8 (pairAddr a) fun _ _ _ => []) ∧
  (∀ x a b, LoadIssues (.redAddF32 x a b) 1 4 (pairAddr a) fun _ _ _ => []) ∧
  (∀ x a b, LoadIssues (.redAddBf16x2 x a b) 1 4 (pairAddr a) fun _ _ _ => []) ∧
  (∀ x o a b, LoadIssues (.redAtomic x o a b) 1 4 (pairAddr a) fun _ _ _ => [])

/-- R347, R348, R417, R419, R467: stores to memory issue. -/
def Claims.GlobalStoresIssue : Prop :=
  (∀ x d a z, StoreIssues (.st x d a z) 1 (2 ^ z.toNat) (pairAddr a) fun _ _ _ => []) ∧
  (∀ x d a p m z lit, StoreIssues (.stLit x d a p m z lit) 2 (2 ^ z.toNat) (pairOff a p lit) (pairPost a p lit)) ∧
  (∀ x d a c z, StoreIssues (.stRel x d a c z) 1 (2 ^ z.toNat) (pairAddr a) fun _ _ _ => []) ∧
  (∀ x c a b, StoreIssues (.qsig x c a b) 1 32 (pairAddr a) fun _ _ _ => [])

/-- R236, R252, R255, R416, R418, R421: scratchpad loads issue. -/
def Claims.ScratchpadLoadsIssue : Prop :=
  (∀ x d a z, ScratchLoad (.lds x d a z) 1 (2 ^ z.toNat) false (offAddr a 0#32) fun _ _ _ => []) ∧
  (∀ x d a p m z lit, ScratchLoad (.ldsLit x d a p m z lit) 2 (2 ^ z.toNat) false (offAddr a (if p = 1#1 then 0#32 else lit)) (offPost a p m lit)) ∧
  (∀ x d a z, ScratchLoad (.ldsWait x d a z) 1 (2 ^ z.toNat) true (offAddr a 0#32) fun _ _ _ => []) ∧
  (∀ x d a p m z lit, ScratchLoad (.ldsWaitLit x d a p m z lit) 2 (2 ^ z.toNat) true (offAddr a (if p = 1#1 then 0#32 else lit)) (offPost a p m lit)) ∧
  (∀ x d a z, ScratchLoad (.ldsWaitClr x d a z) 1 (2 ^ z.toNat) true (offAddr a 0#32) fun _ _ _ => []) ∧
  (∀ x d a p m z lit, ScratchLoad (.ldsWaitClrLit x d a p m z lit) 2 (2 ^ z.toNat) true (offAddr a (if p = 1#1 then 0#32 else lit)) (offPost a p m lit)) ∧
  (∀ x d a k z, ScratchLoad (.ldsFmt x d a k z) 1 (2 ^ z.toNat) false (offAddr a 0#32) fun _ _ _ => []) ∧
  (∀ x d a k z, ScratchLoad (.ldsWaitFmt x d a k z) 1 (2 ^ z.toNat) true (offAddr a 0#32) fun _ _ _ => [])

/-- R236, R252, R254, R255, R417, R421: scratchpad stores, with everything they leave alone. -/
def Claims.ScratchpadStores : Prop :=
  (∀ x d a z, ScratchStore (.sts x d a z) 1 (2 ^ z.toNat) false d (offAddr a 0#32) fun _ _ _ => []) ∧
  (∀ x d a p m z lit, ScratchStore (.stsLit x d a p m z lit) 2 (2 ^ z.toNat) false d (offAddr a (if p = 1#1 then 0#32 else lit)) (offPost a p m lit)) ∧
  (∀ x d a z, ScratchStore (.stsSet x d a z) 1 (2 ^ z.toNat) true d (offAddr a 0#32) fun _ _ _ => []) ∧
  (∀ x d a p m z lit, ScratchStore (.stsSetLit x d a p m z lit) 2 (2 ^ z.toNat) true d (offAddr a (if p = 1#1 then 0#32 else lit)) (offPost a p m lit))

/-- R413, R447: outside a region, a global access whose address is no multiple of its size traps MISALIGN with the address of the lowest such lane,
in the lanes that fail, before any state changes. -/
def Claims.MisalignedAccessTraps : Prop :=
  ∀ i (a : RegIx) size, ((∃ x d z, i = .ld x d a z ∧ size = 2 ^ z.toNat) ∨ (∃ x d z, i = .st x d a z ∧ size = 2 ^ z.toNat) ∨
      (∃ x o d b, i = .atom32 x o d a b ∧ size = 4)) →
    ∀ s g, Ready i s g → regionLanes g s.iss.lanes = 0#32 → ∀ u, Active s u → (srcPair s.iss g u a.toNat).toNat % size ≠ 0 →
      (∀ v, v < u → Active s v → (srcPair s.iss g v a.toNat).toNat % size = 0) →
      ∃ t, exec i s = .next t ∧ Trapped s t g 0x07 (srcPair s.iss g u a.toNat).toNat
        (laneSet ((lanesOf s.iss.lanes).filter fun v => (srcPair s.iss g v a.toNat).toNat % size != 0))

/-- R220, R222, R256, R416: LOAD_COMPLETE of a load of token-coherent memory whose translation the L1 TLB holds, with a token and data of the line
and no store of the core to it waiting, writes the bytes of memory into the registers of the lane, the lowest address first and below 32 bits
zero-extended, and finishes the lane. -/
def Claims.LoadCompletes : Prop :=
  ∀ s g o a e, let cid := s.args.n0; let slot := s.args.n1; let u := s.args.n3
    groupOf s cid slot = some g → opOf g s.args.n2 = some o → accessOf o.instr = some a → a.scratch = false → a.kind = .read → u < 32 →
    o.todo.getLsbD u = true → (∀ x d b c, o.instr ≠ .qwait x d b c) → s.dbg.logEn = false →
    lookTlb s cid (asidOf s g) (contextOf s g).1 (nth 0#64 o.addrs u).toNat .read g.supervisor = .hit e →
    mayPerform (touchTlb s cid e) cid g o u = true → pteMig e.leaf = false → uncached e = false →
    (let pa := e.frame + ((nth 0#64 o.addrs u).toNat - e.base)
     mayRead (touchTlb s cid e) (l1Agent cid) (pa / 128) = true → poisoned s (pa / 128) = false → a.size ≤ 128 → a.reg + a.size / 4 ≤ 128 →
     (∀ x ∈ (coreOf s cid).sb, x.addr / 128 ≠ pa / 128 ∧ ∀ k, k < a.size → ¬ (x.addr ≤ pa + k ∧ pa + k < x.addr + x.data.length)) →
     (∀ r, (threadOf g u).region = some r → r.writes = []) →
     ∃ t h, exec .loadComplete s = .next t ∧ groupOf t cid slot = some h ∧ t.mem = s.mem ∧
      (∀ v, v < 128 → regOf h u v =
        if a.size < 4 then (if v = a.reg then ⟨BitVec.ofNat 32 (readNat s.mem pa a.size), a.tag⟩ else regOf g u v)
        else if a.reg ≤ v ∧ v < a.reg + a.size / 4 then ⟨BitVec.ofNat 32 (readNat s.mem (pa + 4 * (v - a.reg)) 4), a.tag⟩ else regOf g u v) ∧
      (∀ w v, w < 32 → w ≠ u → v < 128 → regOf h w v = regOf g w v) ∧
      (o.todo ≠ 1#32 <<< u → ∃ o', opOf h s.args.n2 = some o' ∧ o'.todo = o.todo &&& ~~~(1#32 <<< u)) ∧
      (o.todo = 1#32 <<< u → opOf h s.args.n2 = none ∧ h.flags = (completeFlag g o.flag).flags))


/-- R236, R252, R254, R421: a scratchpad load reads the bytes of its team's run on its core into the registers of the lane; a waiting form does so
only when its granule is full, and a clearing form empties the granule with the read. -/
def Claims.ScratchLoadCompletes : Prop :=
  ∀ s g o a tm, let cid := s.args.n0; let slot := s.args.n1; let u := s.args.n3
    groupOf s cid slot = some g → opOf g s.args.n2 = some o → accessOf o.instr = some a → a.scratch = true → teamOf s g.team = some tm → u < 32 →
    o.todo.getLsbD u = true → mayPerform s cid g o u = true → a.size ≤ 16 → a.reg + a.size / 4 ≤ 128 → (∀ r, (threadOf g u).region = some r → r.writes = []) →
    (let pa := 4096 * tm.unitBase + (nth 0#64 o.addrs u).toNat
     ((a.waits = false ∨ pa / 16 ∈ (coreOf s cid).full) →
       ∃ t h, exec .loadComplete s = .next t ∧ groupOf t cid slot = some h ∧ t.mem = s.mem ∧ (coreOf t cid).scratch = (coreOf s cid).scratch ∧
        (∀ k, k ∈ (coreOf t cid).full ↔ k ∈ (coreOf s cid).full ∧ ¬ (a.clears = true ∧ k = pa / 16)) ∧
        (∀ v, v < 128 → regOf h u v =
          if a.size < 4 then (if v = a.reg then ⟨BitVec.ofNat 32 (readNat (coreOf s cid).scratch pa a.size), a.tag⟩ else regOf g u v)
          else if a.reg ≤ v ∧ v < a.reg + a.size / 4 then ⟨BitVec.ofNat 32 (readNat (coreOf s cid).scratch (pa + 4 * (v - a.reg)) 4), a.tag⟩
          else regOf g u v) ∧
        (∀ w v, w < 32 → w ≠ u → v < 128 → regOf h w v = regOf g w v)) ∧
     (a.waits = true → pa / 16 ∉ (coreOf s cid).full →
       exec .loadComplete s = .next { s with agenda := s.agenda ++ [⟨.loadComplete, { n0 := cid, n1 := slot, n2 := o.id, n3 := u }⟩] }))

/-- R220, R423 to R426: an atomic performed by a core that holds every token of its line reads the old value, writes the new value that its
operation gives, and returns the old value where it has a result, all in one step; no other byte of memory changes. -/
def Claims.AtomicsComplete : Prop :=
  ∀ s g o a e, let cid := s.args.n0; let slot := s.args.n1; let u := s.args.n3
    groupOf s cid slot = some g → opOf g s.args.n2 = some o → accessOf o.instr = some a → a.kind = .atomic → redFormat o.instr = 0 → u < 32 →
    o.todo.getLsbD u = true → o.inTry = 0#32 → s.dbg.logEn = false → a.reg + a.size / 4 ≤ 128 →
    lookTlb s cid (asidOf s g) (contextOf s g).1 (nth 0#64 o.addrs u).toNat .atomic g.supervisor = .hit e →
    mayPerform (touchTlb s cid e) cid g o u = true → pteMig e.leaf = false → uncached e = false →
    (let pa := e.frame + ((nth 0#64 o.addrs u).toNat - e.base)
     mayWrite (touchTlb s cid e) (l1Agent cid) (pa / 128) = true → poisoned s (pa / 128) = false →
     (∀ x ∈ (coreOf s cid).sb, x.addr / 128 ≠ pa / 128) → (∀ p ∈ (coreOf s cid).groups, ∀ th ∈ p.2.threads, th.region = none) →
     let old := readNat s.mem pa a.size
     let b := operandOf o.instr (opReg g o u)
     ∃ t h, exec .loadComplete s = .next t ∧ groupOf t cid slot = some h ∧ readNat t.mem pa a.size = newValue o.instr old b.1 b.2 % 2 ^ (8 * a.size) ∧
      (∀ p, ¬ (pa ≤ p ∧ p < pa + a.size) → readByte t.mem p = readByte s.mem p) ∧
      (∀ v, v < 128 → regOf h u v =
        if a.noResult = false ∧ a.reg ≤ v ∧ v < a.reg + a.size / 4 then ⟨BitVec.ofNat 32 (readNat s.mem (pa + 4 * (v - a.reg)) 4), a.tag⟩
        else regOf g u v))

/-- R422 to R424: the operations of the atomics on n bytes. -/
def Claims.AtomicOperations : Prop :=
  (∀ x (o : BitVec 4) d a b m v c, let r := newValue (.atom32 x o d a b) m v c
    (o = 0#4 → r = (m + v) % 2 ^ 32) ∧
    (o = 3#4 → r = min m v) ∧ (o = 4#4 → r = max m v) ∧ (o = 5#4 → r = m &&& v) ∧ (o = 6#4 → r = m ||| v) ∧ (o = 7#4 → r = m ^^^ v) ∧
    (o = 8#4 → r = v) ∧ (m < 2 ^ 32 → v < 2 ^ 32 →
      (o = 1#4 → r = if (BitVec.ofNat 32 v).toInt < (BitVec.ofNat 32 m).toInt then v else m) ∧
      (o = 2#4 → r = if (BitVec.ofNat 32 m).toInt < (BitVec.ofNat 32 v).toInt then v else m))) ∧
  (∀ x (o : BitVec 4) d a b m v c, let r := newValue (.atom64 x o d a b) m v c
    (o = 0#4 → r = (m + v) % 2 ^ 64) ∧ (o = 3#4 → r = min m v) ∧ (o = 4#4 → r = max m v) ∧ (o = 5#4 → r = m &&& v) ∧
    (o = 6#4 → r = m ||| v) ∧ (o = 7#4 → r = m ^^^ v) ∧ (o = 8#4 → r = v) ∧ (m < 2 ^ 64 → v < 2 ^ 64 →
      (o = 1#4 → r = if (BitVec.ofNat 64 v).toInt < (BitVec.ofNat 64 m).toInt then v else m) ∧
      (o = 2#4 → r = if (BitVec.ofNat 64 m).toInt < (BitVec.ofNat 64 v).toInt then v else m))) ∧
  (∀ x d a b m v c, newValue (.atomCasB32 x d a b) m v c = (if m = v then c else m) ∧ newValue (.atomCasB64 x d a b) m v c = if m = v then c else m) ∧
  (∀ x a b m v c, newValue (.redAddS32 x a b) m v c = (m + v) % 2 ^ 32 ∧ newValue (.redAddS64 x a b) m v c = (m + v) % 2 ^ 64 ∧
    newValue (.redAddF32 x a b) m v c = faddEnc fp32 .rne m v)

/-- R220 to R227: STORE_PERFORM of the first entry of its line in a store buffer, when everything it must follow is done and the core holds every
token of the line, writes its bytes and nothing else of memory, and the entry leaves the buffer.  A region of a stopped group that has read the
line would abort, and its frame say so (R151, R453). -/
def Obligations.StorePerforms : Prop :=
  ∀ s e, let cid := s.args.n0
    ((coreOf s cid).sb.find? fun x => x.id == s.args.n1) = some e → (∀ d ∈ s.coherence.drains, d.2.2.1 ≠ e.id) → entryReady s cid e = true →
    mayWrite s (l1Agent cid) (e.addr / 128) = true →
    NoStoppedReader s (l1Agent cid) (e.addr / 128) →
    ∃ t, exec .storePerform s = .next t ∧ t.mem = writeBytes s.mem e.addr e.data ∧ readBytes t.mem e.addr e.data.length = e.data ∧
      (∀ a, ¬ (e.addr ≤ a ∧ a < e.addr + e.data.length) → readByte t.mem a = readByte s.mem a) ∧
      (∀ x, x ∈ (coreOf t cid).sb ↔ x ∈ (coreOf s cid).sb ∧ x.id ≠ e.id)

/-- R170, R178, R468: PAGE_WALK with the translation in the L2 TLB brings it into the L1 TLB and then does what LOAD_COMPLETE does; a fault of the
one lane of the group's one unfinished instruction stops the group with cause PAGE_FAULT and its subtype, level and address, and raises a fault;
QWAIT_REREAD makes every lane of the QWAIT due again. -/
def Claims.WalksAndRereads : Prop :=
  (∀ s g o a e, let cid := s.args.n0; let u := s.args.n3
    let va := (nth 0#64 o.addrs u).toNat
    groupOf s cid s.args.n1 = some g → opOf g s.args.n2 = some o → accessOf o.instr = some a → a.scratch = false → o.todo.getLsbD u = true →
    lookTlb s cid (asidOf s g) (contextOf s g).1 va a.kind g.supervisor = .miss → permitted e.leaf a.kind g.supervisor = true →
    ((pierOf s (pierNo cid)).tlb.find? fun x => x.serves (asidOf s g) (contextOf s g).1 va) = some e →
    (∀ l ∈ e.deps, mayRead s (tlbAgent cid) l = true) → (coreOf s cid).tlb.length < 64 →
    let s' := modCore (modPier s (pierNo cid) fun x => { x with tlb := useInSet e x.tlb }) cid fun c => { c with tlb := pushFront e c.tlb 64 }
    exec .pageWalk s = exec .loadComplete s' ∧ ∃ t, exec .pageWalk s = .next t) ∧
  (∀ s s1 g o a sub lvl, let cid := s.args.n0; let u := s.args.n3
    let va := (nth 0#64 o.addrs u).toNat
    let fn := (contextOf s g).1
    groupOf s cid s.args.n1 = some g → g.ops = [o] → o.id = s.args.n2 → accessOf o.instr = some a → a.scratch = false → o.todo = 1#32 <<< u → u < 32 →
    o.sent = false → o.inTry = 0#32 → g.stop = none → groupHeld g = false → lookTlb s cid (asidOf s g) fn va a.kind g.supervisor = .miss →
    walkFill s cid (asidOf s g) fn va a.kind g.supervisor = (.fault sub lvl, s1) →
    resolve s1 (pierNo cid) (asidOf s g) fn va a.kind g.supervisor = .fault sub lvl → (look Fn.reset s.fns fn).frEnabled = true →
    ∃ t h st, exec .pageWalk s = .next t ∧ groupOf t cid s.args.n1 = some h ∧ h.stop = some st ∧ st.causes = 2 ∧ st.subtype = sub ∧ st.level = lvl ∧
      st.va = va ∧ st.lanes = 1#32 <<< u ∧ h.active = false ∧ h.ops = [] ∧ st.faults = [(look Fn.reset s.fns fn).nextFault]) ∧
  (∀ s g o, groupOf s s.args.n0 s.args.n1 = some g → opOf g s.args.n2 = some o →
    ∃ t, exec .qwaitReread s = .next t ∧ ∀ u, u < 32 → o.todo.getLsbD u = true →
      (⟨.loadComplete, { n0 := s.args.n0, n1 := s.args.n1, n2 := o.id, n3 := u }⟩ : Due) ∈ t.agenda)

/-- R188, R209, R232: the swap engine performs a load of a page being moved on the frame that holds the line now; and a drain write reaches a home
that holds every token of its line, which writes the bytes, and the entry leaves the store buffer. -/
def Claims.SwappedAndDrainedAccesses : Prop :=
  (∀ s s0 s1 s2 g o a e, let cid := s.args.n0; let slot := s.args.n1; let u := s.args.n3
    let va := (nth 0#64 o.addrs u).toNat
    let pa := placeOf s0 e va
    let agent := swapAgent (match swapping s0 (e.pa va) with | some x => x.1 | none => cid / 128)
    groupOf s cid slot = some g → opOf g s.args.n2 = some o → accessOf o.instr = some a → a.kind = .read → u < 32 → o.todo.getLsbD u = true →
    (∀ x d b c, o.instr ≠ .qwait x d b c) → s.dbg.logEn = false → a.reg + a.size / 4 ≤ 128 → 4 ≤ a.size →
    (walkFill s cid (asidOf s g) (contextOf s g).1 va .read g.supervisor = (.hit e, s0) ∨
      walkFill s cid (asidOf s g) (contextOf s g).1 va .read g.supervisor = (.direct e, s0)) →
    mayPerform s0 cid g o u = true → buffered s0 cid (pa / 128) = false → gather s0 agent (pa / 128) .write = (some s1, s2) →
    groupOf s1 cid slot = some g → s1.dbg = s.dbg → tierOf s1 pa = some 0 → hostLine s1 (pa / 128) = false → poisoned s1 (pa / 128) = false →
    ∃ t h, exec .swapMigAccess s = .next t ∧ groupOf t cid slot = some h ∧
      ∀ v, v < 128 → regOf h u v =
        if a.reg ≤ v ∧ v < a.reg + a.size / 4 then ⟨BitVec.ofNat 32 (readNat s1.mem (pa + 4 * (v - a.reg)) 4), a.tag⟩ else regOf g u v) ∧
  (∀ s e, let cid := s.args.n0
    let line := e.addr / 128
    ((coreOf s cid).sb.find? fun x => x.id == s.args.n1) = some e → s.coherence.drains = [] → entryReady s cid e = true →
    lineOf s line = LineRec.atHome → hostLine s line = false → (∀ d, d < 2 → tableOf s d = []) →
    ∃ t, exec .drainWrite s = .next t ∧ t.mem = writeBytes s.mem e.addr e.data ∧ t.coherence.drains = [] ∧
      (∀ x, x ∈ (coreOf t cid).sb ↔ x ∈ (coreOf s cid).sb ∧ x.id ≠ e.id))

/-- R170, R171, R174 to R176, R179, R191: the walk of five levels through tables in local memory, of whose lines the walk cache can have tokens, ends at the
leaf of level 1, with the physical address that its frame and the low 12 bits give, and depends on the line of every entry it read; an invalid root or an address of 2^57 or more is a fault of
subtype 1. -/
def Obligations.TranslationWalk : Prop :=
  (∀ s p asid fn va k sup (t1 t2 t3 t4 t5 : Nat), va < 2 ^ 57 → walkStart (pierOf s p).walks asid va = none →
    (∀ l ∈ (s.rootTable + 8 * asid) / 128 :: [(t5, 5), (t4, 4), (t3, 3), (t2, 2), (t1, 1)].map (fun y => (y.1 + 8 * (va / 2 ^ (12 + 9 * (y.2 - 1)) % 512)) / 128),
      canWalk s p l = true ∧ poisoned s l = false) →
    (readEntry8 s (s.rootTable + 8 * asid)).getLsbD 0 = true → t5 = (readEntry8 s (s.rootTable + 8 * asid)).toNat % 2 ^ 52 / 4096 * 4096 →
    (let e := fun (t lvl : Nat) => readEntry8 s (t + 8 * (va / 2 ^ (12 + 9 * (lvl - 1)) % 512))
     (∀ x ∈ [(t5, 5), (t4, 4), (t3, 3), (t2, 2)], pteV (e x.1 x.2) = true ∧ pteLeaf (e x.1 x.2) = false ∧ reservedSet (e x.1 x.2) x.2 = false) →
     t4 = pteFrame (e t5 5) → t3 = pteFrame (e t4 4) → t2 = pteFrame (e t3 3) → t1 = pteFrame (e t2 2) →
     (∀ t ∈ [t1, t2, t3, t4], tierOf s t = some 0) → pteV (e t1 1) = true → pteLeaf (e t1 1) = true → reservedSet (e t1 1) 1 = false →
     frameOutside s (e t1 1) 1 = false → pteContig (e t1 1) = false → permitted (e t1 1) k sup = true →
     ∃ x path, walk s p asid fn va k sup = .leaf x path ∧ x.leaf = e t1 1 ∧ x.pa va = pteFrame (e t1 1) + va % 4096 ∧ x.size = 4096 ∧
       x.base = 4096 * (va / 4096) ∧ (s.rootTable + 8 * asid) / 128 ∈ x.deps ∧
       ∀ y ∈ [(t5, 5), (t4, 4), (t3, 3), (t2, 2), (t1, 1)], (y.1 + 8 * (va / 2 ^ (12 + 9 * (y.2 - 1)) % 512)) / 128 ∈ x.deps)) ∧
  (∀ s p asid fn va k sup, 2 ^ 57 ≤ va → walk s p asid fn va k sup = .fault 1 0) ∧
  (∀ s p asid fn va k sup, walkStart (pierOf s p).walks asid va = none → canWalk s p ((s.rootTable + 8 * asid) / 128) = true →
    poisoned s ((s.rootTable + 8 * asid) / 128) = false → (readEntry8 s (s.rootTable + 8 * asid)).getLsbD 0 = false → walk s p asid fn va k sup = .fault 1 0)

/-- R427, R428, R349: prefetches, evictions and TLB invalidations are hints: memory and the registers stay as they were, but for a
post-increment, and the threads go on; an invalidation leaves no entry of the group for the address in the two TLBs. -/
def Claims.HintsComplete : Prop :=
  (∀ i (words : Nat) (post : State → Group → Nat → List (Nat × Reg)),
    ((∃ x a, (i = .prefetch x a ∨ i = .prefetchW x a ∨ i = .evict x a ∨ i = .tlbinvVa x a) ∧ words = 1 ∧ post = fun _ _ _ => []) ∨
     (∃ x, i = .tlbinvAll x ∧ words = 1 ∧ post = fun _ _ _ => []) ∨
     (∃ x a p m lit, (i = .prefetchLit x a p m lit ∨ i = .prefetchWLit x a p m lit) ∧ words = 2 ∧ post = pairPost a p lit)) →
    ∀ s g, Ready i s g → ∃ t h, exec i s = .next t ∧ groupOf t s.iss.cid s.iss.slot = some h ∧ OnlyRegs g h ∧
      RegsFrom s g h (fun u => if s.iss.replay then [] else post s g u) ∧ PcsPast s g h words ∧ t.mem = s.mem) ∧
  (∀ x s g, Ready (.tlbinvAll x) s g → ∃ t, exec (.tlbinvAll x) s = .next t ∧
    (∀ e ∈ (coreOf t s.iss.cid).tlb, e ∈ (coreOf s s.iss.cid).tlb ∧ ownEntry s g e = false) ∧
    (∀ e ∈ (pierOf t (pierNo s.iss.cid)).tlb, ownEntry s g e = false))

/-- R413, R429, R430: MODSET takes base and length from the lowest lane of E when they fit the scratchpad offsets, and MODRD reads them. -/
def Claims.ModuloRegisters : Prop :=
  (∀ x n a b s g, Ready (.modset x n a b) s g →
    let base := (srcVal s.iss g (lowestLane s.iss.lanes) a.toNat).toNat
    let len := (srcVal s.iss g (lowestLane s.iss.lanes) b.toNat).toNat
    base < 2 ^ 19 → len < 2 ^ 19 → (len = 0 ∨ base + len ≤ 2 ^ 19) →
    ∃ h, exec (.modset x n a b) s = .next (withGroup s h) ∧ h = { g with threads := h.threads, modulo := h.modulo } ∧
      RegsFrom s g h (fun _ => []) ∧ PcsPast s g h 1 ∧ (g.modulo.length = 8 → nth (0, 0) h.modulo n.toNat = (base, len)) ∧
      ∀ k, k ≠ n.toNat → nth (0, 0) h.modulo k = nth (0, 0) g.modulo k) ∧
  (∀ x d n, Completes (.modrd x d n) 1 fun _ g _ =>
    [(d.toNat, ⟨BitVec.ofNat 32 (nth (0, 0) g.modulo n.toNat).1, 12#4⟩), (d.toNat + 1, ⟨BitVec.ofNat 32 (nth (0, 0) g.modulo n.toNat).2, 12#4⟩)])


/-! ## Token coherence (R190 to R218) -/

/-- R190, R192, R193, R198: sending and receiving neither makes nor loses tokens: with one entry for each agent and each line, sending some of an
agent's tokens, or some of the home's, and the arrival of a token message at an agent, leave the number of tokens of every line as it was. -/
def Obligations.TokensAreConserved : Prop :=
  ∀ s, rising s.coherence.lines = true → (∀ l, ((lineOf s l).holders.map (·.agent)).Nodup) →
    (∀ a line toward n key k, n ≤ (holderOf (lineOf s line) a).count → tokensOf (sendSome s a line toward n key) k = tokensOf s k) ∧
    (∀ line toward n key part k, n ≤ (lineOf s line).home → tokensOf (homeSend s line toward n key part) k = tokensOf s k) ∧
    (∀ m k, s.coherence.net = [m] → m.id = s.args.n0 → isHome m.toward = false → mirrorOf s (agentDie m.toward) m.line = none →
      ∃ t, exec .tokenMessage s = .next t ∧ tokensOf t k = tokensOf s k)

/-- R179, R180, R193, R196, R197, R198, R201, R210, R214: a read request reaches a home that has tokens to spare, which sends one with the data; a write
request takes all that the home has; a holder asked to give up a line, unless it is gathering it, and an evicting holder, send every token with
the keystone they hold, once no access waits that they still have to cover; and the receiver has what the message carried, of which a translation
cache keeps one token. -/
def Claims.TokenTransfers : Prop :=
  (∀ s a line q, s.args.n0 = line → s.args.n1 = a → reqOf s a line = some q → satisfied s q = false → isHome a = false →
    obstacle s line a (q.kind = .part) = none → (lineOf s line).homeKey = true → 2 ≤ (lineOf s line).home →
    ((q.kind = .read → ∃ t m, exec .transientRequest s = .next t ∧ m ∈ t.coherence.net ∧ m.line = line ∧ m.toward = a ∧ m.count = 1 ∧ m.data = true ∧
        m.keystone = false ∧ (lineOf t line).home = (lineOf s line).home - 1 ∧ (lineOf t line).homeKey = true ∧ t.mem = s.mem) ∧
     (q.kind = .write → ∃ t m, exec .transientRequest s = .next t ∧ m ∈ t.coherence.net ∧ m.line = line ∧ m.toward = a ∧
        m.count = (lineOf s line).home ∧ m.data = true ∧ m.keystone = true ∧ (lineOf t line).home = 0 ∧ (lineOf t line).homeKey = false ∧
        t.mem = s.mem))) ∧
  (∀ s, let line := s.args.n0; let x := holderOf (lineOf s line) s.args.n1
    x.count ≠ 0 → x.part = none → s.args.kind = .write → commitGathers s s.args.n1 line = false → (isEngine s.args.n1 = false ∨ x.count ≠ 1024) →
    sbNeeds s s.args.n1 line = false → NoStoppedReader s s.args.n1 line →
    ∃ t m, exec .forwardedRequest s = .next t ∧ m ∈ t.coherence.net ∧ m.line = line ∧ m.toward = s.args.n2 ∧ m.count = x.count ∧
      m.keystone = x.keystone ∧ (holderOf (lineOf t line) s.args.n1).count = 0 ∧ t.mem = s.mem) ∧
  (∀ s, let line := s.args.n1; let x := holderOf (lineOf s line) s.args.n0
    x.count ≠ 0 → x.part = none → sbNeeds s s.args.n0 line = false → NoStoppedReader s s.args.n0 line →
    (∀ cid, s.args.flag = true → l1Core s.args.n0 = some cid → buffered s cid line = false) →
    ∃ t m, exec .eviction s = .next t ∧ m ∈ t.coherence.net ∧ m.line = line ∧ m.toward = homeAgent s line ∧ m.count = x.count ∧
      m.keystone = x.keystone ∧ (holderOf (lineOf t line) s.args.n0).count = 0 ∧ t.mem = s.mem) ∧
  (∀ s m, (s.coherence.net.find? fun x => x.id == s.args.n0) = some m → isHome m.toward = false → mirrorOf s (agentDie m.toward) m.line = none →
    m.isPart = false → m.count ≠ 0 →
    ∃ t, exec .tokenMessage s = .next t ∧ t.mem = s.mem ∧
      (let h := holderOf (lineOf s m.line) m.toward
       let k := holderOf (lineOf t m.line) m.toward
       (isTranslation m.toward = true → activeFor s m.toward m.line = false → k.count = 1 ∧ k.valid = (h.valid || m.data)) ∧
       (isTranslation m.toward = false → (∀ x ∈ t.coherence.net, x.id ≠ m.id) ∧ k.count = h.count + m.count ∧ k.keystone = (h.keystone || m.keystone) ∧ k.valid = (h.valid || m.data) ∧ k.dirty = (h.dirty || m.dirty)))) ∧
  (∀ s m, (s.coherence.net.find? fun x => x.id == s.args.n0) = some m → isHome m.toward = true → m.isPart = false → (lineOf s m.line).isPart = false →
    s.coherence.drains = [] → hostLine s m.line = false → HomeIdle s m.line →
    ∃ t, exec .tokenMessage s = .next t ∧ (lineOf t m.line).home = (lineOf s m.line).home + m.count ∧
      (lineOf t m.line).homeKey = ((lineOf s m.line).homeKey || m.keystone) ∧ t.mem = s.mem)

/-- R202 to R208: an attempt that has failed is sent again, or becomes persistent when it is ripe, the first of its die and the table has room; a
table asks the other, is granted, and makes its oldest request active under the next number, which every die is told (a PARTIAL calls the tokens to
the home, R215); an activate of a free
line is remembered, a deactivate ends it, and the report of the requester takes the request out of the table. -/
def Claims.PersistentRequests : Prop :=
  (∀ s q, let a := s.args.n0; let line := s.args.n1; let die := agentDie a
    reqOf s a line = some q → q.persistent = false → satisfied s q = false → (∀ x ∈ s.coherence.reqs, x.agent = a ∧ x.line = line → x = q) →
    ((q.fails = 0 → (s.time.toNat - q.first < 1000) →
        ∃ t, exec .attemptTimeout s = .next t ∧ (⟨.transientRequest, { n0 := line, n1 := a, kind := q.kind }⟩ : Due) ∈ t.agenda ∧
          reqOf t a line = some { q with fails := 1 } ∧ ∃ x ∈ t.timers, x.at_ = s.time.toNat + 400 ∧ x.due = ⟨.attemptTimeout, { n0 := a, n1 := line }⟩) ∧
     (1 ≤ q.fails → (∀ x ∈ s.coherence.reqs, agentDie x.agent = die → q.first ≤ x.first) → (tableOf s die).length < 64 →
        ∃ t, exec .attemptTimeout s = .next t ∧ reqOf t a line = some { q with fails := q.fails + 1, persistent := true } ∧
          tableOf t die = tableOf s die ++ [⟨line, a, q.kind, q.first, 0, false, false⟩] ∧
          (⟨.arb, { n0 := die, n1 := line, n2 := q.first, n3 := a }⟩ : Due) ∈ t.agenda))) ∧
  (∀ s, let die := s.args.n0; let line := s.args.n1
    activeIn s die line = none → oldestFor s die line ≠ none →
    ∃ t, exec .arb s = .next t ∧
      ((dieCount s = 1 ∨ (activeIn s (1 - die) line = none ∧ oldestFor s (1 - die) line = none)) →
        (⟨.grant, { n0 := die, n1 := line }⟩ : Due) ∈ t.agenda) ∧
      (dieCount s = 2 → activeIn s (1 - die) line ≠ none → (die, line) ∈ t.coherence.granted)) ∧
  (∀ e s p, (e = .grant ∨ e = .handoff) → (let die := s.args.n0; let line := s.args.n1
    activeIn s die line = none → activeIn s (1 - die) line = none → oldestFor s die line = some p →
    let n := ((lineOf s line).number + 1) % 256
    ∃ t, exec e s = .next t ∧ (lineOf t line).number = n ∧ { p with active := true, number := n } ∈ tableOf t die ∧
      ∀ d, d < dieCount s → (⟨.activate, { n0 := d, n1 := line, n2 := if p.kind = .part then homeAgent s line else p.requester, n3 := n }⟩ : Due) ∈ t.agenda)) ∧
  (∀ s, let die := s.args.n0; let line := s.args.n1
    mirrorOf s die line = none → activePart s line = none → obstacle (setMirror s die ⟨line, s.args.n2, s.args.n3, true⟩) line s.args.n2 false = none →
    ∃ t, exec .activate s = .next t ∧ mirrorOf t die line = some ⟨line, s.args.n2, s.args.n3, true⟩ ∧
      (lineOf s line = LineRec.atHome → homeDie s (128 * line) = die → isHome s.args.n2 = false →
        ∃ m ∈ t.coherence.net, m.line = line ∧ m.toward = s.args.n2 ∧ m.count = 1024 ∧ m.keystone = true)) ∧
  (∀ s m, let die := s.args.n0; let line := s.args.n1
    mirrorOf s die line = some m → m.number = s.args.n2 →
    ∃ t, exec .deactivate s = .next t ∧ mirrorOf t die line = some { m with active := false }) ∧
  (∀ s p, let line := s.args.n1; let die := agentDie s.args.n0
    ((tableOf s die).find? fun p => p.line == line && p.requester == s.args.n0) = some p → p.active = true →
    ∃ t, exec .persistentReport s = .next t ∧ (∀ q ∈ tableOf t die, ¬ (q.line = line ∧ q.requester = s.args.n0)) ∧
      ∀ d, d < dieCount s → (⟨.deactivate, { n0 := d, n1 := line, n2 := p.number }⟩ : Due) ∈ t.agenda)

/-- R19, R211, R212, R215 to R218: partial accumulators are combined into the line at its home; a corrected soft error is counted, one wrong symbol of a
line leaves it readable and a second one does not, and an uncorrectable error starts a census, which takes the line back to its home poisoned, with an
entry in the log of its die; a host line is obtained, snooped and given back, and the host answers a back-invalidate, with the data of each. -/
def Obligations.HomesAndHost : Prop :=
  (∀ s, let line := s.args.n0; let r := lineOf s line
    r.isPart = true → r.home = 1024 → HomeIdle s line →
    ∃ t, exec .partialCombine s = .next t ∧ (lineOf t line).isPart = false ∧ (lineOf t line).home = 1024 ∧
      (∀ a, ¬ (128 * line ≤ a ∧ a < 128 * line + 128) → readByte t.mem a = readByte s.mem a) ∧
      (∀ a acc, r.parts = [(a, acc)] → acc.length = 128 → (r.format = 3 ∨ r.format = 1) → ∀ k, k < 32 →
        readNat t.mem (128 * line + 4 * k) 4 = commAdd r.format (readNat s.mem (128 * line + 4 * k) 4) (leNat ((acc.drop (4 * k)).take 4)) % 2 ^ 32)) ∧
  (∀ s, let line := s.args.n0; let n := ((lineOf s line).number + 1) % 256
    line ∉ s.coherence.census →
    (s.args.n1 ≠ 1 ∧ s.args.flag = false ∨
      s.args.n1 = 1 ∧ (lineOf s line).home = 1024 ∧ hostLine s line = false ∧ (∃ k, k < 64 ∧ wrongSymbols s line = 2 ^ k ∧ k ≠ s.args.n2 % 64)) →
    ∃ t, exec .census s = .next t ∧ line ∈ t.coherence.census ∧ (lineOf t line).number = n ∧ t.mem = s.mem ∧ (s.args.n1 = 1 → poisoned t line = true) ∧
      (∀ d, d < dieCount s → (⟨.activate, { n0 := d, n1 := line, n2 := homeAgent s line, n3 := n }⟩ : Due) ∈ t.agenda) ∧
      ∃ x ∈ t.timers, x.at_ = s.time.toNat + 1000 ∧ x.due = ⟨.censusHoldExpiry, { n0 := line }⟩) ∧
  (∀ s, let line := s.args.n0; let die := homeDie s (128 * line)
    let count := fun (s : State) => (errlogOf s die).extractLsb' 52 11
    (s.args.n1 ≠ 1 → s.args.flag = true → ∃ t, exec .census s = .next t ∧ (lineOf t line) = lineOf s line ∧ poisoned t line = poisoned s line ∧
      count t = (if count s = 2047#11 then 2047#11 else count s + 1#11) ∧
      (errlogOf t die).extractLsb' 0 52 = (errlogOf s die).extractLsb' 0 52 ∧ (errlogOf t die).getLsbD 63 = (errlogOf s die).getLsbD 63) ∧
    (s.args.n1 = 1 → wrongSymbols s line = 0 → ∃ t, exec .census s = .next t ∧ lineOf t line = lineOf s line ∧ poisoned t line = poisoned s line ∧
      t.coherence.census = s.coherence.census ∧ t.mem = s.mem)) ∧
  (∀ s, let line := s.args.n0; let die := homeDie s (128 * line)
    line ∈ s.coherence.census → (lineOf s line).holders = [] →
    ∃ t, exec .censusHoldExpiry s = .next t ∧ lineOf t line = { LineRec.atHome with number := (lineOf s line).number } ∧ poisoned t line = true ∧
      line ∉ t.coherence.census ∧ (∀ m ∈ t.coherence.net, m.line ≠ line) ∧
      errlogOf t die = ((errlogOf s die &&& 0x7FFFE00000000000#64) ||| 0x8000000000000000#64 ||| BitVec.ofNat 64 (line % 2 ^ 45)) ∧ t.mem = s.mem) ∧
  (∀ s, let line := s.args.n1
    (lineOf s line).hostState = 0 → (lineOf s line).home = 1024 → hostLine s line = true → s.args.bytes.length = 128 →
    tokenOutWait s line (gateway s.args.n0) = none →
    ∃ t, exec .hostLineObtained s = .next t ∧ readBytes t.mem (128 * line) 128 = s.args.bytes ∧ (lineOf t line).home = 0 ∧
      (lineOf t line).hostState = 1 + s.args.n0 ∧ (holderOf (lineOf t line) (gateway s.args.n0)).count = 1024) ∧
  (∀ s, let line := s.args.n0; let r := lineOf s line
    let gw := gateway (r.hostState - 1)
    r.hostState ≠ 0 → hostLine s line = true → (r.home = 1024 ∨ (r.home ≠ 1024 ∧ (holderOf r gw).count = 1024)) →
    ∃ t, exec .hostSnoop s = .next t ∧ (lineOf t line).hostState = 0 ∧
      t.out.hostData = s.out.hostData ++ [(128 * line, if poisoned s line then none else some (readBytes s.mem (128 * line) 128))] ∧ t.mem = s.mem ∧
      (r.home = 1024 → (lineOf t line).home = 1024) ∧
      (r.home ≠ 1024 → (holderOf (lineOf t line) gw).count = 0 ∧
        ∃ m ∈ t.coherence.net, m.line = line ∧ m.toward = homeAgent s line ∧ m.count = 1024 ∧ m.keystone = (holderOf r gw).keystone)) ∧
  (∀ s, let line := s.args.n0
    (lineOf s line).hostState = 1 → hostLine s line = false → s.args.bytes.length = 128 → HomeIdle s line →
    ∃ t, exec .bisnpResponse s = .next t ∧ readBytes t.mem (128 * line) 128 = s.args.bytes ∧ (lineOf t line).home = 1024 ∧
      (lineOf t line).homeKey = true ∧ (lineOf t line).hostState = 0 ∧ line ∉ t.out.bisnp)


/-! ## Speculation and synchronisation (R231, R237, R258, R439 to R466) -/

/-- R441, R444, R445, R455, R457: TRY opens a region or goes one deeper, an inner COMMIT goes one up, an outermost one waits for its commit point,
and TSTAT reads the status. -/
def Claims.TryAndCommit : Prop :=
  (∀ i isGroup (d : RegIx) lit, (∃ x, (i = .tryLane x d lit ∧ isGroup = false) ∨ (i = .tryGroup x d lit ∧ isGroup = true)) → ∀ s g, Ready i s g →
    (∀ t r, Active s t → (threadOf g t).region = some r → r.depth < 4) →
    ∃ h, exec i s = .next (withGroup { s with ids := s.ids + 1 } h) ∧ h = { g with threads := h.threads, specIssues := h.specIssues } ∧
      PcsPast s g h 2 ∧ ∀ t, t < 32 → Active s t → (threadOf h t).region = match (threadOf g t).region with
        | none => some ⟨1, isGroup, labelOf s lit, d.toNat, [], [], [], [], s.ids, false, none, []⟩
        | some r => some { r with depth := r.depth + 1 }) ∧
  (∀ i rel, (∃ x, i = .commit x ∧ rel = none) ∨ (∃ x c, i = .commitRel x c ∧ rel = some c.toNat) → ∀ s g, Ready i s g →
    (∀ t, Active s t → inRegion g t = true) → (∀ t, (threadOf g t).wait ≠ .commit) →
    ∃ t h, exec i s = .next t ∧ groupOf t s.iss.cid s.iss.slot = some h ∧ h.regs = g.regs ∧ PcsPast s g h 1 ∧ t.mem = s.mem ∧
      ∀ u r, u < 32 → Active s u → (threadOf g u).region = some r →
        if 1 < r.depth then (threadOf h u).region = some { r with depth := r.depth - 1 } ∧ (threadOf h u).wait = (threadOf g u).wait
        else (threadOf h u).region = some { r with committing := true, rel := rel } ∧ (threadOf h u).wait = .commit ∧
          (⟨.commitPoint, { n0 := s.iss.cid, n1 := s.iss.slot, n2 := u }⟩ : Due) ∈ t.agenda) ∧
  (∀ x d, Completes (.tstat x d) 1 fun _ g t => [(d.toNat, ⟨match (threadOf g t).region with
    | none => 0#32
    | some r => BitVec.ofNat 32 (r.depth + (if r.isGroup then 8 else 0) + 16 * r.log.length + 1024 * (writeLines g).length +
        524288 * (loadLines g).length), 12#4⟩)])

/-- R442, R448, R449, R451: ABORT takes each thread of E, in a region of its own, to the handler: the registers its log holds have their old values,
the four registers of the abort quad say EXPLICIT with the immediate, the depth and the lane, nothing else of the thread's registers changes, and
no store of the region reaches memory. -/
def Claims.ExplicitAbort : Prop :=
  ∀ x lit s g, Ready (.abort x lit) s g →
    (∀ t, Active s t → ∃ r, (threadOf g t).region = some r ∧ r.isGroup = false ∧ r.quad + 4 ≤ 128 ∧ (∀ e ∈ r.log, e.1 < 128) ∧ (r.log.map (·.1)).Nodup ∧
      r.depth ≤ 4) →
    ∃ t h, exec (.abort x lit) s = .next t ∧ groupOf t s.iss.cid s.iss.slot = some h ∧ t.mem = s.mem ∧
      (coreOf t s.iss.cid).scratch = (coreOf s s.iss.cid).scratch ∧
      (∀ u r, u < 32 → Active s u → (threadOf g u).region = some r →
        (threadOf h u).region = none ∧ (threadOf h u).pc = r.handler ∧ (threadOf h u).clause = none ∧ (threadOf h u).wait = .ready ∧
        regOf h u r.quad = ⟨BitVec.ofNat 32 (1 + 256 * (lit.extractLsb' 0 8).toNat + 65536 * r.depth + 16777216 * u), 12#4⟩ ∧
        regOf h u (r.quad + 1) = ⟨0#32, 12#4⟩ ∧ regOf h u (r.quad + 2) = ⟨0#32, 12#4⟩ ∧ regOf h u (r.quad + 3) = ⟨0#32, 12#4⟩ ∧
        ∀ v, v < 128 → ¬ (r.quad ≤ v ∧ v < r.quad + 4) →
          (∀ old, (v, old) ∈ r.log → regOf h u v = old) ∧ ((∀ e ∈ r.log, e.1 ≠ v) → regOf h u v = regOf g u v)) ∧
      (∀ u, u < 32 → ¬ Active s u → threadOf h u = threadOf g u ∧ ∀ v, v < 128 → regOf h u v = regOf g u v)

/-- R237, R455, R456: at its commit point a thread whose release has waited and whose core holds every token of its write set performs all its
buffered stores in one event, in the order they were made, and leaves its region; no other byte of memory or of the scratchpad changes. -/
def Obligations.CommitIsOneEvent : Prop :=
  ∀ s g r, let cid := s.args.n0; let slot := s.args.n1; let u := s.args.n2
    groupOf s cid slot = some g → u < 32 → (threadOf g u).region = some r → r.committing = true → r.isGroup = false → g.stop = none →
    releaseReady s cid slot u (r.rel.getD 0) s.ids = true → replayed g u = true → (coreOf s cid).sb = [] →
    (∀ w ∈ r.writes, w.scratch = false → mayWrite s (l1Agent cid) (w.addr / 128) = true ∧ NoStoppedReader s (l1Agent cid) (w.addr / 128)) →
    ∃ t h, exec .commitPoint s = .next t ∧ groupOf t cid slot = some h ∧ (threadOf h u).region = none ∧ (threadOf h u).wait = .ready ∧
      t.mem = (r.writes.filter fun w => !w.scratch).foldl (fun m w => writeByte m w.addr w.byte) s.mem ∧
      (coreOf t cid).scratch = (r.writes.filter (·.scratch)).foldl (fun m w => writeByte m w.addr w.byte) (coreOf s cid).scratch ∧
      (∀ a, (∀ w ∈ r.writes, w.scratch = false → w.addr ≠ a) → readByte t.mem a = readByte s.mem a) ∧
      (∀ v, v < 128 → regOf h u v = regOf g u v)

/-- R230, R231, R458: FENCE makes the threads of E that are in no region wait as a release at its scope does, and a waiting thread is ready again
when nothing of it is outstanding at that scope, in the replay queue of its group neither (R154). -/
def Claims.Fences : Prop :=
  (∀ x c s g, Ready (.fence x c) s g → (c.toNat = 0 ∨ regionLanes g s.iss.lanes = 0#32) →
    ∃ h, exec (.fence x c) s = .next (withGroup s h) ∧ h.regs = g.regs ∧ PcsPast s g h 1 ∧
      ∀ t, t < 32 → Active s t → (threadOf h t).wait = if inRegion g t then (threadOf g t).wait else .fence c.toNat) ∧
  (∀ s cid slot g t th scope, th.wait = .fence scope →
    (wakeThread s cid slot g t th).wait = if releaseReady s cid slot t scope s.ids && replayed g t then .ready else .fence scope)

/-- R459, R460: team barriers.  The arrivals of E are counted together; when they reach the need, the count starts again, the phase advances and
the waiting threads go on; otherwise the threads that wait do so in the phase they found. -/
def Claims.TeamBarriers : Prop :=
  (∀ x n s g tm, Ready (.barSync x n) s g → teamOf s g.team = some tm → tm.cid = s.iss.cid → n.toNat < tm.barriers.length →
    (∀ t, Active s t → releaseReady s s.iss.cid s.iss.slot t 0 s.ids = true) →
    let b := nth ⟨0, 0, 0#32⟩ tm.barriers n.toNat
    let k := b.arrived + (lanesOf s.iss.lanes).length
    ∃ t h tm', exec (.barSync x n) s = .next t ∧ groupOf t s.iss.cid s.iss.slot = some h ∧ teamOf t g.team = some tm' ∧ h.regs = g.regs ∧
      t.mem = s.mem ∧ (∀ u, u < 32 → Active s u → (threadOf h u).pc = if s.iss.replay then (threadOf g u).pc else s.iss.pc + 4) ∧
      nth ⟨0, 0, 0#32⟩ tm'.barriers n.toNat =
        (if k < barrierNeed s g.team b then { b with arrived := k } else { b with arrived := 0, phase := b.phase + 1 }) ∧
      ∀ u, u < 32 → Active s u → (threadOf h u).wait = if k < barrierNeed s g.team b then .barrier n.toNat b.phase s.ids s.iss.pc else .ready) ∧
  (∀ x d n s g tm, Ready (.barArrive x d n) s g → teamOf s g.team = some tm → tm.cid = s.iss.cid → n.toNat < tm.barriers.length →
    (∀ t, Active s t → releaseReady s s.iss.cid s.iss.slot t 0 s.ids = true) →
    let b := nth ⟨0, 0, 0#32⟩ tm.barriers n.toNat
    let k := b.arrived + (lanesOf s.iss.lanes).length
    ∃ t h tm', exec (.barArrive x d n) s = .next t ∧ groupOf t s.iss.cid s.iss.slot = some h ∧ teamOf t g.team = some tm' ∧
      RegsFrom s g h (fun _ => [(d.toNat, ⟨b.phase, 12#4⟩)]) ∧ t.mem = s.mem ∧
      nth ⟨0, 0, 0#32⟩ tm'.barriers n.toNat =
        if k < barrierNeed s g.team b then { b with arrived := k } else { b with arrived := 0, phase := b.phase + 1 }) ∧
  (∀ x a n s g tm, Ready (.barWait x a n) s g → teamOf s g.team = some tm →
    ∃ h, exec (.barWait x a n) s = .next (withGroup { s with ids := s.ids + 1 } h) ∧ h.regs = g.regs ∧ PcsPast s g h 1 ∧
      let phase := (nth ⟨0, 0, 0#32⟩ tm.barriers n.toNat).phase
      ∀ t, t < 32 → Active s t → (threadOf h t).wait =
        if srcVal s.iss g t a.toNat = phase then .barrier n.toNat phase s.ids s.iss.pc else (threadOf g t).wait) ∧
  (∀ x lit s g tm, Ready (.barInit x lit) s g → teamOf s g.team = some tm → (lit.extractLsb' 0 3).toNat < tm.barriers.length →
    (nth ⟨0, 0, 0#32⟩ tm.barriers (lit.extractLsb' 0 3).toNat).arrived = 0 →
    ∃ t h tm', exec (.barInit x lit) s = .next t ∧ groupOf t s.iss.cid s.iss.slot = some h ∧ teamOf t g.team = some tm' ∧ h.regs = g.regs ∧
      PcsPast s g h 2 ∧ t.mem = s.mem ∧ nth ⟨0, 0, 0#32⟩ tm'.barriers (lit.extractLsb' 0 3).toNat =
        { nth ⟨0, 0, 0#32⟩ tm.barriers (lit.extractLsb' 0 3).toNat with expected := (lit.extractLsb' 8 9).toNat })

/-- R258, R463: convergence registers: a member set is set while no thread has signed (otherwise ILLEGAL_ENCODING is trapped), CVWAIT goes on when
the signed set is empty and waits otherwise, and CVRD reads both sets. -/
def Obligations.ConvergenceRegisters : Prop :=
  (∀ x n s g, Ready (.cvset x n) s g → n.toNat < g.cv.length →
    ((nth Cv.empty g.cv n.toNat).signed = 0#32 → ∃ h, exec (.cvset x n) s = .next (withGroup s h) ∧ h.regs = g.regs ∧ PcsPast s g h 1 ∧
      nth Cv.empty h.cv n.toNat = { Cv.empty with members := s.iss.lanes }) ∧
    ((nth Cv.empty g.cv n.toNat).signed ≠ 0#32 → ∃ t, exec (.cvset x n) s = .next t ∧ Trapped s t g 0x02 0 s.iss.lanes)) ∧
  (∀ x a n s g, Ready (.cvsetMask x a n) s g → n.toNat < g.cv.length → (nth Cv.empty g.cv n.toNat).signed = 0#32 →
    ∃ h, exec (.cvsetMask x a n) s = .next (withGroup s h) ∧ h.regs = g.regs ∧ PcsPast s g h 1 ∧
      nth Cv.empty h.cv n.toNat = { Cv.empty with members := srcVal s.iss g (lowestLane s.iss.lanes) a.toNat &&& liveLanes g }) ∧
  (∀ x n s g, Ready (.cvwait x n) s g → ∃ h, exec (.cvwait x n) s = .next (withGroup s h) ∧ h.regs = g.regs ∧
    ((nth Cv.empty g.cv n.toNat).signed = 0#32 → PcsPast s g h 1) ∧
    ((nth Cv.empty g.cv n.toNat).signed ≠ 0#32 → ∀ t, t < 32 → Active s t → threadOf h t = { threadOf g t with wait := .cv n.toNat })) ∧
  (∀ x d n, Completes (.cvrd x d n) 1 fun _ g _ =>
    [(d.toNat, ⟨(nth Cv.empty g.cv n.toNat).members, 12#4⟩), (d.toNat + 1, ⟨(nth Cv.empty g.cv n.toNat).signed, 12#4⟩)])

/-- R103, R464, R465, R466: with room in the pipe, PIPE.PUT moves one word of each thread of E into the next slot of the buffer in the consumer's
scratchpad and fills it; with a message there, PIPE.GET takes it into its destination and empties the slot. -/
def Obligations.Pipes : Prop :=
  (∀ x a n s g gang p, Ready (.pipePut x a n) s g → PipesIdle s → (∀ o ∈ g.ops, o.id ≠ s.ids) →
    pipeOf s g n.toNat true = some (gang, p) → kernelRetired s gang p.consumer = false →
    (∀ t, Active s t → releaseReady s s.iss.cid s.iss.slot t 2 s.ids = true) →
    let at_ := 4096 * p.unit + 128 * (p.puts % 32)
    at_ / 16 ∉ (coreOf s p.cid).full →
    ∃ t h, exec (.pipePut x a n) s = .next t ∧ groupOf t s.iss.cid s.iss.slot = some h ∧ RegsFrom s g h (fun _ => []) ∧ PcsPast s g h 1 ∧
      h.ops = g.ops ∧ t.mem = s.mem ∧ (∀ k, k < 8 → at_ / 16 + k ∈ (coreOf t p.cid).full) ∧
      (∀ u, u < 32 → readNat (coreOf t p.cid).scratch (at_ + 4 * u) 4 = if s.iss.lanes.getLsbD u then (srcVal s.iss g u a.toNat).toNat else 0) ∧
      (∀ b, ¬ (at_ ≤ b ∧ b < at_ + 128) → readByte (coreOf t p.cid).scratch b = readByte (coreOf s p.cid).scratch b)) ∧
  (∀ x d n s g gang p, Ready (.pipeGet x d n) s g → PipesIdle s → (∀ o ∈ g.ops, o.id ≠ s.ids) → pipeOf s g n.toNat false = some (gang, p) →
    let at_ := 4096 * p.unit + 128 * (p.gets % 32)
    at_ / 16 ∈ (coreOf s p.cid).full →
    ∃ t h, exec (.pipeGet x d n) s = .next t ∧ groupOf t s.iss.cid s.iss.slot = some h ∧
      RegsFrom s g h (fun u => [(d.toNat, ⟨BitVec.ofNat 32 (readNat (coreOf s p.cid).scratch (at_ + 4 * u) 4), 0#4⟩)]) ∧ PcsPast s g h 1 ∧
      h.ops = g.ops ∧ t.mem = s.mem ∧ (∀ k, k ∈ (coreOf t p.cid).full ↔ k ∈ (coreOf s p.cid).full ∧ ¬ (at_ / 16 ≤ k ∧ k < at_ / 16 + 8)))


/-! ## The matrix engine (R131, R132, R472 to R478) -/

/-- R472: MRSV gives 1 and the reservation when no other group holds the tile, and 0 otherwise; MREL gives a held tile back. -/
def Claims.TileReservations : Prop :=
  (∀ x d n s g tm, Ready (.mrsv x d n) s g → teamOf s g.team = some tm → n.toNat < tm.tiles.length →
    ∃ t h, exec (.mrsv x d n) s = .next t ∧ t = withGroup { s with teams := t.teams } h ∧ OnlyRegs g h ∧ PcsPast s g h 1 ∧
      (∀ id, id ≠ g.team → teamOf t id = teamOf s id) ∧
      ((∃ r ∈ tm.resv, r.2 = n.toNat ∧ r.1 ≠ g.index) → RegsFrom s g h (fun _ => [(d.toNat, truth false)]) ∧ teamOf t g.team = some tm) ∧
      ((∀ r ∈ tm.resv, r.2 = n.toNat → r.1 = g.index) → RegsFrom s g h (fun _ => [(d.toNat, truth true)]) ∧
        ∃ u, teamOf t g.team = some u ∧ (∀ r, r ∈ u.resv ↔ r ∈ tm.resv ∨ r = (g.index, n.toNat)) ∧ u = { tm with resv := u.resv })) ∧
  (∀ x n s g tm, Ready (.mrel x n) s g → teamOf s g.team = some tm → n.toNat < tm.tiles.length →
    ∃ t h, exec (.mrel x n) s = .next t ∧ t = withGroup { s with teams := t.teams } h ∧ OnlyRegs g h ∧ RegsFrom s g h (fun _ => []) ∧ PcsPast s g h 1 ∧
      (∀ id, id ≠ g.team → teamOf t id = teamOf s id) ∧
      ∃ u, teamOf t g.team = some u ∧ (∀ r, r ∈ u.resv ↔ r ∈ tm.resv ∧ r ≠ (g.index, n.toNat)) ∧ u = { tm with resv := u.resv })

/-- R131, R258, R259, R473, R475, R477: MRD leaves its registers to the engine, MWR hands over its sixteen registers at issue, MZERO enters, and
an MMA signs its convergence register, whose last member to sign sends the operation with the rows of every signer. -/
def Claims.MatrixInstructionsEnter : Prop :=
  (∀ x d c n i, (i = .mrdF32 x d c n ∨ i = .mrdS32 x d c n) →
    EntersTable i n fun s g t h e => TakenOver s g h i 1 ∧ e.op = s.ids ∧ e.flags = [] ∧ t.ids = s.ids + 1) ∧
  (∀ x a c n, EntersTable (.mwr x a c n) n fun s g _ h e => h.ops = g.ops ∧ h.flags = (attachIssue s.iss g).flags ∧ e.flags = [s.iss.flag] ∧
    ∀ u, Active s u → (u, (List.range 16).map fun k => srcVal s.iss g u (a.toNat + k)) ∈ e.data) ∧
  (∀ x n, EntersTable (.mzero x n) n fun s g _ h e => h.ops = g.ops ∧ h.flags = (attachIssue s.iss g).flags ∧ e.flags = [s.iss.flag]) ∧
  MmaSigns .mma false ∧ MmaSigns .mmaSp true

/-- R131, R132, R324, R473, R477: the pass of the one entry of a table.  MZERO leaves its tile zero, MWR writes the two rows of each lane at
columns 8c to 8c + 7, MRD writes the same places to its registers under its tag, and an MMA leaves the tile that the rounded sums give after its
last pass; no other tile changes, and memory does not. -/
def Obligations.MatrixPassActs : Prop :=
  ∀ s e, let p := pierNo e.cid
    s.args.n0 = p → (pierOf s p).table = [e] → entryHeld s p e = false → rising (pierOf s p).tiles = true →
    (∀ c k (g : Group), groupOf s c k = some g → ∀ v ∈ g.cv, v.pending = false) →
    ∃ t, exec .matrixPass s = .next t ∧ t.mem = s.mem ∧
      (let old := tileWord (pierOf s p) e.tile
       let new := tileWord (pierOf t p) e.tile
       (∀ k r c, k ≠ e.tile → r < 64 → c < 64 → tileWord (pierOf t p) k r c = tileWord (pierOf s p) k r c) ∧
       (∀ x n, e.instr = .mzero x n → (pierOf t p).table = [] ∧ ∀ r c, r < 64 → c < 64 → new r c = 0#32) ∧
       (∀ x a c n, e.instr = .mwr x a c n → ((e.data.map (·.1)).Nodup) → (∀ d ∈ e.data, d.1 < 32 ∧ d.2.length = 16) → (pierOf t p).table = [] ∧
         (∀ d ∈ e.data, ∀ k, k < 16 → new (2 * d.1 + k / 8) (8 * c.toNat + k % 8) = nth 0#32 d.2 k) ∧
         (∀ r q, r < 64 → q < 64 → (q / 8 ≠ c.toNat ∨ ∀ d ∈ e.data, d.1 ≠ r / 2) → new r q = old r q)) ∧
       (∀ x d c n g o, (e.instr = .mrdF32 x d c n ∨ e.instr = .mrdS32 x d c n) → groupOf s e.cid e.slot = some g → opOf g e.op = some o →
         o.todo = e.lanes → d.toNat + 15 < 128 → (pierOf t p).table = [] ∧ (∀ r q, r < 64 → q < 64 → new r q = old r q) ∧
         ∃ h, groupOf t e.cid e.slot = some h ∧ (∀ y ∈ h.ops, y.id ≠ e.op) ∧
           ∀ u v, u < 32 → v < 128 → regOf h u v =
             if e.lanes.getLsbD u = true ∧ d.toNat ≤ v ∧ v < d.toNat + 16 then
               ⟨old (2 * u + (v - d.toNat) / 8) (8 * c.toNat + (v - d.toNat) % 8), if e.instr = .mrdF32 x d c n then 1#4 else 12#4⟩
             else regOf g u v) ∧
       (∀ x d a b lit sp, (e.instr = .mma x d a b lit ∧ sp = false ∨ e.instr = .mmaSp x d a b lit ∧ sp = true) →
         ((pierOf t p).table = [] ∧ ∀ r c, r < 64 → c < 64 → new r c = nth 0#32 (mmaTileWords s e sp) (64 * r + c)) ∨
         ((pierOf t p).table = [{ e with passes := e.passes + 1 }] ∧ (∀ r c, r < 64 → c < 64 → new r c = old r c) ∧
           e.passes + 1 < matK (descFmt e.desc) / 16)))

/-! ## The transfer engine (R261, R262, R431 to R436) -/

/-- R261, R431, R432, R433: a COPY, GATHER or SCATTER whose lowest lane names allowed operands is accepted by its stream. -/
def Claims.TransferCommandsIssue : Prop :=
  (∀ x d a b, TransferIssues (.copyG2s x d a b) 1
    (fun s g t => ⟨0, (srcPair s.iss g t a.toNat).toNat, (srcVal s.iss g t d.toNat).toNat, 0, (srcVal s.iss g t b.toNat).toNat, 1⟩)
    fun tm y => LenAllowed 393216 y.len ∧ y.src % 16 = 0 ∧ SpanAllowed tm y.dst y.len 16) ∧
  (∀ x d a b, TransferIssues (.copyS2g x d a b) 1
    (fun s g t => ⟨1, (srcVal s.iss g t a.toNat).toNat, (srcPair s.iss g t d.toNat).toNat, 0, (srcVal s.iss g t b.toNat).toNat, 1⟩)
    fun tm y => LenAllowed 393216 y.len ∧ y.dst % 16 = 0 ∧ SpanAllowed tm y.src y.len 16) ∧
  (∀ x d a b, TransferIssues (.copyG2g x d a b) 1
    (fun s g t => ⟨2, (srcPair s.iss g t a.toNat).toNat, (srcPair s.iss g t d.toNat).toNat, 0, (srcVal s.iss g t b.toNat).toNat, 1⟩)
    fun _ y => LenAllowed 4294967280 y.len ∧ y.src % 16 = 0 ∧ y.dst % 16 = 0) ∧
  (∀ x d a b lit, TransferIssues (.gather x d a b lit) 2
    (fun s g t => ⟨3, (srcPair s.iss g t a.toNat).toNat, (srcVal s.iss g t d.toNat).toNat, (srcVal s.iss g t b.toNat).toNat,
      fieldOf lit 0 13, 16 * 2 ^ fieldOf lit 16 2⟩)
    fun tm y => y.src % 16 = 0 ∧ SpanAllowed tm y.dst (y.len * y.size) 16 ∧ SpanAllowed tm y.list_ (4 * y.len) 4) ∧
  (∀ x d a b lit, TransferIssues (.scatter x d a b lit) 2
    (fun s g t => ⟨4, (srcVal s.iss g t a.toNat).toNat, (srcPair s.iss g t d.toNat).toNat, (srcVal s.iss g t b.toNat).toNat,
      fieldOf lit 0 13, 16 * 2 ^ fieldOf lit 16 2⟩)
    fun tm y => y.dst % 16 = 0 ∧ SpanAllowed tm y.src (y.len * y.size) 16 ∧ SpanAllowed tm y.list_ (4 * y.len) 4)

/-- R254, R256, R262, R432: the one command of a pier's copy stream moves a burst.  A copy to scratchpad of at most one burst from a span at hand
leaves the bytes in the run, fills their granules, leaves memory as it was, and clears its flag; a copy from scratchpad leaves the run's bytes in
memory and no other byte of it changed. -/
def Claims.BurstsMoveBytes : Prop :=
  ∀ s c tm g pa, let p := pierNo c.cid
    s.args.n0 = p → s.args.n1 = 0 → (pierOf s p).copies = [c] → (pierOf s p).gathers = [] → c.cursor = 0 → c.faults = [] → 0 < c.len → c.len ≤ 4096 →
    frozen s c.fn c.q (.copyStream p) = false → teamOf s c.team = some tm → groupOf s c.cid c.slot = some g → g.ops = [] →
    g.replayQ = [] → g.stop = none →
    ((c.kind = 0 → AtHand s p c.asid c.fn .read c.supervisor c.src c.len pa →
      ∃ t h, exec .transferBurst s = .next t ∧ (pierOf t p).copies = [] ∧ t.mem = s.mem ∧ groupOf t c.cid c.slot = some h ∧
        h = completeFlag g c.flag ∧
        (∀ j, j < c.len → readByte (coreOf t c.cid).scratch (4096 * tm.unitBase + c.dst + j) = readByte s.mem (pa + j)) ∧
        (∀ a, ¬ (4096 * tm.unitBase + c.dst ≤ a ∧ a < 4096 * tm.unitBase + c.dst + c.len) →
          readByte (coreOf t c.cid).scratch a = readByte (coreOf s c.cid).scratch a) ∧
        ∀ j, j < c.len → (4096 * tm.unitBase + c.dst + j) / 16 ∈ (coreOf t c.cid).full) ∧
     (c.kind = 1 → c.before = (coreOf s c.cid).scratch → AtHand s p c.asid c.fn .write c.supervisor c.dst c.len pa →
      ∃ t h, exec .transferBurst s = .next t ∧ (pierOf t p).copies = [] ∧ groupOf t c.cid c.slot = some h ∧ h = completeFlag g c.flag ∧
        (coreOf t c.cid).scratch = (coreOf s c.cid).scratch ∧
        (∀ j, j < c.len → readByte t.mem (pa + j) = readByte (coreOf s c.cid).scratch (4096 * tm.unitBase + c.src + j)) ∧
        ∀ a, ¬ (pa ≤ a ∧ a < pa + c.len) → readByte t.mem a = readByte s.mem a))


/-! ## Rays and structures (R263 to R290, R480 to R485) -/

/-- R286, R288, R289, R480, R483: TRACE and TRACE.EMIT.  A ray whose slot holds no live generation ends at once with NOT_READY in its hit record,
and one that hits nothing with a miss. -/
def Obligations.RaysAreAccepted : Prop :=
  (∀ x d a b lit, RayAccepted (.trace x d a b lit) false d a b lit) ∧ (∀ x d a b lit, RayAccepted (.traceEmit x d a b lit) true d a b lit) ∧
  (∀ x d a b lit s g u pa, let i := Instr.trace x d a b lit
    let slot := pa + 64 + 64 * fieldOf lit 0 1
    let ray := (List.range 8).map fun k => srcVal s.iss g u (b.toNat + k)
    let state := readNat s.mem (slot + 36) 1
    Ready i s g → s.iss.lanes = oneLane u → u < 32 → DescriptorAtHand s g a u .read pa → (∀ r ∈ (pierOf s (pierNo s.iss.cid)).rays, r.id ≠ s.ids + 1) →
    ((state ≠ 1 ∧ state ≠ 2) ∨ (hitsNothing ray = true ∧ s.rayCounts.length < 256)) →
    ∃ t h, exec i s = .next t ∧ groupOf t s.iss.cid s.iss.slot = some h ∧ h.ops = [] ∧ PcsPast s g h 2 ∧ t.mem = s.mem ∧
      RegsFrom s g h fun _ =>
        if state ≠ 1 ∧ state ≠ 2 then [(d.toNat, ⟨0x7FC00000#32, 1#4⟩), (d.toNat + 1, ⟨0x03000000#32, 12#4⟩), (d.toNat + 2, ⟨0#32, 12#4⟩),
          (d.toNat + 3, ⟨1#32, 12#4⟩)]
        else [(d.toNat, ⟨0x7F800000#32, 1#4⟩), (d.toNat + 1, ⟨0#32, 12#4⟩), (d.toNat + 2, ⟨0#32, 12#4⟩), (d.toNat + 3, ⟨0#32, 12#4⟩)])

/-- R267, R268, R274, R283, R484, R485: the builder commands.  A build starts in an EMPTY slot (an update from a READY one), a refit of a READY
slot is accepted, a retirement of a READY or FAILED slot answers 0 and leaves it RETIRING for the compactor, and a command that the slot's state
does not allow answers SLOT_STATE in every lane and changes nothing. -/
def Claims.BuilderCommands : Prop :=
  (∀ x d a n, BuildStarts (.asbuild x d a n) 0 a n fun _ _ => True) ∧
  (∀ x d a n, BuildStarts (.asbuildUpdate x d a n) 1 a n fun s pa => readNat s.mem (pa + 64 + 64 * (1 - n.toNat) + 36) 1 = 2) ∧
  (∀ x d a n s g pa, let i := Instr.asrefit x d a n
    Ready i s g → DescriptorAtHand s g a (lowestLane s.iss.lanes) .read pa → readNat s.mem (pa + 64 + 64 * n.toNat + 36) 1 = 2 →
    (∀ b ∈ s.builds, b.2.kind ≠ 1) →
    ∃ t h b, exec i s = .next t ∧ groupOf t s.iss.cid s.iss.slot = some h ∧ TakenOver s g h i 1 ∧ t.mem = s.mem ∧
      find? t.builds s.ids = some b ∧ b.kind = 2 ∧ b.phase = 1 ∧ b.op = s.ids ∧ (⟨.builderTask, { n0 := s.ids }⟩ : Due) ∈ t.agenda) ∧
  (∀ x d a n s g pa, let i := Instr.asretire x d a n
    let u := lowestLane s.iss.lanes
    let slot := pa + 64 + 64 * n.toNat
    Ready i s g → DescriptorAtHand s g a u .read pa → DescriptorAtHand s g a u .write pa → s.builds = [] →
    (readNat s.mem (slot + 36) 1 = 2 ∨ readNat s.mem (slot + 36) 1 = 4) →
    ∃ t h c, exec i s = .next t ∧ groupOf t s.iss.cid s.iss.slot = some h ∧ h.ops = [] ∧ RegsFrom s g h (fun _ => [(d.toNat, ⟨0#32, 12#4⟩)]) ∧
      PcsPast s g h 1 ∧ readNat t.mem (slot + 36) 1 = 3 ∧ (∀ y, y ≠ slot + 36 → readByte t.mem y = readByte s.mem y) ∧ t.builds = [] ∧
      find? t.compacts (s.ids + 1) = some c ∧ c.generation = readNat s.mem (slot + 24) 4 ∧
      c.ranges = [(readNat s.mem slot 8, 128 * readNat s.mem (slot + 28) 4), (readNat s.mem (slot + 16) 8, 8 * readNat s.mem (slot + 32) 4)] ∧
      (⟨.compactorBlock, { n0 := s.ids + 1 }⟩ : Due) ∈ t.agenda) ∧
  (∀ i x d a n s g pa, let state := readNat s.mem (pa + 64 + 64 * n.toNat + 36) 1
    Ready i s g → DescriptorAtHand s g a (lowestLane s.iss.lanes) .read pa →
    (i = .asbuild x d a n ∧ state ≠ 0 ∨ i = .asbuildUpdate x d a n ∧ state ≠ 0 ∨ i = .asrefit x d a n ∧ state ≠ 2 ∨
      i = .asretire x d a n ∧ (state = 0 ∨ state = 3)) →
    ∃ t h, exec i s = .next t ∧ groupOf t s.iss.cid s.iss.slot = some h ∧ h.ops = [] ∧ RegsFrom s g h (fun _ => [(d.toNat, ⟨4#32, 12#4⟩)]) ∧
      PcsPast s g h 1 ∧ t.mem = s.mem)

/-! ## Launches by programs (R100, R231, R486, R487) -/

/-- R80, R100, R105, R486: LAUNCH in the team leader.  A good record at hand, with everything before the release done and a child entry free,
makes a child grid one deeper, on the dies its record names, and answers 0; a record with a bad field answers 1 and makes nothing.  R487: EMIT
sends one record for each lane to the front end of its die. -/
def Claims.LaunchAndEmit : Prop :=
  (∀ x d a s g tm parent pa, let i := Instr.launch x d a
    let addr := (srcPair s.iss g 0 a.toNat).toNat
    let rec_ := readBytes s.mem pa 64
    Ready i s g → s.iss.lanes = 1#32 → g.index = 0 → teamOf s g.team = some tm → launchOf s tm.launch = some parent → parent.depth ≠ 10 →
    addr % 64 = 0 → g.ops = [] → g.replayQ = [] → AtHand s (pierNo s.iss.cid) (asidOf s g) (contextOf s g).1 .read g.supervisor addr 64 pa →
    ((readNat s.mem pa 4 ≠ 1 ∨ readNat s.mem (pa + 36) 4 ≠ 0 ∨ (gridBad s rec_).isSome = true) →
      ∃ t h, exec i s = .next t ∧ groupOf t s.iss.cid s.iss.slot = some h ∧ h.ops = [] ∧ RegsFrom s g h (fun _ => [(d.toNat, ⟨1#32, 12#4⟩)]) ∧
        PcsPast s g h 1 ∧ t.mem = s.mem ∧ t.launches = s.launches) ∧
    (∀ ps, readNat s.mem pa 4 = 1 → readNat s.mem (pa + 36) 4 = 0 → gridBad s rec_ = none →
      let l := gridLaunch s rec_ (s.iss.cid / 128)
      AtHand s (pierNo s.iss.cid) parent.asid parent.fn .execute parent.supervisor ((readNat s.mem (pa + 8) 8 + 2 ^ 64 - 8) % 2 ^ 64) 8 ps →
      readNat s.mem ps 4 = 0x4B454E54 → (∀ k ∈ l.kernels, fitsEmpty k 0 = true) → (queueOf s parent.fn parent.q).saved = false →
      (queueOf s parent.fn parent.q).preempt = none → (coreOf s s.iss.cid).sb = [] → engineWork s s.iss.cid s.iss.slot 0 s.ids 3 = false →
      (∀ e ∈ diesOfLaunch s l, listRoom s e true = true) →
      ∃ t h c, exec i s = .next t ∧ groupOf t s.iss.cid s.iss.slot = some h ∧ h.ops = [] ∧ RegsFrom s g h (fun _ => [(d.toNat, ⟨0#32, 12#4⟩)]) ∧
        PcsPast s g h 1 ∧ t.mem = s.mem ∧ launchOf t (s.ids + 1) = some c ∧ c.kind = .grid ∧ c.parent = some tm.launch ∧
        c.depth = parent.depth + 1 ∧ c.priority = parent.priority ∧ c.asid = parent.asid ∧ c.supervisor = parent.supervisor ∧
        c.nx = readNat s.mem (pa + 24) 2 ∧ c.ny = readNat s.mem (pa + 26) 2 ∧ c.nz = readNat s.mem (pa + 28) 2 ∧ c.count = c.nx * c.ny * c.nz ∧
        c.die = (if readNat s.mem (pa + 35) 1 = 0 then s.iss.cid / 128 + 1 else readNat s.mem (pa + 35) 1) ∧
        ∀ e ∈ c.units, e.2 < c.count → (s.ids + 1, false) ∈ (placerOf t e.1).list ∧ (⟨.placementPass, { n0 := e.1 }⟩ : Due) ∈ t.agenda)) ∧
  (∀ x a b s g l, let i := Instr.emit x a b
    Ready i s g → launchOfGroup s g = some l → l.kind = .pool → (∀ u, Active s u → (srcVal s.iss g u a.toNat).toNat % 4 = 0) →
    ∃ t h, exec i s = .next t ∧ groupOf t s.iss.cid s.iss.slot = some h ∧ Begun s g h i 1 s.iss.lanes (fun _ => 0#64) (fun _ => []) ∧ t.mem = s.mem ∧
      ∀ u, Active s u → ∃ y ∈ t.agenda, y.step = .poolRecordDeliver ∧ y.args.n0 = s.iss.cid / 128 ∧
        y.args.n1 = ((teamOf s g.team).map (·.launch)).getD 0 ∧ y.args.n2 = s.ids ∧ y.args.n3 = (16 * s.iss.cid + s.iss.slot) * 32 + u ∧
        y.args.bytes = leBytes 4 (srcVal s.iss g u a.toNat).toNat ++ leBytes 2 (srcVal s.iss g u (a.toNat + 1)).toNat ++ leBytes 10 0 ++
          (List.range 12).flatMap fun k => leBytes 4 (srcVal s.iss g u (b.toNat + k)).toNat)


/-! ## Placement, pools and the end of launches (R81, R99, R105 to R125, R155, R244, R386) -/

/-- R99, R106, R107, R108, R244: a grid's next team goes to the lowest core of the die where it fits, onto the lowest free slots and scratchpad run,
each group at its code address with registers reading zero; where it fits on no core, nothing is placed.  A record whose checks are done enters the
list, or waits while the list has no room for it. -/
def Claims.GridsArePlaced : Prop :=
  (∀ s id l k i, let d := s.args.n0
    (placerOf s d).list = [(id, false)] → launchOf s id = some l → l.kind = .grid → l.kernels = [k] → find? l.units d = some i → i + 1 = l.count →
    contextAway s l = false →
    (∀ c b, c ∈ coresOf d → fitsOn s c k 0 = some b → (∀ e ∈ coresOf d, e < c → fitsOn s e k 0 = none) →
      ∃ t tm, exec .placementPass s = .next t ∧ t.mem = s.mem ∧ teamOf t s.ids = some tm ∧ tm.cid = c ∧ tm.unitBase = b ∧ tm.launch = id ∧
        tm.linear = i ∧ (tm.x, tm.y, tm.z) = (i % l.nx, i / l.nx % l.ny, i / (l.nx * l.ny)) ∧ tm.slots = (freeSlots s c).take k.groups ∧
        tm.tiles = (freeTiles s (pierNo c)).take k.tiles ∧
        (∀ j sl, tm.slots[j]? = some sl → ∃ h, groupOf t c sl = some h ∧ h.team = s.ids ∧ h.index = j ∧ h.regs = [] ∧ h.granules = k.granules ∧
          h.threads = List.replicate 32 (Thread.start k.code) ∧ h.ops = [] ∧ h.stop = none) ∧
        (∀ a, 4096 * b ≤ a → a < 4096 * (b + k.units) → readByte (coreOf t c).scratch a = 0#8) ∧
        (id, false) ∉ (placerOf t d).list) ∧
    ((∀ c ∈ coresOf d, fitsOn s c k 0 = none) →
      ∃ t, exec .placementPass s = .next t ∧ t.mem = s.mem ∧ t.teams = s.teams ∧ t.cores = s.cores ∧ (placerOf t d).list = [(id, false)])) ∧
  (∀ s l, let a := s.args
    a.flag = false → a.n2 = 1 → launchOf s a.n1 = some l → contextAway s l = false →
    ∃ t, exec .placementRecordArrival s = .next t ∧ t.mem = s.mem ∧
      (listRoom s a.n0 l.parent.isSome = false → (placerOf t a.n0).waiting = (placerOf s a.n0).waiting ++ [a.n1] ∧
        (placerOf t a.n0).list = (placerOf s a.n0).list) ∧
      (listRoom s a.n0 l.parent.isSome = true → (∀ i, find? l.units a.n0 = some i → i < l.count) → (find? l.units a.n0).isSome = true →
        (placerOf t a.n0).list = (placerOf s a.n0).list ++ [(a.n1, false)] ∧ (⟨.placementPass, { n0 := a.n0 }⟩ : Due) ∈ t.agenda))

/-- R82, R99, R100, R155, R162, R386: a group whose threads have exited exits when nothing of it is unfinished, its tile reservations with it, and the
last group retires its team; a child that has nothing left is folded into its parent; a watchdog past its limit stops every resident group with
WATCHDOG; and a trap that no debugger holds ends the launch, with everything of it gone. -/
def Obligations.LaunchesEnd : Prop :=
  (∀ s g tm, let cid := s.args.n0
    let slot := s.args.n1
    groupOf s cid slot = some g → teamOf s g.team = some tm → tm.cid = cid → slot < 15 → g.exitedWhole = false → liveLanes g = 0#32 → g.ops = [] →
    g.replayQ = [] → g.storesOut = [] → g.stop = none → (∀ v ∈ g.cv, v.pending = false) → groupEngines s cid slot = false → groupError g = none →
    (tm.slots = [slot] → ∃ t, exec .groupExit s = .next t ∧ teamOf t g.team = none ∧ groupOf t cid slot = none ∧ t.mem = s.mem ∧
      (⟨.placementPass, { n0 := cid / 128 }⟩ : Due) ∈ t.agenda) ∧
    (∀ k x, k ∈ tm.slots → k ≠ slot → groupOf s cid k = some x → x.team = g.team → x.exitedWhole = false →
      ∃ t h u, exec .groupExit s = .next t ∧ groupOf t cid slot = some h ∧ h.exitedWhole = true ∧ h.active = false ∧ h.latch = none ∧
        teamOf t g.team = some u ∧ (∀ r ∈ u.resv, r.1 ≠ g.index) ∧ t.mem = s.mem)) ∧
  (∀ s g, groupOf s s.args.n0 s.args.n1 = some g → (liveLanes g ≠ 0#32 ∨ g.exitedWhole = true) → exec .groupExit s = .next s) ∧
  (∀ s l p x, launchOf s s.args.n0 = some l → launchIdle s s.args.n0 l = true → l.parent = some p → p ≠ s.args.n0 → launchOf s p = some x →
    ∃ t y, exec .launchComplete s = .next t ∧ launchOf t s.args.n0 = none ∧ launchOf t p = some y ∧ y = { x with cores := y.cores } ∧
      (∀ c, c ∈ y.cores ↔ c ∈ x.cores ∨ c ∈ l.cores) ∧ t.mem = s.mem ∧ t.queues = s.queues) ∧
  (∀ s l, launchOf s s.args.n0 = some l → launchIdle s s.args.n0 l = true → l.parent = none →
    ∃ t, exec .launchComplete s = .next t ∧ launchOf t s.args.n0 = none ∧ recordOf t l.fn l.q l.rec_ = none) ∧
  (∀ s l since, launchOf s s.args.n0 = some l → l.since = some since → l.used + (s.time.toNat - since) ≤ l.limit →
    exec .watchdogExpiry s = .next s) ∧
  (∀ s l since id tm k g, launchOf s s.args.n0 = some l → l.since = some since → l.limit < l.used + (s.time.toNat - since) → s.launches = [(s.args.n0, l)] →
    l.parent = none → l.teams = [id] → teamOf s id = some tm → tm.slots = [k] → groupOf s tm.cid k = some g → g.exitedWhole = false → g.stop = none →
    ∃ t h st, exec .watchdogExpiry s = .next t ∧ groupOf t tm.cid k = some h ∧ h.stop = some st ∧ st.code = 0x0E ∧ st.causes = 1 ∧
      st.lanes = liveLanes g ∧ (⟨.trapResolution, { n0 := tm.cid, n1 := k }⟩ : Due) ∈ t.agenda) ∧
  (∀ s g st tm l, groupOf s s.args.n0 s.args.n1 = some g → g.stop = some st → st.code ≠ 0 → st.code ≠ 0x0C → attachedTo s g = false →
    teamOf s g.team = some tm → launchOf s tm.launch = some l → l.parent = none → l.doomed = none →
    ((∀ c ∈ s.cores, c.2.sb = []) →
      ∃ t, exec .trapResolution s = .next t ∧ launchOf t tm.launch = none ∧ (∀ u ∈ t.teams, u.2.launch ≠ tm.launch) ∧
        recordOf t l.fn l.q l.rec_ = none) ∧
    (∀ c x, st.code ≠ 0x0E → c ∈ l.cores → x ∈ (coreOf s c).sb → x.slot = noSlot →
      ∃ t y, exec .trapResolution s = .next t ∧ launchOf t tm.launch = some y ∧ y.doomed = some (4, st.code) ∧ y.teams = [] ∧
        (∀ u ∈ t.teams, u.2.launch ≠ tm.launch) ∧ (⟨.launchComplete, { n0 := tm.launch }⟩ : Due) ∈ t.agenda)) ∧
  (∀ s g st, groupOf s s.args.n0 s.args.n1 = some g → g.stop = some st → attachedTo s g = true → st.resolved = false → exec .trapResolution s = .next s)

/-- R118 to R121, R124, R125: a continuation record that reaches its die joins a bin that takes it, one with a byte that must be zero is dropped and
counted, and after POOL_OVERFLOW every record is; a bin whose timer runs out is READY; a record returns from the overflow ring to a bin; and a
ring without room for longer than the limit ends the pool with its records discarded. -/
def Claims.PoolRecords : Prop :=
  (∀ s l p n, let a := s.args
    let d := poolDie p a.n0
    a.n2 = 0 → launchOf s a.n1 = some l → l.pool = some p → contextAway s l = false → p.overflowed = false → badRecordByte a.bytes = none →
    binFor s d a.n0 a.bytes = some n →
    ∃ t x q, exec .poolRecordDeliver s = .next t ∧ t.mem = s.mem ∧ launchOf t a.n1 = some x ∧ x.pool = some q ∧
      (let b := look Bin.free d.bins n
       let c := look Bin.free (poolDie q a.n0).bins n
       c.records = (if b.state = 0 then [a.bytes] else b.records ++ [a.bytes]) ∧ c.state = (if 32 ≤ c.records.length then 2 else if b.state = 0 then 1 else b.state) ∧
       (b.state = 0 → (c.code, c.key) = recordPair a.bytes ∧ c.since = s.time.toNat))) ∧
  (∀ s l p, let a := s.args
    a.n2 = 0 → launchOf s a.n1 = some l → l.pool = some p → contextAway s l = false → (p.overflowed = true ∨ (badRecordByte a.bytes).isSome = true) →
    ∃ t x q, exec .poolRecordDeliver s = .next t ∧ t.mem = s.mem ∧ launchOf t a.n1 = some x ∧ x.pool = some q ∧ q.lost = p.lost + 1 ∧ q.dies = p.dies) ∧
  (∀ s l p, let a := s.args
    launchOf s a.n1 = some l → l.pool = some p →
    let b := look Bin.free (poolDie p a.n0).bins a.n2
    (b.state = 1 → b.since + p.age ≤ s.time.toNat →
      ∃ t x q, exec .binAgeExpiry s = .next t ∧ launchOf t a.n1 = some x ∧ x.pool = some q ∧
        look Bin.free (poolDie q a.n0).bins a.n2 = { b with state := 2, since := s.time.toNat } ∧ (⟨.placementPass, { n0 := a.n0 }⟩ : Due) ∈ t.agenda) ∧
    ((b.state ≠ 1 ∨ s.time.toNat < b.since + p.age) → exec .binAgeExpiry s = .next s)) ∧
  (∀ s l p pa n, let die := s.args.n0
    let d := poolDie p die
    let base := (ringPart s l p die).2
    let size := (ringPart s l p die).1
    launchOf s s.args.n1 = some l → l.pool = some p → d.ringHead < d.ringTail → d.faults = [] → p.overflowed = false → contextAway s l = false →
    AtHand s (pierNo (128 * die)) l.asid l.fn .read l.supervisor (base + 64 * (d.ringHead % size)) 64 pa →
    badRecordByte (readBytes s.mem pa 64) = none → binFor s d die (readBytes s.mem pa 64) = some n →
    ∃ t x q, exec .overflowRingReturn s = .next t ∧ t.mem = s.mem ∧ launchOf t s.args.n1 = some x ∧ x.pool = some q ∧
      (poolDie q die).ringHead = d.ringHead + 1 ∧ (poolDie q die).ringTail = d.ringTail ∧
      ((look Bin.free (poolDie q die).bins n).records.getLast? = some (readBytes s.mem pa 64))) ∧
  (∀ s l p since, launchOf s s.args.n0 = some l → l.pool = some p → (poolDie p s.args.n1).fullSince = some since →
    (s.time.toNat - since ≤ 1000 * p.limit → exec .poolOverflowExpiry s = .next s) ∧
    (1000 * p.limit < s.time.toNat - since → l.teams = [] → s.agenda = [] →
      ∃ t x q, exec .poolOverflowExpiry s = .next t ∧ launchOf t s.args.n0 = some x ∧ x.pool = some q ∧ q.overflowed = true ∧
        q.lost = p.lost + (p.dies.map fun d => binned d.2 + (d.2.ringTail - d.2.ringHead)).sum ∧ ∀ d ∈ q.dies, d.2.bins = [] ∧ d.2.ringHead = d.2.ringTail))

/-- R115 to R117: without a table base the update only comes round again; with one, an entry that was launched is brought up to date in the near tier:
its code, launch count, an even SEQ 2 higher, and the time. -/
def Claims.PhaseTables : Prop :=
  (∀ s, (placerOf s s.args.n0).phaseBase.getLsbD 63 = false → s.args.flag = false →
    ∃ t, exec .phaseTableUpdate s = .next t ∧ t.mem = s.mem ∧ ∃ x ∈ t.timers, x.at_ = s.time.toNat + 1000000 ∧ x.due = ⟨.phaseTableUpdate, { n0 := s.args.n0 }⟩) ∧
  (∀ s e n, let die := s.args.n0
    let p := placerOf s die
    let base := p.phaseBase.toNat % 2 ^ 52 / 2 ^ 18 * 2 ^ 18
    s.args.flag = true → p.phaseBase.getLsbD 63 = true → p.phases = [(n, e)] → e.fresh = true → 0 < e.launches → e.launches < 2 ^ 32 → n < 64 →
    (∀ k, k < 32 → tierOf s (base + 4096 * n + 128 * k) = some 0) → s.coherence = Coherence.reset → s.teams = [] → die < dieCount s →
    s.dbg.logEn = false →
    ∃ t, exec .phaseTableUpdate s = .next t ∧ readNat t.mem (base + 4096 * n) 8 = e.code % 2 ^ 64 ∧ readNat t.mem (base + 4096 * n + 12) 4 = e.launches ∧
      readNat t.mem (base + 4096 * n + 16) 8 = (readNat s.mem (base + 4096 * n + 16) 8 + 2) % 2 ^ 64 ∧
      readNat t.mem (base + 4096 * n + 24) 8 = s.time.toNat ∧
      (∀ a, ¬ (base + 4096 * n ≤ a ∧ a < base + 4096 * n + 4096) → readByte t.mem a = readByte s.mem a) ∧
      (placerOf t die).phases = [(n, { e with fresh := false, launches := 0, counts := [] })])


/-! ## Rays and builds under way (R272, R278, R281, R284 to R286, R290, R480 to R482) -/

/-- R276, R278, R286, R288, R481, R482: a ray that visits a node of its own generation goes on with what the node gives, and ends with status 2 in
every other; a ray with nothing left writes its miss; and a parked ray whose fence has been signalled enters the child, while one whose fence has
not polls again after a microsecond. -/
def Obligations.RaysTraverse : Prop :=
  (∀ s r va pa, let p := s.args.n0
    let b := readBytes s.mem pa 128
    rayOf s p s.args.n1 = some r → p = pierNo r.cid → r.faults = [] → frozen s r.fn r.q (.traversal p) = false → r.result = none →
    r.accepted = true → r.parked = false → r.watch = [] → r.work = [.node va] → va % 128 = 0 → earlierAccess s r.who false va 128 = false →
    AtHand s p r.asid r.fn .read r.supervisor va 128 pa →
    (∀ kids, visitNode r s.free b = .inr kids → ∃ t y, exec .nodeVisit s = .next t ∧ t.mem = s.mem ∧ rayOf t p r.id = some y ∧
      y = { r with work := kids } ∧ (⟨.nodeVisit, { n0 := p, n1 := r.id }⟩ : Due) ∈ t.agenda) ∧
    (readNat s.mem (pa + 17) 1 ≠ r.generation % 256 → r.emit = false →
      ∀ g o x d a c lit, groupOf s r.cid r.slot = some g → opOf g r.op = some o → o.instr = .trace x d a c lit → d.toNat + 3 < 128 → r.lane < 32 →
        ∃ t h, exec .nodeVisit s = .next t ∧ t.mem = s.mem ∧ (∀ y ∈ (pierOf t p).rays, y.id ≠ r.id) ∧ groupOf t r.cid r.slot = some h ∧
          regOf h r.lane (d.toNat + 1) = ⟨0x03000000#32, 12#4⟩ ∧ regOf h r.lane (d.toNat + 3) = ⟨2#32, 12#4⟩)) ∧
  (∀ s r g o x d a c lit, let p := s.args.n0
    rayOf s p s.args.n1 = some r → r.faults = [] → frozen s r.fn r.q (.traversal p) = false → r.result = none → r.accepted = true →
    r.parked = false → r.watch = [] → r.work = [] → r.deferred = [] → r.best = none → r.emit = false → groupOf s r.cid r.slot = some g →
    opOf g r.op = some o → o.instr = .trace x d a c lit → d.toNat + 3 < 128 → r.lane < 32 →
    ∃ t h, exec .nodeVisit s = .next t ∧ t.mem = s.mem ∧ (∀ y ∈ (pierOf t p).rays, y.id ≠ r.id) ∧ groupOf t r.cid r.slot = some h ∧
      ∀ v, v < 128 → regOf h r.lane v = written [(d.toNat, ⟨0x7F800000#32, 1#4⟩), (d.toNat + 1, ⟨0#32, 12#4⟩), (d.toNat + 2, ⟨0#32, 12#4⟩),
        (d.toNat + 3, ⟨0#32, 12#4⟩)] v (regOf g r.lane v)) ∧
  (∀ ev s r n child e pa, let p := s.args.n0
    let va := (r.fenceBase + 8 * n) % 2 ^ 64
    (ev = Instr.fencePoll ∨ ev = Instr.fenceRecheck) → rayOf s p s.args.n1 = some r → p = pierNo r.cid → r.faults = [] →
    frozen s r.fn r.q (.traversal p) = false → r.parked = true → r.watch = [] → r.work = [] → r.best = none → r.deferred = [.fenced n child e] →
    va % 8 = 0 → earlierAccess s r.who false va 8 = false → AtHand s p r.asid r.fn .read r.supervisor va 8 pa →
    (readNat s.mem pa 4 = r.generation → (readNat s.mem pa 8).testBit 63 = true → ∃ t y, exec ev s = .next t ∧ t.mem = s.mem ∧
      rayOf t p r.id = some y ∧ y.parked = false ∧ y.work = [.node child] ∧ y.deferred = [] ∧
      (⟨.nodeVisit, { n0 := p, n1 := r.id }⟩ : Due) ∈ t.agenda) ∧
    (readNat s.mem pa 4 ≠ r.generation → ∃ t y, exec ev s = .next t ∧ t.mem = s.mem ∧ rayOf t p r.id = some y ∧ y.parked = true ∧
      y.work = [] ∧ y.deferred = r.deferred ∧ (⟨s.time.toNat + 1000, ⟨.fencePoll, { n0 := p, n1 := r.id }⟩⟩ : Timer) ∈ t.timers))

/-- No access that the issuing threads made before an engine's command is still to be performed (R233). -/
def NothingEarlier (s : State) (w : Who) : Prop :=
  (∀ g, groupOf s w.cid w.slot = some g → (∀ o ∈ g.ops, o.seq < w.op → o.todo &&& w.lanes = 0#32) ∧
    (∀ r ∈ g.replayQ, r.seq < w.op → r.lanes &&& w.lanes = 0#32) ∧ ∀ st, g.stop = some st → ∀ q ∈ st.seqs, w.op ≤ q) ∧
  ∀ x ∈ (coreOf s w.cid).sb, w.earlierStore x = false

/-- R268, R272, R281, R285, R484: a builder makes the writes of the one piece that nothing holds back (a task, the second writing of a top node, or
a node of a refit), and the pieces that waited for it wait no more; the last piece of a build makes its slot READY and lands status 0. -/
def Claims.BuildersWork : Prop :=
  ∀ ev s b k rest va bytes pa, let id := s.args.n0
    let w := b.whoOn id k.die
    let p := pierNo (128 * k.die + b.cid % 128)
    let home := pierNo (128 * b.die + b.cid % 128)
    (ev = Instr.builderTask ∧ k.rewrite = false ∧ b.kind ≤ 1 ∨ ev = Instr.topNodeRewrite ∧ k.rewrite = true ∧ b.kind ≤ 1 ∨
      ev = Instr.refitNode ∧ k.rewrite = false ∧ b.kind = 2) →
    find? s.builds id = some b → b.faults = [] → frozen s b.fn b.q (.builder k.die) = false → retiring s b = false → b.phase = 2 → b.tasks = k :: rest → k.needs = [] →
    (∀ x ∈ rest, x.id ≠ k.id ∧ x.needs ≠ []) → k.writes = [(va, bytes)] → 1 ≤ bytes.length → va % 128 + bytes.length ≤ 128 →
    NothingEarlier s w → AtHand s p b.asid b.fn .write b.supervisor va bytes.length pa →
    ((rest ≠ [] → ∃ t y, exec ev s = .next t ∧ (∀ j, j < bytes.length → readByte t.mem (pa + j) = nth 0#8 bytes j) ∧
        (∀ a, ¬ (pa ≤ a ∧ a < pa + bytes.length) → readByte t.mem a = readByte s.mem a) ∧ find? t.builds id = some y ∧
        y.tasks = rest.map (fun x => { x with needs := x.needs.filter fun n => !(n == k.id) }) ∧ y.phase = 2 ∧
        (∀ f, k.fence = some f → y.signalled = b.signalled ++ [f])) ∧
     (∀ g o, rest = [] → groupOf s b.cid b.slot = some g → opOf g b.op = some o →
      (b.kind = 2 → ∃ t h, exec ev s = .next t ∧ find? t.builds id = none ∧ groupOf t b.cid b.slot = some h ∧
        (∀ j, j < bytes.length → readByte t.mem (pa + j) = nth 0#8 bytes j) ∧
        ∀ u v, u < 32 → o.todo.getLsbD u = true → v ∈ destRegs o.instr → v < 128 → regOf h u v = ⟨0#32, 12#4⟩) ∧
      (∀ ps, b.kind ≤ 1 → slotAddr b.desc b.target % 64 = 0 →
        AtHand s home b.asid b.fn .write b.supervisor (slotAddr b.desc b.target + 28) 10 ps →
        ∃ t h, exec ev s = .next t ∧ find? t.builds id = none ∧ groupOf t b.cid b.slot = some h ∧ readNat t.mem ps 4 = b.nodes % 2 ^ 32 ∧
          readNat t.mem (ps + 4) 4 = b.fences % 2 ^ 32 ∧ readNat t.mem (ps + 8) 1 = 2 ∧ readNat t.mem (ps + 9) 1 = 0 ∧
          ∀ u v, u < 32 → o.todo.getLsbD u = true → v ∈ destRegs o.instr → v < 128 → regOf h u v = ⟨0#32, 12#4⟩)))

/-- R268, R289, R290: the compactor waits while a ray of the generation is left, writes zero to the ranges, and then leaves the slot EMPTY. -/
def Claims.Compaction : Prop :=
  ∀ s c, let id := s.args.n0
    let p := pierNo (128 * c.die + c.cid % 128)
    let key := generationKey c.place c.target c.generation
    find? s.compacts id = some c → c.faults = [] → frozen s c.fn c.q (.compactor c.die) = false → c.writes = [] → c.fail = [] → rising s.compacts = true →
    (look 0 s.rayCounts key ≠ 0 → ∃ t, exec .compactorBlock s = .next t ∧ t.mem = s.mem ∧ t.compacts = s.compacts ∧
      (⟨.compactorBlock, s.args⟩ : Due) ∈ t.agenda) ∧
    (∀ va n rest pa, look 0 s.rayCounts key = 0 → c.ranges = (va, n) :: rest → 0 < n → va % 128 + n ≤ 128 →
      earlierAccess s (c.who id) false va n = false → AtHand s p c.asid c.fn .write c.supervisor va n pa →
      ∃ t y, exec .compactorBlock s = .next t ∧ (∀ j, j < n → readByte t.mem (pa + j) = 0#8) ∧
        (∀ a, ¬ (pa ≤ a ∧ a < pa + n) → readByte t.mem a = readByte s.mem a) ∧ find? t.compacts id = some y ∧ y.ranges = (va + n, 0) :: rest ∧
        (⟨.compactorBlock, { n0 := id }⟩ : Due) ∈ t.agenda) ∧
    (∀ ps, look 0 s.rayCounts key = 0 → c.ranges = [] → slotAddr c.desc c.target % 64 = 0 →
      earlierAccess s (c.who id) false (slotAddr c.desc c.target + 28) 9 = false →
      AtHand s p c.asid c.fn .write c.supervisor (slotAddr c.desc c.target + 28) 9 ps →
      ∃ t, exec .compactorBlock s = .next t ∧ find? t.compacts id = none ∧ readNat t.mem ps 8 = 0 ∧ readNat t.mem (ps + 8) 1 = 0 ∧
        find? t.rayCounts key = none ∧ ∀ a, ¬ (ps ≤ a ∧ a < ps + 9) → readByte t.mem a = readByte s.mem a)


/-! ## Command records (R74 to R101) -/

/-- R74, R75, R78 to R80: the next record of a mapped queue is claimed under its ticket, and a record whose turn it is starts as its bytes stand in
the ring: a good one calls for its command, a bad one fails with BAD_COMMAND. -/
def Claims.RecordsStart : Prop :=
  (∀ s, let a := s.args
    let x := queueOf s a.n0 a.n1
    x.mapped = true → x.state = 1 → x.tail ≠ x.ticket →
    ∃ t r, exec .recordClaim s = .next t ∧ t.mem = s.mem ∧ (queueOf t a.n0 a.n1).ticket = x.ticket + 1 ∧ (queueOf t a.n0 a.n1).recs = x.recs ++ [r] ∧
      r.n = x.ticket.toNat ∧ r.cid = a.n2 ∧ r.started = false ∧
      (⟨.recordStart, { n0 := a.n0, n1 := a.n1, n2 := x.ticket.toNat }⟩ : Due) ∈ t.agenda ∧
      (x.tail = x.ticket + 1 → (∀ y ∈ x.recs, y.started = false) → x.saved = false → (⟨.mappingPass, {}⟩ : Due) ∈ t.agenda)) ∧
  (∀ s r pa, let a := s.args
    let x := queueOf s a.n0 a.n1
    let b := readBytes s.mem pa 64
    recordOf s a.n0 a.n1 a.n2 = some r → r.started = false → mayStart s a.n0 a.n1 a.n2 = true → recordAddr x a.n2 % 64 = 0 →
    AtHand s (pierNo r.cid) (absAsid s a.n0 x.asid) a.n0 .read true (recordAddr x a.n2) 64 pa → (headOnly b = false ∨ x.head.toNat = a.n2) →
    ∃ t, exec .recordStart s = .next t ∧
      (recordBad s a.n0 b = none → t.mem = s.mem ∧ (queueOf t a.n0 a.n1).started = x.started + 1 ∧
        (⟨commandStep b, { n0 := a.n0, n1 := a.n1, n2 := a.n2 }⟩ : Due) ∈ t.agenda ∧
        ∃ y, recordOf t a.n0 a.n1 a.n2 = some y ∧ y = { r with
          started := true, opcode := readNat s.mem pa 1, flags := readNat s.mem (pa + 1) 1, tag := readNat s.mem (pa + 4) 4, body := b,
          copyAt := recordAddr x a.n2 + 32, acquire := x.acquire }) ∧
      (∀ k, recordBad s a.n0 b = some k → recordOf t a.n0 a.n1 a.n2 = none ∧ (x.state = 1 → (queueOf t a.n0 a.n1).state = 2 ∧
        (queueOf t a.n0 a.n1).err = BitVec.ofNat 64 (1 * 2 ^ 32 + a.n2 % 2 ^ 32))))

/-- R76, R80, R81, R88, R101, R118, R119, R162: the three launch commands hand their launch to placement: a grid from the fields of its record, a gang from
its descriptor, and a pool with its initial records on the way to the front ends; a bad descriptor fails. -/
def Obligations.LaunchCommands : Prop :=
  let limit := fun (s : State) (us : Nat) => 1000 * (if us = 0 then (queueOf s s.args.n0 s.args.n1).watchdog else us)
  let asid := fun (s : State) => absAsid s s.args.n0 (queueOf s s.args.n0 s.args.n1).asid
  let hand := fun (s : State) (r : Rec) (o n pa : Nat) => recField r.body o 8 % 64 = 0 ∧
    AtHand s (pierNo r.cid) (asid s) s.args.n0 .read true (recField r.body o 8) n pa
  HandsOver .launchGrid (fun _ _ => True) (fun s r l _ =>
    let f := recField r.body
    l.kind = .grid ∧ l.nx = f 24 2 ∧ l.ny = f 26 2 ∧ l.nz = f 28 2 ∧ l.count = l.nx * l.ny * l.nz ∧ l.arg = BitVec.ofNat 64 (f 16 8) ∧
    l.limit = limit s (f 36 4) ∧ l.asid = asid s ∧ l.acquire = r.acquire ∧
    l.die = (if f 35 1 = 0 then r.cid / 128 + 1 else f 35 1) ∧ l.kernels = [⟨BitVec.ofNat 64 (f 8 8), 0, f 30 1, f 31 1, f 32 2, f 34 1⟩]) ∧
  (∀ pa, HandsOver .launchGang (fun s r => hand s r 8 192 pa ∧ descriptorBadGang s (readBytes s.mem pa 192) = false) (fun s r l _ =>
    l.kind = .gang ∧ l.count = recField r.body 16 2 ∧ l.kernels.length = readNat s.mem pa 1 ∧ l.pipeMap.length = readNat s.mem (pa + 1) 1 ∧
    l.arg = BitVec.ofNat 64 (readNat s.mem (pa + 8) 8) ∧ l.limit = limit s (recField r.body 36 4) ∧
    ∀ i k, l.kernels[i]? = some k → k.code = BitVec.ofNat 64 (readNat s.mem (pa + 64 + 32 * i) 8) ∧ k.groups = readNat s.mem (pa + 72 + 32 * i) 1 ∧
      k.granules = readNat s.mem (pa + 73 + 32 * i) 1)) ∧
  (∀ pa, Rejects .launchGang (fun s r => hand s r 8 192 pa ∧ descriptorBadGang s (readBytes s.mem pa 192) = true) 1) ∧
  (∀ pa, HandsOver .launchPool (fun s r => s.args.bytes = [] ∧ 1 ≤ recField r.body 24 4 ∧ recField r.body 24 4 ≤ 64 ∧
      hand s r 16 (64 * recField r.body 24 4) pa) (fun s r l t =>
    l.kind = .pool ∧ l.limit = limit s (recField r.body 52 4) ∧ l.kernels = [⟨BitVec.ofNat 64 (recField r.body 8 8), 0, 1, recField r.body 28 1, 0, 0⟩] ∧
    (∃ p, l.pool = some p ∧ p.ring = recField r.body 32 8 ∧ p.ringSize = recField r.body 40 4 ∧ p.limit = recField r.body 44 4 ∧ p.overflowed = false ∧
      p.lost = 0) ∧
    ∀ k, k < recField r.body 24 4 → ∃ d, d ∈ diesOfLaunch s l ∧
      (⟨.poolRecordDeliver, { n0 := d, n1 := s.ids, n3 := k, bytes := readBytes s.mem (pa + 64 * k) 64 }⟩ : Due) ∈ t.agenda))

/-- R85 to R87: SIGNAL_TOKEN leaves its value and the footprint of the queue's launches in one store and forgets the cores; a WAIT_TOKEN that reads its value
completes and records the footprint, one that does not reads again later, and one that times out fails with TIMEOUT. -/
def Claims.QueueTokens : Prop :=
  (∀ s r pa, let x := queueOf s s.args.n0 s.args.n1
    let va := recField r.body 8 8
    commandOf s = some r → va % 32 = 0 → r.flags.testBit 1 = true →
    AtHand s (pierNo r.cid) (absAsid s s.args.n0 x.asid) s.args.n0 .write true va 16 pa →
    ∃ t, exec .signalToken s = .next t ∧ recordOf t s.args.n0 s.args.n1 s.args.n2 = none ∧ (queueOf t s.args.n0 s.args.n1).cores = [] ∧
      readNat t.mem pa 8 = recField r.body 16 8 ∧ readNat t.mem (pa + 8) 2 = footprintOf x.cores (r.flags.testBit 3) (r.flags.testBit 4) % 2 ^ 16 ∧
      readNat t.mem (pa + 10) 6 = 0 ∧ ∀ a, ¬ (pa ≤ a ∧ a < pa + 16) → readByte t.mem a = readByte s.mem a) ∧
  (∀ ev s r pa, let x := queueOf s s.args.n0 s.args.n1
    let va := recField r.body 8 8
    let a : StepArgs := { n0 := s.args.n0, n1 := s.args.n1, n2 := s.args.n2 }
    (ev = Instr.waitToken ∨ ev = Instr.waitTokenRecheck ∨ ev = Instr.waitTokenPoll) → commandOf s = some r → r.opcode = 0x11 → va % 32 = 0 →
    AtHand s (pierNo r.cid) (absAsid s s.args.n0 x.asid) s.args.n0 .read true va 16 pa →
    (recField r.body 16 8 ≤ readNat s.mem pa 8 → ∃ t, exec ev s = .next t ∧ recordOf t s.args.n0 s.args.n1 s.args.n2 = none ∧
      (queueOf t s.args.n0 s.args.n1).acquire = some (readNat s.mem (pa + 8) 2) ∧
      (∀ y ∈ t.timers, ¬ (y.due.step = .waitTokenTimeout ∧ y.due.args = a)) ∧ (r.flags.testBit 1 = true → t.mem = s.mem)) ∧
    (readNat s.mem pa 8 < recField r.body 16 8 → ∃ t y, exec ev s = .next t ∧ t.mem = s.mem ∧
      recordOf t s.args.n0 s.args.n1 s.args.n2 = some y ∧ y.started = true ∧ y.footprint = readNat s.mem (pa + 8) 2 ∧
      (⟨s.time.toNat + 1000, ⟨.waitTokenPoll, a⟩⟩ : Timer) ∈ t.timers ∧
      (ev = .waitToken → recField r.body 24 4 ≠ 0 →
        (⟨s.time.toNat + 1000 * recField r.body 24 4, ⟨.waitTokenTimeout, a⟩⟩ : Timer) ∈ t.timers))) ∧
  Rejects .waitTokenTimeout (fun _ r => r.opcode = 0x11) 3 ∧
  (∀ s, (∀ r, commandOf s = some r → r.opcode ≠ 0x11) → exec .waitTokenTimeout s = .next s)

/-- R83, R138: a COPY record is given to the copy stream of some pier, with its resume offset; while that stream is full, or its context is being
pre-empted or is saved, it comes again. -/
def Claims.QueueCopies : Prop :=
  (∀ s r, commandOf s = some r → ((queueOf s s.args.n0 s.args.n1).saved = true ∨ (queueOf s s.args.n0 s.args.n1).preempt.isSome = true) →
    exec .copy s = .next (due s .copy s.args)) ∧
  ∀ s r, commandOf s = some r → (queueOf s s.args.n0 s.args.n1).saved = false → (queueOf s s.args.n0 s.args.n1).preempt = none →
    ∃ t p, p < 32 * dieCount s ∧ exec .copy s = .next t ∧ t.mem = s.mem ∧
      (16 ≤ (pierOf s p).copies.length → t.piers = s.piers ∧ (⟨.copy, s.args⟩ : Due) ∈ t.agenda) ∧
      ((pierOf s p).copies.length < 16 → (⟨.transferBurst, { n0 := p, n1 := 0 }⟩ : Due) ∈ t.agenda ∧ ∃ c, (pierOf t p).copies = (pierOf s p).copies ++ [c] ∧
        c.kind = 5 ∧ c.src = recField r.body 8 8 ∧ c.dst = recField r.body 16 8 ∧ c.len = recField r.body 24 8 ∧ c.cursor = recField r.body 32 8 ∧
        c.fn = s.args.n0 ∧ c.q = s.args.n1 ∧ c.rec_ = r.n ∧ c.asid = absAsid s s.args.n0 (queueOf s s.args.n0 s.args.n1).asid ∧ c.supervisor = false)

/-- R69, R84, R112, R136: the CONFIG keys, in the steps ASID_ROOT, QUEUE_PRIORITY, WATCHDOG_DEFAULT, AGE_LIMIT and QUEUE_STOP: each sets what it names when
its values are in range and fails with BAD_COMMAND when they are not; the three of the physical function answer PRIVILEGE to a virtual one, whose
queue goes on. -/
def Obligations.ConfigCommands : Prop :=
  let va := fun (r : Rec) => recField r.body 16 8
  let vb := fun (r : Rec) => recField r.body 24 8
  (∀ s r, let f := fnOf s (vb r / 256 % 64)
    let at_ := s.rootTable + 8 * ((f.asidBase + vb r % 256) % 256)
    commandOf s = some r → s.args.n0 = 0 → (va r = 0 ∨ va r % 4096 = 0 ∧ (tierOf s (va r) = some 0 ∨ tierOf s (va r) = some 1)) →
    vb r % 256 < f.asidCount → vb r < 2 ^ 14 → r.flags.testBit 1 = true → (tierOf s at_ = some 0 ∨ tierOf s at_ = some 1) →
    FreeLine s (l1Agent r.cid) (at_ / 128) →
    ∃ t, exec .asidRoot s = .next t ∧ recordOf t s.args.n0 s.args.n1 s.args.n2 = none ∧
      readNat t.mem at_ 8 = (if va r = 0 then 0 else va r + 1) ∧ ∀ a, ¬ (at_ ≤ a ∧ a < at_ + 8) → readByte t.mem a = readByte s.mem a) ∧
  Rejects .asidRoot (fun s r => s.args.n0 = 0 ∧ va r ≠ 0 ∧ va r % 4096 ≠ 0) 1 ∧
  Answers .queuePriority (fun s r => (fnOf s s.args.n0).top ≤ va r ∧ va r ≤ 3) (fun s r t => (queueOf t s.args.n0 s.args.n1).priority = va r) ∧
  Rejects .queuePriority (fun s r => va r < (fnOf s s.args.n0).top ∨ 3 < va r) 1 ∧
  Answers .watchdogDefault (fun _ r => 1 ≤ va r ∧ va r < 2 ^ 32) (fun s r t => (queueOf t s.args.n0 s.args.n1).watchdog = va r) ∧
  Rejects .watchdogDefault (fun _ r => va r = 0 ∨ 2 ^ 32 ≤ va r) 1 ∧
  Answers .ageLimit (fun s r => s.args.n0 = 0 ∧ 1 ≤ va r ∧ va r ≤ 255 ∧ vb r < dieCount s) (fun _ r t => (placerOf t (vb r)).ageLimit = va r) ∧
  Rejects .ageLimit (fun s r => s.args.n0 = 0 ∧ (va r = 0 ∨ 255 < va r ∨ dieCount s ≤ vb r)) 1 ∧
  Answers .queueStop (fun s r => s.args.n0 = 0 ∧ va r = 0 ∧ vb r / 4096 % 64 ≠ 0 ∧ (fnOf s (vb r / 4096 % 64)).enabled = true ∧ vb r < 2 ^ 18)
    (fun s r t => let old := queueOf s (vb r / 4096 % 64) (vb r % 4096)
      let new := queueOf t (vb r / 4096 % 64) (vb r % 4096)
      ((old.state = 1 ∨ old.state = 2) → new.state = 3 ∨ new.state = 0) ∧ (old.recs.any (·.started) = true → old.saved = false → new.preempt.isSome = true)) ∧
  (∀ ev s r, (ev = Instr.asidRoot ∨ ev = Instr.ageLimit ∨ ev = Instr.queueStop) → commandOf s = some r → s.args.n0 ≠ 0 →
    ∃ t, exec ev s = .next t ∧ recordOf t s.args.n0 s.args.n1 s.args.n2 = none ∧
      ((queueOf s s.args.n0 s.args.n1).state = 1 → (queueOf t s.args.n0 s.args.n1).state = 1) ∧ t.launches = s.launches ∧ t.placers = s.placers)

/-- R69, R84: the five CONFIG steps ASID_ROOT, QUEUE_PRIORITY, WATCHDOG_DEFAULT, AGE_LIMIT and QUEUE_STOP complete: of a record whose values are in
range, sent by a function that may send it, each has its effect and the record is claimed no longer. -/
def Claims.ConfigStepsComplete : Prop :=
  let va := fun (r : Rec) => recField r.body 16 8
  let vb := fun (r : Rec) => recField r.body 24 8
  (∀ s r, let at_ := s.rootTable + 8 * ((fnOf s 0).asidBase % 256)
    commandOf s = some r → s.args.n0 = 0 → va r = 0 → vb r = 0 → 0 < (fnOf s 0).asidCount → (tierOf s at_ = some 0 ∨ tierOf s at_ = some 1) →
    FreeLine s (l1Agent r.cid) (at_ / 128) →
    ∃ t, exec .asidRoot s = .next t ∧ recordOf t s.args.n0 s.args.n1 s.args.n2 = none) ∧
  (∀ s r, commandOf s = some r → (fnOf s s.args.n0).top ≤ va r → va r ≤ 3 →
    ∃ t, exec .queuePriority s = .next t ∧ recordOf t s.args.n0 s.args.n1 s.args.n2 = none ∧ (queueOf t s.args.n0 s.args.n1).priority = va r) ∧
  (∀ s r, commandOf s = some r → 1 ≤ va r → va r < 2 ^ 32 →
    ∃ t, exec .watchdogDefault s = .next t ∧ recordOf t s.args.n0 s.args.n1 s.args.n2 = none ∧ (queueOf t s.args.n0 s.args.n1).watchdog = va r) ∧
  (∀ s r, commandOf s = some r → s.args.n0 = 0 → 1 ≤ va r → va r ≤ 255 → vb r < dieCount s →
    ∃ t, exec .ageLimit s = .next t ∧ recordOf t s.args.n0 s.args.n1 s.args.n2 = none ∧ (placerOf t (vb r)).ageLimit = va r) ∧
  (∀ s r, commandOf s = some r → s.args.n0 = 0 → va r = 0 → vb r < 2 ^ 18 → vb r / 4096 ≠ 0 → (fnOf s (vb r / 4096)).enabled = true →
    ∃ t, exec .queueStop s = .next t ∧ recordOf t s.args.n0 s.args.n1 s.args.n2 = none ∧
      (queueOf t (vb r / 4096) (vb r % 4096)).state ≠ 1)

/-- R70, R75, R77, R89, R91: a record that completes, here NOP_FENCE, leaves its entry in the next slot of the completion queue with the phase of the lap,
TAIL moves on, and HEAD passes the record that it named. -/
def Claims.CompletionEntries : Prop :=
  (∀ s r pa, let fn := s.args.n0
    let x := queueOf s fn s.args.n1
    let c := cqOf s fn x.cq
    commandOf s = some r → r.flags.testBit 1 = false → CqReady s fn x.cq pa →
    ∃ t, exec .nopFence s = .next t ∧ recordOf t fn s.args.n1 s.args.n2 = none ∧
      EntryAt s t pa s.args.n1 r 0 0 (if c.tail.toNat / ringSize c.log2 % 2 = 0 then 1 else 0) ∧ (cqOf t fn x.cq).tail = c.tail + 1 ∧
      (cqOf t fn x.cq).waiting = [] ∧ (x.doneRecs = [] → x.head.toNat = r.n → (queueOf t fn s.args.n1).head = x.head + 1)) ∧
  (∀ s e now_ pa, let fn := s.args.n0
    let q := cqOf s fn s.args.n1
    q.waiting = [(e, now_)] → e.length = 32 → (q.tail - q.head).toNat < ringSize q.log2 →
    AtHand s 0 (absAsid s fn q.asid) fn .write true (q.base.toNat + 32 * (q.tail.toNat % ringSize q.log2)) 32 pa →
    ∃ t, exec .completionEntryRetry s = .next t ∧ (cqOf t fn s.args.n1).tail = q.tail + 1 ∧ (cqOf t fn s.args.n1).waiting = [] ∧
      (∀ j, j < 31 → readByte t.mem (pa + j) = nth 0#8 e j) ∧
      readByte t.mem (pa + 31) = (if q.tail.toNat / ringSize q.log2 % 2 = 0 then 0x80#8 else 0#8) ∧
      (∀ a, ¬ (pa ≤ a ∧ a < pa + 32) → readByte t.mem a = readByte s.mem a) ∧
      (q.irqEn = false → t.out = s.out) ∧
      (q.irqEn = true → (now_ = true ∨ q.count ≤ q.posted + 1) → (fnOf s fn).masked.contains q.vector = false →
        t.out = { s.out with msix := s.out.msix ++ [(fn, q.vector)] } ∧ (cqOf t fn s.args.n1).posted = 0 ∧ (cqOf t fn s.args.n1).timerOn = false) ∧
      (q.irqEn = true → now_ = false → q.posted + 1 < q.count → q.timerOn = false → 1 ≤ q.timer →
        t.out = s.out ∧ (cqOf t fn s.args.n1).posted = q.posted + 1 ∧
        (⟨s.time.toNat + 1000 * q.timer, ⟨.cqTimerExpiry, { n0 := fn, n1 := s.args.n1 }⟩⟩ : Timer) ∈ t.timers))


/-! ## Functions, queues and completion queues (R20, R53, R61 to R73, R91 to R94, R112, R136, R156 to R160) -/

/-- R20, R41, R48, R53, R61, R63, R64, R136: a write of a function's configuration takes every field or none and is measured; SR-IOV enables the functions
that it names, and one that is disabled loses the slots of its queues. -/
def Claims.FunctionsAndSriov : Prop :=
  (∀ s, let n := s.args.n0
    let v := s.args.val
    (n < 64 → fnCfgBad s n v = false → ∃ t, exec .hqFnCfgWrite s = .next t ∧ (fnOf t n).limit = (v.extractLsb' 40 13).toNat ∧
      (fnOf t n).top = (v.extractLsb' 32 2).toNat ∧ (fnOf t n).asidCount = (v.extractLsb' 8 9).toNat ∧ (fnOf t n).asidBase = (v.extractLsb' 0 8).toNat ∧
      (fnOf t n).enabled = (fnOf s n).enabled ∧ (∀ k, k ≠ n → fnOf t k = fnOf s k) ∧ t.mem = s.mem ∧
      ∀ k, k ≠ 5 → t.trust.measures[k]? = s.trust.measures[k]?) ∧
    ((64 ≤ n ∨ fnCfgBad s n v = true) → exec .hqFnCfgWrite s = .next s)) ∧
  (∀ s, (s.trust.life = .operational → ∃ t, exec .sriovVfEnable s = .next t ∧ t.mem = s.mem ∧
      (∀ n, 1 ≤ n → n ≤ s.args.n0 → n ≤ 63 → fnOf t n = if (fnOf s n).enabled then fnOf s n else { fnOf s n with enabled := true, area := areaOf n }) ∧
      ((∀ n, 1 ≤ n → n ≤ s.args.n0 → n ≤ 63 → (fnOf s n).enabled = true) → t.trust = s.trust) ∧
      ∀ n, (n = 0 ∨ s.args.n0 < n ∨ 63 < n) → fnOf t n = fnOf s n) ∧
    (s.trust.life ≠ .operational → exec .sriovVfEnable s = .next s)) ∧
  (∀ s, s.args.n0 ≠ 0 → (fnOf s s.args.n0).enabled = true →
    ∃ t, exec .sriovVfDisable s = .next t ∧ (fnOf t s.args.n0).enabled = false ∧
      ∀ q ∈ s.queues, q.1 / 4096 = s.args.n0 → (queueOf t s.args.n0 (q.1 % 4096)).mapped = false)

/-- R65, R66, R68, R69: enabling a DISABLED queue with valid fields leaves it ENABLED with every count zero, and with bad ones records code 0x0B;
disabling drains it.  R67, R68, R91: the same of a completion queue, which is disabled only while no queue names it. -/
def Claims.QueuesComeAndGo : Prop :=
  (∀ s, let fn := s.args.n0
    let v := s.args.val
    let x := queueOf s fn s.args.n1
    let y := { x with cq := (v.extractLsb' 44 12).toNat, priority := (v.extractLsb' 40 2).toNat, asid := (v.extractLsb' 32 8).toNat, log2 := (v.extractLsb' 0 4).toNat }
    s.trust.life = .operational → (fnOf s fn).enabled = true →
    (x.state = 0 → queueValid s fn y = true → ∃ t, exec .queueEnable s = .next t ∧ t.mem = s.mem ∧ queueOf t fn s.args.n1 = { Queue.reset with
      ring := x.ring, state := 1, cq := y.cq, priority := y.priority, asid := y.asid, log2 := y.log2, since := s.time.toNat }) ∧
    (x.state = 0 → queueValid s fn y = false → ∃ t, exec .queueEnable s = .next t ∧ t.mem = s.mem ∧ (queueOf t fn s.args.n1).state = 0 ∧
      (queueOf t fn s.args.n1).err = 0x0000000B00000000#64) ∧
    (x.state ≠ 0 → exec .queueEnable s = .next s)) ∧
  (∀ s, let x := queueOf s s.args.n0 s.args.n1
    (x.state = 1 ∨ x.state = 2) → ∃ t, exec .queueDisable s = .next t ∧ t.mem = s.mem ∧
      (queueOf t s.args.n0 s.args.n1).state = (if x.recs = [] ∧ (cqOf s s.args.n0 x.cq).waiting.all (fun w => !(leNat ((w.1.drop 4).take 2) == s.args.n1)) = true
        then 0 else 3)) ∧
  (∀ s, let fn := s.args.n0
    let v := s.args.val
    let q := cqOf s fn s.args.n1
    let count := (v.extractLsb' 48 8).toNat
    let timer := (v.extractLsb' 32 16).toNat
    let good := count ≠ 0 ∧ timer ≠ 0 ∧ (v.extractLsb' 0 4).toNat ≤ 10 ∧ (v.extractLsb' 16 8).toNat < (fnOf s fn).asidCount
    s.trust.life = .operational → (fnOf s fn).enabled = true →
    (q.enabled = false → ∃ t, exec .cqEnable s = .next t ∧ t.mem = s.mem ∧
      (good → cqOf t fn s.args.n1 = { q with
        enabled := true, irqEn := v.getLsbD 62, vector := (v.extractLsb' 56 6).toNat, count := count, timer := timer, asid := (v.extractLsb' 16 8).toNat,
        log2 := (v.extractLsb' 0 4).toNat, tail := 0#32, head := 0#32, err := 0#64, posted := 0, timerOn := false, waiting := [] }) ∧
      (¬ good → (cqOf t fn s.args.n1).enabled = false ∧ (cqOf t fn s.args.n1).err = 0x0000000B00000000#64)) ∧
    (q.enabled = true → count ≠ 0 → timer ≠ 0 → q.waiting = [] → ∃ t, exec .cqDisable s = .next t ∧ t.mem = s.mem ∧
      (cqOf t fn s.args.n1).enabled = cqInUse s fn s.args.n1 ∧ (cqOf t fn s.args.n1).irqEn = v.getLsbD 62 ∧
      (cqOf t fn s.args.n1).tail = q.tail))

/-- R71, R91, R92: the head register frees entries, IRQ_EN starts and ends the count, and the timer raises the vector, or sets its pending bit. -/
def Claims.CompletionInterrupts : Prop :=
  (∀ s, let q := cqOf s s.args.n0 s.args.n1
    let h := s.args.val.setWidth 32
    q.waiting = [] →
    (q.enabled = true → s.trust.life = .operational → (fnOf s s.args.n0).enabled = true → s.args.n1 < 4096 → s.args.n2 = 0 →
      (s.args.n3 = 0 ∨ s.args.n3 = 4 ∨ s.args.n3 = 8) → ∃ t, exec .cqHeadWrite s = .next t ∧ t.mem = s.mem ∧
      cqOf t s.args.n0 s.args.n1 = { q with head := if (h - q.head).toNat ≤ (q.tail - q.head).toNat then h else q.head }) ∧
    (∃ t, exec .cqIrqEnSet s = .next t ∧ t.mem = s.mem ∧ (cqOf t s.args.n0 s.args.n1).irqEn = true ∧
      (cqOf t s.args.n0 s.args.n1).posted = if q.irqEn then q.posted else 0) ∧
    (∃ t, exec .cqIrqEnClear s = .next t ∧ t.mem = s.mem ∧ cqOf t s.args.n0 s.args.n1 = { q with irqEn := false, posted := 0, timerOn := false } ∧
      ∀ y ∈ t.timers, ¬ (y.due.step = .cqTimerExpiry ∧ y.due.args.n0 = s.args.n0 ∧ y.due.args.n1 = s.args.n1))) ∧
  (∀ s, let q := cqOf s s.args.n0 s.args.n1
    let f := fnOf s s.args.n0
    (q.timerOn = true → q.irqEn = true → ∃ t, exec .cqTimerExpiry s = .next t ∧ t.mem = s.mem ∧
      cqOf t s.args.n0 s.args.n1 = { q with posted := 0, timerOn := false } ∧
      (f.masked.contains q.vector = false → t.out = { s.out with msix := s.out.msix ++ [(s.args.n0, q.vector)] } ∧ fnOf t s.args.n0 = f) ∧
      (f.masked.contains q.vector = true → t.out = s.out ∧ (fnOf t s.args.n0).pba = f.pba ||| (1#64 <<< q.vector))) ∧
    ((q.timerOn = false ∨ q.irqEn = false) → exec .cqTimerExpiry s = .next s))

/-- R41, R71 to R74, R93, R94: a notify that fits moves TAIL and one beyond the ring puts the queue in ERROR with code 0x0A; a mapping pass gives a slot to
a queue that can run and takes it from one that cannot, and comes again after 250 us. -/
def Claims.NotifyAndMapping : Prop :=
  (∀ s, let fn := s.args.n0
    let x := queueOf s fn s.args.n1
    let v := s.args.val.setWidth 32
    let d := (v - x.tail).toNat
    let room := 2 ^ (x.log2 + 6) - (x.tail - x.head).toNat
    s.trust.life = .operational → x.state = 1 → (fnOf s fn).enabled = true → s.args.n1 < 4096 → s.args.n2 = 0 →
    (s.args.n3 = 0 ∨ s.args.n3 = 4 ∨ s.args.n3 = 8) →
    (d ≠ 0 → d ≤ room → ∃ t, exec .notify s = .next t ∧ t.mem = s.mem ∧
      queueOf t fn s.args.n1 = { x with tail := v, pending := x.pending || !x.mapped } ∧
      (x.mapped = true → v ≠ x.ticket → ∃ y ∈ t.agenda, y.step = .recordClaim ∧ y.args.n0 = fn ∧ y.args.n1 = s.args.n1)) ∧
    (room < d → ∃ t, exec .notify s = .next t ∧ t.mem = s.mem ∧ (queueOf t fn s.args.n1).state = 2 ∧
      (queueOf t fn s.args.n1).err = BitVec.ofNat 64 (0x0A * 2 ^ 32 + v.toNat))) ∧
  (∀ s, (s.trust.life ≠ .operational ∨ s.args.n2 = 0 ∧ (queueOf s s.args.n0 s.args.n1).state ≠ 1) → exec .notify s = .next s) ∧
  (∀ s, let bad := fun (o : Nat) => (fnOf s s.args.n0).enabled = false ∨ 4096 ≤ s.args.n1 ∨ (s.args.n3 ≠ 0 ∧ s.args.n3 ≠ 4 ∧ s.args.n3 ≠ 8) ∨
      o % (if s.args.n3 = 0 then 4 else s.args.n3) ≠ 0 ∨ o ≠ 0 ∧ o ≠ 8
    (bad s.args.n2 → exec .notify s = .next s) ∧ (bad (8 + s.args.n2) → exec .cqHeadWrite s = .next s)) ∧
  (∀ s k x, s.trust.life = .operational → s.queues = [(k, x)] → x.preempt = none → x.saved = false → (fnOf s (k / 4096)).enabled = true →
    ∃ t, exec .mappingPass s = .next t ∧ t.mem = s.mem ∧ (queueOf t (k / 4096) (k % 4096)).mapped = runnableQueue x ∧
      (runnableQueue x = true → x.mapped = false → (queueOf t (k / 4096) (k % 4096)).pending = false) ∧
      (s.args.flag = true → (⟨s.time.toNat + 250000, ⟨.mappingPass, { flag := true }⟩⟩ : Timer) ∈ t.timers)) ∧
  (∀ s k x, s.trust.life = .operational → s.queues = [(k, x)] → x.preempt = none → x.saved = true → x.state ≠ 0 → x.recs ≠ [] → x.mapped = false →
    (fnOf s (k / 4096)).enabled = true →
    ∃ t, exec .mappingPass s = .next t ∧ t.mem = s.mem ∧ (queueOf t (k / 4096) (k % 4096)).mapped = true ∧
      (⟨.contextRestore, { n0 := k / 4096, n1 := k % 4096 }⟩ : Due) ∈ t.agenda) ∧
  (∀ s, s.trust.life ≠ .operational → exec .mappingPass s = .next s) ∧
  (∀ s, s.args.n0 < dieCount s → ∃ t, exec .plCfgWrite s = .next t ∧ t.mem = s.mem ∧
    placerOf t s.args.n0 = { placerOf s s.args.n0 with
      ageLimit := if s.args.val.extractLsb' 8 8 = 0#8 then (placerOf s s.args.n0).ageLimit else (s.args.val.extractLsb' 8 8).toNat
      backfill := s.args.val.getLsbD 0 } ∧ (⟨.placementPass, { n0 := s.args.n0 }⟩ : Due) ∈ t.agenda)

/-- R156 to R160: the fault ring is enabled with valid fields and its counts zero, and disabled; entries are freed by the head register and posted
when there is room; a RETRY takes the fault from everything that waits for it, and an ABORT or a timeout ends its launch. -/
def Obligations.FaultRings : Prop :=
  (∀ s, let fn := s.args.n0
    let v := s.args.val
    let f := fnOf s fn
    let h := v.setWidth 32
    let good := (v.extractLsb' 0 4).toNat ≤ 10 ∧ (v.extractLsb' 16 8).toNat < f.asidCount ∧ (v.extractLsb' 32 16).toNat ≠ 0
    (f.frEnabled = false → f.faults = [] → ∃ t, exec .faultRingEnable s = .next t ∧ t.mem = s.mem ∧
      (good → fnOf t fn = { f with
        frEnabled := true, frIrq := v.getLsbD 62, frVector := (v.extractLsb' 56 6).toNat, frTimeout := (v.extractLsb' 32 16).toNat,
        frAsid := (v.extractLsb' 16 8).toNat, frLog2 := (v.extractLsb' 0 4).toNat, frTail := 0#32, frHead := 0#32 }) ∧
      (¬ good → (fnOf t fn).frEnabled = false)) ∧
    (f.frEnabled = true → (∀ x ∈ f.faults, x.written = true) →
      (∃ t, exec .faultRingDisable s = .next t ∧ t.mem = s.mem ∧ fnOf t fn = { f with frEnabled := false, frIrq := v.getLsbD 62 }) ∧
      ∃ t, exec .faultHeadWrite s = .next t ∧ t.mem = s.mem ∧
        fnOf t fn = { f with frHead := if (h - f.frHead).toNat ≤ (f.frTail - f.frHead).toNat then h else f.frHead })) ∧
  (∀ s x pa, let fn := s.args.n0
    let f := fnOf s fn
    f.faults = [x] → x.written = false → x.entry.length = 32 → f.frEnabled = true → (f.frTail - f.frHead).toNat < 2 ^ (f.frLog2 + 6) →
    AtHand s 0 (absAsid s fn f.frAsid) fn .write true (f.frBase.toNat + 32 * (f.frTail.toNat % 2 ^ (f.frLog2 + 6))) 32 pa →
    ∃ t, exec .faultEntryRetry s = .next t ∧ (fnOf t fn).frTail = f.frTail + 1 ∧ (fnOf t fn).faults = [{ x with written := true }] ∧
      (∀ j, j < 31 → readByte t.mem (pa + j) = nth 0#8 x.entry j) ∧ (∀ a, ¬ (pa ≤ a ∧ a < pa + 32) → readByte t.mem a = readByte s.mem a)) ∧
  (∀ s, let fn := s.args.n0
    let id := s.args.n1
    (outstandingFault s fn id = true → ∃ t, exec .faultResumeRetry s = .next t ∧ (∀ y ∈ (fnOf t fn).faults, y.id.toNat ≠ id) ∧
      (∀ p c, c ∈ (pierOf s p).copies → c.fn = fn → id ∈ c.faults → (⟨.transferBurst, { n0 := p, n1 := 0 }⟩ : Due) ∈ t.agenda) ∧
      ∀ p c, c ∈ (pierOf t p).copies → c.fn = fn → id ∉ c.faults) ∧
    (outstandingFault s fn id = false → exec .faultResumeRetry s = .next s ∧ exec .faultResumeAbort s = .next s ∧ exec .faultTimeout s = .next s)) ∧
  (∀ ev s x, let fn := s.args.n0
    let id := s.args.n1
    (ev = Instr.faultResumeAbort ∨ ev = Instr.faultTimeout) → (fnOf s fn).faults.find? (fun y => y.id.toNat == id) = some x → x.aborted = false →
    ((queueOf s fn x.q).saved = true → ∃ t, exec ev s = .next t ∧ t.mem = s.mem ∧ t.launches = s.launches ∧
      ∀ y ∈ (fnOf t fn).faults, y.id.toNat = id → y.aborted = true) ∧
    (∀ l y, (queueOf s fn x.q).saved = false → x.launch = some l → launchOf s l = some y → y.parent = none → y.doomed = none → (∀ c ∈ s.cores, c.2.sb = []) →
      ∃ t, exec ev s = .next t ∧ launchOf t l = none ∧ recordOf t y.fn y.q y.rec_ = none ∧ ∀ z ∈ (fnOf t fn).faults, z.id.toNat ≠ id))


/-! ## Registers, links, swaps and traces (R11, R12, R21, R36, R40, R41, R183 to R188, R211 to R213, R303 to R308) -/

/-- R11, R12, R21, R31, R65, R293: a write of eight aligned bytes reaches the register at its offset of an enabled function once the link has trained; a
write of another size, to an identity register, or to a register that only the physical function has, changes nothing. -/
def Claims.RegisterWrites : Prop :=
  ∀ s, let fn := s.args.n0
    let o := s.args.n1
    let v := s.args.val
    ((s.platform.linkUp = false ∨ (fnOf s fn).enabled = false ∨ (s.args.n2 ≠ 8 ∧ s.args.n2 ≠ 4) ∨ o % 4 ≠ 0 ∨ (s.args.n2 = 8 ∧ o % 8 ≠ 0) ∨
      (s.args.n2 = 4 ∧ (o < 0x180000 ∨ 0x180400 ≤ o)) ∨ o < 0x1000 ∨ (fn ≠ 0 ∧ 0x400000 ≤ o)) → exec .registerWrite s = .next s) ∧
    (s.platform.linkUp = true → (fnOf s fn).enabled = true → s.args.n2 = 8 →
      (∀ q, q < 4096 → o = 0x100000 + 64 * q → ∃ t, exec .registerWrite s = .next t ∧ t.mem = s.mem ∧
        queueOf t fn q = { queueOf s fn q with
          ring := if (queueOf s fn q).state = 1 ∨ (queueOf s fn q).state = 2 then (queueOf s fn q).ring else v &&& 0x01FFFFFFFFFFF000#64 }) ∧
      (o = 0x300000 → ∃ t, exec .registerWrite s = .next t ∧ t.mem = s.mem ∧
        fnOf t fn = { fnOf s fn with frBase := if (fnOf s fn).frEnabled then (fnOf s fn).frBase else v &&& 0x01FFFFFFFFFFF000#64 }) ∧
      (∀ d, fn = 0 → d < dieCount s → o = 0x200010 + 64 * d → ∃ t, exec .registerWrite s = .next t ∧ t.mem = s.mem ∧
        placerOf t d = { placerOf s d with phaseBase := v &&& 0x800FFFFFFFFC0000#64 }) ∧
      (∀ d, fn = 0 → d < dieCount s → o = 0x400000 + 64 * d → ∃ t, exec .registerWrite s = .next t ∧ t.mem = s.mem ∧
        swapOf t d = { swapOf s d with entryA := if (swapOf s d).status = 1 then (swapOf s d).entryA else v &&& 0x000FFFFFFFFFFFF8#64 }) ∧
      (∀ n, fn = 0 → n < 4 → o = 0x600048 + 16 * n → s.dbg.bps.length = 4 → ∃ t, exec .registerWrite s = .next t ∧ t.mem = s.mem ∧
        t.dbg.bps[n]? = some ((nth (0#64, false, 0#32) s.dbg.bps n).1, v.getLsbD 63, v.setWidth 32)))

/-- R23, R36, R40, R41, R164, R165, R211 to R213: the links come up, and the accesses that arrive over them read or write the memory of the module with the
tokens of the line gathered; in SAFE and FATAL a host read is poisoned and a host write is dropped. -/
def Claims.LinksAndArrivals : Prop :=
  (∀ s, ∃ t, exec .hostLinkTraining s = .next t ∧ t.mem = s.mem ∧ t.trust = s.trust ∧
    t.platform = { s.platform with linkUp := true, hdm := if s.args.flag then [(0, s.args.n0), (1, s.args.n1)] else s.platform.hdm }) ∧
  (∀ s, let old := look 0 s.platform.ports s.args.n0
    (s.args.n0 < portCount s → (s.args.n1 = 1 ∨ (s.args.n1 = 3 ∧ s.trust.life = .selfTest ∧ old = 0) ∨ (s.args.n1 = 2 ∧ old = 1)) → old ≠ 3 →
      ∃ t, exec .peerPortStateChange s = .next t ∧ look 0 t.platform.ports s.args.n0 = s.args.n1 ∧ t.mem = s.mem ∧
        ∀ k, k ≠ s.args.n0 → look 0 t.platform.ports k = look 0 s.platform.ports k) ∧
    ((portCount s ≤ s.args.n0 ∨ old = 3 ∨ (s.args.n1 = 2 ∧ old ≠ 1) ∨ (s.args.n1 = 3 ∧ (s.trust.life ≠ .selfTest ∨ old ≠ 0)) ∨ s.args.n1 = 0 ∨ 3 < s.args.n1) → exec .peerPortStateChange s = .next s)) ∧
  (∀ s pa, let a := s.args
    let line := pa / 128
    let n := if a.n0 = 1 then a.bytes.length else a.n2
    let data := if poisoned s line then none else some (readBytes s.mem pa n)
    hdmTarget s a.n1 = some pa →
    (deviceTier s pa n = false → exec .hostMemAccess s = .fault .unpopulated) ∧
    (deviceTier s pa n = true → (s.trust.life = .safe ∨ s.trust.life = .fatal) → (a.n0 = 1 → exec .hostMemAccess s = .next s) ∧
      (a.n0 ≠ 1 → ∃ t, exec .hostMemAccess s = .next t ∧ t.mem = s.mem ∧ t.out = { s.out with hostData := s.out.hostData ++ [(a.n1, none)] })) ∧
    (deviceTier s pa n = true → s.trust.life = .operational → (lineOf s line).hostState = 1 → a.n0 ≠ 1 →
      ∃ t, exec .hostMemAccess s = .next t ∧ t.mem = s.mem ∧ t.out = { s.out with hostData := s.out.hostData ++ [(a.n1, data)] }) ∧
    (deviceTier s pa n = true → s.trust.life = .operational → FreeLine s (gateway (homeDie s pa)) line →
      (a.n0 = 1 → ∃ t, exec .hostMemAccess s = .next t ∧ t.mem = writeBytes s.mem pa a.bytes) ∧
      (a.n0 = 0 → ∃ t, exec .hostMemAccess s = .next t ∧ t.mem = s.mem ∧ t.out = { s.out with hostData := s.out.hostData ++ [(a.n1, data)] }) ∧
      (a.n0 = 2 → ∃ t, exec .hostMemAccess s = .next t ∧ t.mem = s.mem ∧ t.out = { s.out with hostData := s.out.hostData ++ [(a.n1, data)] } ∧
        (lineOf t line).hostState = 1 ∧ (lineOf t line).home = 0))) ∧
  (∀ s, hdmTarget s s.args.n1 = none → exec .hostMemAccess s = .fault .unpopulated) ∧
  (∀ s, let a := s.args
    let pa := a.n1
    let n := if a.flag then a.bytes.length else a.n2
    portUp s a.n0 = true → a.n0 < portCount s →
    (deviceTier s pa n = false → exec .peerAccess s = .fault .unpopulated) ∧
    (deviceTier s pa n = true → FreeLine s (peerGateway (if a.n0 < 6 then 0 else 1)) (pa / 128) →
      ∃ t, exec .peerAccess s = .next t ∧ (a.flag = true → a.n3 = 0 → t.mem = writeBytes s.mem pa a.bytes) ∧ (a.flag = false → t.mem = s.mem ∧
        t.out = { s.out with peerData := s.out.peerData ++ [(a.n0, if poisoned s (pa / 128) then none else some (readBytes s.mem pa n))] }) ∧
        ∀ k, a.flag = true → a.n3 = k + 1 → k ≤ 9 → poisoned s (pa / 128) = false →
          t.mem = writeBytes s.mem pa (leBytes n (atomValue k n (leNat (readBytes s.mem pa n)) (leNat a.bytes))) ∧
          t.out = { s.out with peerData := s.out.peerData ++ [(a.n0, some (readBytes s.mem pa n))] })) ∧
  (∀ s, (portUp s s.args.n0 = false ∨ portCount s ≤ s.args.n0) → exec .peerAccess s = .next s)

/-- R293, R294, R297: the five steps of the debugger's registers complete: with debug unlocked DEBUG_ATTACH takes the context it names, HALT_REQUEST sets
HALT, HALT_TIMEOUT leaves the one group of the context halted, HALT_RELEASE clears HALT, and DEBUG_STEP of a halted context begins a step. -/
def Claims.DebuggerStepsComplete : Prop :=
  (∀ s, s.dbg.enabled = false → s.trust.debugUnlocked = true → s.args.val.getLsbD 63 = true → s.args.val.getLsbD 62 = false →
    ∃ t, exec .debugAttach s = .next t ∧ t.dbg.enabled = true ∧ t.dbg.fn = (s.args.val.extractLsb' 50 6).toNat ∧
      t.dbg.q = (s.args.val.extractLsb' 32 12).toNat ∧ t.dbg.halt = false) ∧
  (∀ s, s.dbg.enabled = true → ∃ t, exec .haltRequest s = .next t ∧ t.dbg.enabled = true ∧ t.dbg.halt = true) ∧
  (∀ s cid c slot g, s.dbg.enabled = true → s.dbg.halt = true → s.cores = [(cid, c)] → c.groups = [(slot, g)] → slot < 15 → g.exitedWhole = false →
    contextOf s g = (s.dbg.fn, s.dbg.q) → g.stop = none → (∀ u, u < 32 → (threadOf g u).region = none) →
    ∃ t h st, exec .haltTimeout s = .next t ∧ groupOf t cid slot = some h ∧ h.stop = some st ∧ st.halted = true) ∧
  (∀ s, s.dbg.enabled = true → s.dbg.halt = true → ∃ t, exec .haltRelease s = .next t ∧ t.dbg.halt = false) ∧
  (∀ s, haltedAll s = true → ∃ t, exec .debugStep s = .next t ∧ t.dbg.stepping = true)

/-- R183 to R188: GO checks the two entries and frames, marks both MIG and starts the exchange; each line changes places with its data; after the last
the entries take each other's frame and tier with MIG clear, and the engine is DONE. -/
def Obligations.SwapsExchangeFrames : Prop :=
  (∀ s, let die := s.args.n0
    let s1 := if s.args.flag then s else modSwap s die fun w => { w with
      irqEn := s.args.val.getLsbD 62, vector := (s.args.val.extractLsb' 56 6).toNat, size := (s.args.val.extractLsb' 0 2).toNat }
    let w := swapOf s1 die
    let a := w.entryA.toNat
    let b := w.entryB.toNat
    die < dieCount s → w.status ≠ 1 →
    (w.size = 3 → ∃ t, exec .swapGo s = .next t ∧ swapOf t die = { w with status := 5 } ∧ t.mem = s.mem) ∧
    (w.size ≠ 3 → FreeLine s (swapAgent die) (a / 128) → FreeLine s (swapAgent die) (b / 128) →
      ((badSwapEntry s1 a w.size = true ∨ badSwapEntry s1 b w.size = true) →
        ∃ t, exec .swapGo s = .next t ∧ swapOf t die = { w with status := 3 } ∧ t.mem = s.mem) ∧
      (badSwapEntry s1 a w.size = false → badSwapEntry s1 b w.size = false →
        badSwapFrames s1 die w.size (readEntry8 s a) (readEntry8 s b) = true →
        ∃ t, exec .swapGo s = .next t ∧ swapOf t die = { w with status := 4 } ∧ t.mem = s.mem) ∧
      (badSwapEntry s1 a w.size = false → badSwapEntry s1 b w.size = false →
        badSwapFrames s1 die w.size (readEntry8 s a) (readEntry8 s b) = false →
        ∃ t, exec .swapGo s = .next t ∧ swapOf t die = { w with
            status := 1, line := 0, span := w.size, addrA := a, addrB := b, leafA := readEntry8 s a, leafB := readEntry8 s b } ∧
          (⟨.swapLine, { n0 := die }⟩ : Due) ∈ t.agenda ∧
          (w.size ≠ 1 → (a + 8 ≤ b ∨ b + 8 ≤ a) → readEntry8 t a = readEntry8 s a ||| 0x8000#64 ∧ readEntry8 t b = readEntry8 s b ||| 0x8000#64)))) ∧
  (∀ s, dieCount s ≤ s.args.n0 → exec .swapGo s = .next s) ∧
  (∀ s, let die := s.args.n0
    let w := swapOf s die
    let a := pteFrame w.leafA / 128 + w.line
    let b := pteFrame w.leafB / 128 + w.line
    w.status = 1 →
    (w.line < swapBytes w.span / 128 → a ≠ b → FreeLine s (swapAgent die) a → FreeLine s (swapAgent die) b →
      ∃ t, exec .swapLine s = .next t ∧ swapOf t die = { w with line := w.line + 1 } ∧ (⟨.swapLine, s.args⟩ : Due) ∈ t.agenda ∧
        (∀ j, j < 128 → readByte t.mem (128 * a + j) = readByte s.mem (128 * b + j) ∧ readByte t.mem (128 * b + j) = readByte s.mem (128 * a + j)) ∧
        (∀ y, y / 128 ≠ a → y / 128 ≠ b → readByte t.mem y = readByte s.mem y) ∧ poisoned t a = poisoned s b ∧ poisoned t b = poisoned s a) ∧
    (swapBytes w.span / 128 ≤ w.line → w.span ≠ 1 → (w.addrA + 8 ≤ w.addrB ∨ w.addrB + 8 ≤ w.addrA) →
      FreeLine s (swapAgent die) (w.addrA / 128) → FreeLine s (swapAgent die) (w.addrB / 128) →
      ∃ t, exec .swapLine s = .next t ∧ swapOf t die = { w with status := 2 } ∧
        (∀ e f, (e = w.addrA ∧ f = w.leafB ∨ e = w.addrB ∧ f = w.leafA) → pteFrame (readEntry8 t e) = pteFrame f ∧ pteTier (readEntry8 t e) = pteTier f ∧
          pteMig (readEntry8 t e) = false ∧ readEntry8 t e &&& 0xFF0000000000F3FF#64 = readEntry8 s e &&& 0xFF000000000073FF#64) ∧
        (∀ y, ¬ (w.addrA ≤ y ∧ y < w.addrA + 8) → ¬ (w.addrB ≤ y ∧ y < w.addrB + 8) → readByte t.mem y = readByte s.mem y) ∧
        (w.irqEn = true → (fnOf s 0).masked.contains w.vector = false → t.out = { s.out with msix := s.out.msix ++ [(0, w.vector)] })))

/-- R303 to R308: a read of CYCLES copies the leaves to the shadows; a sample is sent for a core with a user group and the next interval begins; a
GAP record tells what was lost when there is room again; and a write clears NOT_REPLAYABLE. -/
def Obligations.Tracing : Prop :=
  (∀ s, (s.args.flag = true → s.args.n1 < 4096 → ∀ x, find? s.queues (4096 * s.args.n0 + s.args.n1) = some x →
      ∃ t, exec .cyclesRead s = .next t ∧ t.mem = s.mem ∧ queueOf t s.args.n0 s.args.n1 = { x with shadows := x.leaves }) ∧
    (s.args.flag = false → s.args.n1 < 128 * dieCount s → ∃ t, exec .cyclesRead s = .next t ∧ t.mem = s.mem ∧
      (coreOf t s.args.n1).shadows = (coreOf t s.args.n1).leaves ∧ (coreOf t s.args.n1).groups = (coreOf s s.args.n1).groups)) ∧
  (∀ s, ((s.dbg.sampleEn = false ∨ s.dbg.interval = 0) → exec .traceSample s = .next s) ∧
    (s.dbg.sampleEn = true → s.dbg.interval ≠ 0 → ∃ t, exec .traceSample s = .next t ∧ t.mem = s.mem ∧
      (⟨s.time.toNat + s.dbg.interval, ⟨.traceSample, {}⟩⟩ : Timer) ∈ t.timers)) ∧
  (∀ s cid c slot g, s.dbg.sampleEn = true → s.dbg.interval ≠ 0 → s.cores = [(cid, c)] → c.groups = [(slot, g)] → slot < 15 → g.stop = none →
    g.exitedWhole = false → (bufOf s (cid / 128)).lost = 0 → (bufOf s (cid / 128)).records.length < 2048 →
    ∃ t r, exec .traceSample s = .next t ∧ (bufOf t (cid / 128)).records.getLast? = some r ∧ r.length = 32 ∧
      r.take 4 = leBytes 1 1 ++ leBytes 1 (cid / 128) ++ leBytes 1 (cid % 128) ++ leBytes 1 slot) ∧
  (∀ s, let b := bufOf s s.args.n0
    (b.lost = 0 → exec .gapRecord s = .next s) ∧
    (0 < b.lost → b.records.length < 2048 → ∃ t r, exec .gapRecord s = .next t ∧ t.mem = s.mem ∧ (bufOf t s.args.n0).lost = 0 ∧
      (bufOf t s.args.n0).records.getLast? = some r ∧ r.take 1 = [4#8] ∧ leNat ((r.drop 16).take 4) = b.lost % 2 ^ 32)) ∧
  (∀ s, ∃ t, exec .traceStatusClear s = .next t ∧ t = { s with dbg := { s.dbg with notReplayable := false, firstOrdinal := 0xFFFFFFFF#32 } })


/-! ## Life cycle, firmware, ownership and attestation (R13, R18, R26 to R30, R38 to R60, R293) -/

/-- R13, R39, R42, R47, R51, R53, R60: reset and loss of power leave fuses, flash and the secure store, zero measurements and time zero; self-test leads
to VERIFY or, with its failure recorded, to SAFE; and the boot ROM takes up a release, runs the slot it accepts, or stays in SAFE. -/
def Claims.ResetAndBoot : Prop :=
  (∀ ev s, (ev = Instr.powerOnReset ∨ ev = Instr.powerLoss) →
    ∃ t, exec ev s = .next t ∧ t.trust.life = .selfTest ∧ t.time = 0#64 ∧ t.trust.measures = List.replicate 8 (List.replicate 32 0#8) ∧
      t.trust.flash = s.trust.flash ∧ t.trust.svnFuse = s.trust.svnFuse ∧ t.trust.ownerKeys = s.trust.ownerKeys ∧ t.trust.releasing = s.trust.releasing ∧
      t.trust.active = s.trust.nextActive.getD s.trust.active ∧ t.trust.debugUnlocked = false ∧ t.agenda = inputsOf s ∧ t.timers = [] ∧ t.launches = [] ∧
      t.teams = [] ∧ t.queues = [] ∧ t.variant = s.variant ∧ t.platform.powered = decide (ev = .powerOnReset)) ∧
  (∀ s, let a := s.args
    (s.trust.life ≠ .selfTest → exec .selfTestComplete s = .next s) ∧
    (s.trust.life = .selfTest → a.flag = true → ∃ t, exec .selfTestComplete s = .next t ∧ t.trust.life = .verify ∧ t.mem = s.mem ∧
      t.trust.bist = 0xC000000000000000#64 ∧ (⟨.bootVerify, {}⟩ : Due) ∈ t.agenda) ∧
    (s.trust.life = .selfTest → a.flag = false → ∃ t, exec .selfTestComplete s = .next t ∧ t.trust.life = .safe ∧ t.mem = s.mem ∧
      t.trust.bist = BitVec.ofNat 64 (2 ^ 63 + a.n0 % 2 * 2 ^ 47 + a.n1 % 128 * 2 ^ 40 + a.n2 % 256 * 2 ^ 32 + a.n3 % 2 ^ 32) ∧
      (a.n1 = 8 → 6 * a.n0 + a.n2 < portCount s → look 0 t.platform.ports (6 * a.n0 + a.n2) = 3))) ∧
  (∀ s, let tr := s.trust
    let image := fun k => (nth ⟨[], false⟩ tr.flash k).bytes
    (tr.life ≠ .verify → exec .bootVerify s = .next s) ∧
    (tr.life = .verify → ∃ t, exec .bootVerify s = .next t ∧ t.mem = s.mem ∧
      (tr.releasing = true → t.trust.life = .releasing ∧ (⟨.releaseEraseComplete, {}⟩ : Due) ∈ t.agenda) ∧
      (tr.releasing = false → verifyImage tr (image tr.active) = none → t.trust.active = tr.active ∧ t.trust.secretLocked = true ∧
        (t.trust.life = if tr.ownerKeys.all Option.isNone then .unowned else .operational) ∧
        (t.trust.life = .operational → ∀ c, c < 128 * dieCount s → ∃ g, groupOf t c 15 = some g ∧ g.granules = 16 ∧ g.supervisor = true)) ∧
      (∀ e, tr.releasing = false → verifyImage tr (image tr.active) = some e → verifyImage tr (image (1 - tr.active)) = none →
        t.trust.active = 1 - tr.active ∧ t.trust.lastError = e ∧ t.trust.life = if tr.ownerKeys.all Option.isNone then .unowned else .operational) ∧
      (∀ e f, tr.releasing = false → verifyImage tr (image tr.active) = some e → verifyImage tr (image (1 - tr.active)) = some f →
        t.trust.life = .safe ∧ t.trust.lastError = e)))

/-- R18, R26, R28 to R30, R51, R52: heat and power move the clock in steps of 25 MHz between 500 MHz and 1.5 GHz, a thermal trip and a failed viaduct lead to
FATAL, where nothing runs, and the management port sets the power limit, tells telemetry and takes its address. -/
def Claims.PowerAndHeat : Prop :=
  (∀ s, let p := s.platform
    (500 ≤ p.clock → p.clock ≤ 1500 → ∃ t, exec .thermalThrottle s = .next t ∧ t.platform.throttled = true ∧ 500 ≤ t.platform.clock ∧
      t.platform.clock ≤ p.clock ∧ t.mem = s.mem) ∧
    (s.args.flag = true → ∃ t, exec .clockThrottleStep s = .next t ∧ t.platform = { p with clock := min 1500 (p.clock + 25), overLimit := false } ∧
      t.mem = s.mem) ∧
    (s.args.flag = false → ∃ t, exec .clockThrottleStep s = .next t ∧ t.mem = s.mem ∧
      (p.clock ≤ 500 → t.platform = { p with overLimit := true }) ∧ (500 < p.clock → t.platform = { p with clock := max 500 (p.clock - 25) }))) ∧
  (∀ s, ∃ t, exec .thermalTrip s = .next t ∧ t.platform.tripped = true ∧ t.trust.life = .fatal ∧
    (s.trust.life ≠ .fatal → t.trust.lastError = 0x21 ∧ (∀ c, (coreOf t c).groups = []) ∧ t.teams = [] ∧ t.launches = [] ∧
      ∀ q ∈ s.queues, ∀ r ∈ q.2.recs, recordOf t (q.1 / 4096) (q.1 % 4096) r.n = none)) ∧
  (∀ s, ((s.variant = .k480 ∨ s.trust.life = .fatal) → exec .viaductFailure s = .next s) ∧
    (s.variant ≠ .k480 → s.trust.life = .selfTest → ∃ t, exec .viaductFailure s = .next t ∧ t.trust.life = .safe ∧ t.platform.viaductDown = true ∧
      t.trust.bist = BitVec.ofNat 64 (2 ^ 63 + s.args.n0 % 2 * 2 ^ 47 + 4 * 2 ^ 40 + s.args.n2 % 256 * 2 ^ 32 + s.args.n3 % 2 ^ 32)) ∧
    (s.variant ≠ .k480 → s.trust.life ≠ .selfTest → s.trust.life ≠ .fatal → ∃ t, exec .viaductFailure s = .next t ∧ t.trust.life = .fatal ∧
      t.trust.lastError = 0x20 ∧ (∀ c, (coreOf t c).groups = []) ∧ t.launches = [])) ∧
  (∀ s, let w := s.args.n0
    let top := if s.variant = .k480 then 900 else 1800
    PortOpen s →
    (w % 10 = 0 → top / 3 ≤ w → w ≤ top → ∃ t, exec .powerLimitSet s = .next t ∧ Replies s t [0#8] ∧ t.platform = { s.platform with powerLimit := w }) ∧
    ((w % 10 ≠ 0 ∨ w < top / 3 ∨ top < w) → ∃ t, exec .powerLimitSet s = .next t ∧ Replies s t [1#8] ∧ t.platform = s.platform) ∧
    ∃ t, exec .telemetryRequest s = .next t ∧ t.platform = s.platform ∧ t.mem = s.mem ∧ ∃ b, t.out = { s.out with replies := s.out.replies ++ [b] } ∧
      leNat (b.take 2) = s.platform.powerLimit % 2 ^ 16 ∧ leNat ((b.drop 2).take 2) = s.platform.clock % 2 ^ 16) ∧
  (∀ ev s, (ev = Instr.powerLimitSet ∨ ev = Instr.telemetryRequest) → ¬ PortOpen s → exec ev s = .next s) ∧
  (∀ s, ∃ t, exec .dynamicAddressAssignment s = .next t ∧ t = { s with platform := { s.platform with i3c := some s.args.n0 } })

/-- R42, R47: the inactive slot is written, and activated once its write is complete; both are busy while the device is RELEASING. -/
def Claims.FirmwareSlots : Prop :=
  (∀ s, let tr := s.trust
    let slot := 1 - tr.active
    let old := (nth ⟨[], false⟩ tr.flash slot).bytes
    let o := s.args.n0
    let b := s.args.bytes
    PortOpen s →
    (tr.life ≠ .releasing → o + b.length ≤ 2 ^ 24 → slot < tr.flash.length →
      ∃ t f, exec .firmwareUpdate s = .next t ∧ Replies s t [0#8] ∧ t.trust.nextActive = none ∧ t.trust.flash[slot]? = some f ∧ f.complete = s.args.flag ∧
        (∀ j, j < b.length → f.bytes[o + j]? = b[j]?) ∧ (∀ j, (j < o ∧ j < old.length) ∨ o + b.length ≤ j → f.bytes[j]? = old[j]?) ∧
        (∀ j, old.length ≤ j → j < o → f.bytes[j]? = some 0xFF#8) ∧
        ∀ k, k ≠ slot → t.trust.flash[k]? = tr.flash[k]?) ∧
    (tr.life ≠ .releasing → (nth ⟨[], false⟩ tr.flash slot).complete = true →
      ∃ t, exec .firmwareActivate s = .next t ∧ Replies s t [0#8] ∧ t.trust = { tr with nextActive := some slot }) ∧
    (tr.life ≠ .releasing → (nth ⟨[], false⟩ tr.flash slot).complete = false →
      ∃ t, exec .firmwareActivate s = .next t ∧ Replies s t [1#8] ∧ t.trust = tr) ∧
    (tr.life = .releasing → ∃ t u, exec .firmwareUpdate s = .next t ∧ Replies s t [2#8] ∧ t.trust = tr ∧
      exec .firmwareActivate s = .next u ∧ Replies s u [2#8] ∧ u.trust = tr))

/-- R45, R53, R56, R293: the owner commands: adding and removing keys, blowing the anti-rollback fuse up to the version that runs, unlocking debug, and
extending the owner's measurement register; unsigned ones change nothing.  The layout of the messages and the codes of the answers are the model's choice
(log entry 31). -/
def Claims.OwnerCommands : Prop :=
  let held := fun (t : Trust) => (t.ownerKeys.filter Option.isSome).length
  let grown := fun (t u : Trust) (n : Nat) => ∃ m, u.measures[n]? = some m ∧ ∀ k, k ≠ n → u.measures[k]? = t.measures[k]?
  OwnerCommand .ownerKeyAdd 1 (fun s => s.args.bytes) (fun s => (∃ n, n < 4 ∧ s.trust.ownerKeys[n]? = some none) ∧ s.args.bytes.length = 64)
    (fun t s u => ∃ n, n < 4 ∧ t.ownerKeys[n]? = some none ∧ u = { t with ownerKeys := t.ownerKeys.set n (some s.args.bytes) }) ∧
  OwnerCommand .ownerKeyRemove 2 (fun s => leBytes 1 s.args.n1) (fun s => 2 ≤ held s.trust ∧ ∃ k, s.trust.ownerKeys[s.args.n1]? = some (some k))
    (fun t s u => u = { t with ownerKeys := t.ownerKeys.set s.args.n1 none }) ∧
  OwnerCommand .svnFuseBlow 3 (fun _ => []) (fun _ => True)
    (fun t _ u => u = { t with svnFuse := t.svnFuse ||| BitVec.ofNat 64 (2 ^ min 64 t.runSvn - 1) } ∧ ∀ k, t.svnFuse.getLsbD k = true → u.svnFuse.getLsbD k = true) ∧
  OwnerCommand .debugUnlock 4 (fun _ => []) (fun _ => True) (fun t _ u => u.debugUnlocked = true ∧ (6 < t.measures.length → grown t u 6)) ∧
  OwnerCommand .ownerDigestExtend 5 (fun s => s.args.bytes) (fun s => s.args.bytes.length = 32)
    (fun t s u => 7 < t.measures.length → u.measures[7]? = some (sha256 (nth [] t.measures 7 ++ s.args.bytes)) ∧ grown t u 7)

/-- R51, R57 to R60, R90: a fresh nonce; a release signed by an owner enters RELEASING and erases; the erased device is UNOWNED with nothing of its owner
left; and a claim signed over the nonce writes the keys and boots. -/
def Claims.Ownership : Prop :=
  (∀ s, PortOpen s → ∃ t n, exec .ownershipNonce s = .next t ∧ Replies s t n ∧ n.length = 32 ∧ t.trust = { s.trust with nonce := some n }) ∧
  (∀ s, let good := s.trust.life = .operational ∧ s.trust.nonce = some s.args.bytes ∧
      ownerSigned s.trust s.args.n0 (s.args.bytes ++ s.trust.serial) s.args.sig = true
    PortOpen s →
    (good → ∃ t, exec .releaseMessage s = .next t ∧ t.trust.life = .releasing ∧ t.trust.releasing = true ∧ t.trust.nonce = none ∧
      (⟨.releaseEraseComplete, {}⟩ : Due) ∈ t.agenda) ∧
    (¬ good → ∃ t, exec .releaseMessage s = .next t ∧ Replies s t [1#8] ∧ t.trust = s.trust)) ∧
  (∀ s, (s.trust.life ≠ .releasing → exec .releaseEraseComplete s = .next s) ∧
    (s.trust.life = .releasing → discarding s = true → ∃ t, exec .releaseEraseComplete s = .next t ∧ t.trust = s.trust ∧
      (⟨.releaseEraseComplete, {}⟩ : Due) ∈ t.agenda) ∧
    (s.trust.life = .releasing → discarding s = false → hostCached s = [] → ∃ t, exec .releaseEraseComplete s = .next t ∧ t.trust.life = .unowned ∧ t.trust.releasing = false ∧
      t.trust.ownerKeys = [none, none, none, none] ∧ t.trust.sealedData = [] ∧ t.fns = [(0, Fn.resetPf)] ∧ t.queues = [] ∧ t.cqs = [] ∧
      (∀ line, hostLine s line = false → (lineOf t line).home = 1024 ∧ (lineOf t line).holders = [] ∧ poisoned t line = false) ∧
      t.cores = [] ∧ (∀ c ∈ t.mem, tierOf s c.1 ≠ some 0 ∧ tierOf s c.1 ≠ some 1) ∧
      ∀ a, (tierOf s a = some 0 ∨ tierOf s a = some 1) → readByte t.mem a = 0#8)) ∧
  (∀ s, let keys := claimKeys (s.args.bytes.drop 32)
    let good := s.trust.life = .unowned ∧ s.trust.nonce = some (s.args.bytes.take 32) ∧ 1 ≤ keys.length ∧ keys.length ≤ 4 ∧
      (s.args.bytes.drop 32).length % 64 = 0 ∧ ecdsaVerify (keys.headD []) (sha256 (s.args.bytes.take 32)) s.args.sig = true
    PortOpen s →
    (good → ∃ t, exec .claimMessage s = .next t ∧ t.trust.life = .verify ∧ t.trust.nonce = none ∧ t.trust.flash = s.trust.flash ∧ t.trust.measures = s.trust.measures ∧ t.mem = s.mem ∧
      t.trust.svnFuse = s.trust.svnFuse ∧ (∀ k, k < keys.length → t.trust.ownerKeys[k]? = some keys[k]?) ∧
      (∀ k, keys.length ≤ k → k < 4 → t.trust.ownerKeys[k]? = some none) ∧ (⟨.bootVerify, {}⟩ : Due) ∈ t.agenda) ∧
    (¬ good → ∃ t, exec .claimMessage s = .next t ∧ Replies s t [1#8] ∧ t.trust = s.trust))

/-- R40, R54, R55: an SPDM request over the management port, or over the DOE mailbox once the link has trained, is answered with the contents R55 states
and changes nothing else; a session begins with KEY_EXCHANGE and is established by FINISH.  The codes of the algorithms are SPDM's (log entry 31). -/
def Claims.Attestation : Prop :=
  let answers := fun (ev : Instr) (content : State → List Byte) (after : State → Trust → Prop) => ∀ s,
    ((s.args.n0 = 0 ∧ PortOpen s) ∨ (s.args.n0 ≠ 0 ∧ s.platform.linkUp = true) →
      ∃ t b, exec ev s = .next t ∧ Replies s t (b ++ content s) ∧ after s t.trust ∧ t.queues = s.queues ∧ t.agenda = s.agenda) ∧
    (¬ ((s.args.n0 = 0 ∧ PortOpen s) ∨ (s.args.n0 ≠ 0 ∧ s.platform.linkUp = true)) → exec ev s = .next s)
  let same := fun (s : State) (t : Trust) => t = s.trust
  let chain := fun (s : State) => Config.certificates s.trust.cdi
  let signs := fun (s : State) (m : List Byte) => m ++ if s.trust.secretLocked then Config.aliasSign s.trust.cdi m else []
  answers .getVersion (fun _ => [0x12#8, 0x13#8]) same ∧ answers .getCapabilities (fun _ => []) same ∧
  answers .negotiateAlgorithms (fun _ => leBytes 4 0x10 ++ leBytes 4 1) same ∧
  answers .getDigests (fun s => sha256 (chain s)) same ∧ answers .getCertificate chain same ∧ answers .challenge (fun s => signs s s.args.bytes) same ∧
  answers .getMeasurements (fun s => signs s (if 1 ≤ s.args.n1 ∧ s.args.n1 ≤ 8 then nth [] s.trust.measures (s.args.n1 - 1) else [])) same ∧
  answers .keyExchange (fun s => signs s s.args.bytes) (fun s t => t = { s.trust with session := if s.trust.secretLocked then 1 else s.trust.session }) ∧
  answers .finish (fun _ => []) (fun s t => if s.trust.session = 1 ∧ s.args.flag = true then t = { s.trust with session := 2, ideKeys := t.ideKeys }
    else t = s.trust)


/-! ## Pre-emption, debugging and events (R136 to R161, R247, R248, R292 to R298, R380, R491) -/

/-- R57, R138, R139, R142 to R148: the stop of a pre-emption reaches a unit, whose groups of the context stop at their boundary with cause PREEMPT; a unit at
its boundary acknowledges; the dies then write the image, into no memory below the save area of the function, and the context is off its cores; a mapped queue's
context stands first in the placement lists; and with its last team placed it is saved no more. -/
def Obligations.Preemption : Prop :=
  (∀ s, (queueOf s s.args.n0 s.args.n1).preempt = none →
    exec .preemptStop s = .next s ∧ exec .stoppingUnitReached s = .next s ∧ exec .contextImageWritten s = .next s) ∧
  (∀ s p, let a := s.args
    (queueOf s a.n0 a.n1).preempt = some p →
    (a.unit ∈ p.toStop → ∃ t, exec .preemptStop s = .next t ∧
      (queueOf t a.n0 a.n1).preempt = some { p with toStop := p.toStop.filter fun v => !(v = a.unit) } ∧
      (⟨.stoppingUnitReached, a⟩ : Due) ∈ t.agenda ∧ ((∀ c, a.unit ≠ .core c) → t.mem = s.mem ∧ t.cores = s.cores) ∧
      ∀ c k g, a.unit = .core c → k ∈ contextSlots s a.n0 a.n1 c → groupOf s c k = some g → g.exitedWhole = false → g.stop = none →
        ∃ h st, groupOf t c k = some h ∧ h.stop = some st ∧ st.causes = 8 ∧ st.code = 0) ∧
    (a.unit ∉ p.toStop → a.unit ∈ p.toAck →
      (unitStopped s a.n0 a.n1 a.unit = true → ∃ t, let left := p.toAck.filter fun v => !(v = a.unit)
        exec .stoppingUnitReached s = .next t ∧ (queueOf t a.n0 a.n1).preempt = some { p with toAck := left } ∧
        (left = [] → (⟨.contextImageWritten, { n0 := a.n0, n1 := a.n1 }⟩ : Due) ∈ t.agenda) ∧ t.mem = s.mem) ∧
      (unitStopped s a.n0 a.n1 a.unit = false → ∃ t, exec .stoppingUnitReached s = .next t ∧ t.queues = s.queues ∧ t.mem = s.mem ∧
        (⟨.stoppingUnitReached, a⟩ : Due) ∈ t.agenda)) ∧
    (p.toAck = [] → p.discard = false → (∀ x ∈ s.piers, ∀ c ∈ x.2.copies, ¬ (c.kind = 5 ∧ c.fn = a.n0 ∧ c.q = a.n1)) →
      ∃ t, exec .contextImageWritten s = .next t ∧ (queueOf t a.n0 a.n1).preempt = none ∧ (queueOf t a.n0 a.n1).saved = true ∧
        (∀ x ∈ contextTeams s a.n0 a.n1, teamOf t x.1 = none) ∧
        ((look Saved.empty t.saved (4096 * a.n0 + a.n1)).teams.map (·.id)) = (contextTeams s a.n0 a.n1).map (·.1) ++
          (look Saved.empty s.saved (4096 * a.n0 + a.n1)).teams.map (·.id) ∧
        ∀ y, y < (fnOf s a.n0).area → readByte t.mem y = readByte s.mem y) ∧
    (p.toAck = [] → p.discard = true → ∃ t, exec .contextImageWritten s = .next t ∧ (queueOf t a.n0 a.n1).preempt = none ∧
      (queueOf t a.n0 a.n1).saved = false ∧ ∀ r ∈ (queueOf s a.n0 a.n1).recs, recordOf t a.n0 a.n1 r.n = none)) ∧
  (∀ s, let a := s.args
    let key := 4096 * a.n0 + a.n1
    ((queueOf s a.n0 a.n1).saved = false → exec .contextRestore s = .next s) ∧
    ((queueOf s a.n0 a.n1).saved = true → a.flag = false → savedLeft s key = true → (∀ p ∈ s.placers, (key, true) ∉ p.2.list) →
      (∃ d, d < dieCount s ∧ 64 ≤ (placerOf s d).list.length) → ∃ t, exec .contextRestore s = .next t ∧ t.placers = s.placers ∧
        (⟨.contextRestore, { n0 := a.n0, n1 := a.n1 }⟩ : Due) ∈ t.agenda) ∧
    ((queueOf s a.n0 a.n1).saved = true → a.flag = false → savedLeft s key = true → (∀ p ∈ s.placers, (key, true) ∉ p.2.list) →
      (∀ d, d < dieCount s → (placerOf s d).list.length < 64) → ∃ t, exec .contextRestore s = .next t ∧ t.mem = s.mem ∧ ∀ d, d < dieCount s →
        (placerOf t d).list = (placerOf s d).list.filter (·.2) ++ (key, true) :: (placerOf s d).list.filter (fun e => !e.2) ∧
        (⟨.placementPass, { n0 := d }⟩ : Due) ∈ t.agenda) ∧
    ((queueOf s a.n0 a.n1).saved = true → a.flag = true → savedLeft s key = false → (fnOf s a.n0).faults = [] →
      ∃ t, exec .contextRestore s = .next t ∧ (queueOf t a.n0 a.n1).saved = false ∧ find? t.saved key = none ∧
        (∀ r ∈ (queueOf s a.n0 a.n1).recs, r.started = false → (⟨.recordStart, { n0 := a.n0, n1 := a.n1, n2 := r.n }⟩ : Due) ∈ t.agenda) ∧
        ∀ r ∈ (look Saved.empty s.saved key).launches, (⟨.placementRecordArrival, { n0 := r.1, n1 := r.2, n2 := 1 }⟩ : Due) ∈ t.agenda))

/-- R293 to R298: the steps DEBUG_ATTACH, HALT_REQUEST, HALT_TIMEOUT, HALT_RELEASE and DEBUG_STEP: attaching needs debug unlocked; HALT stops a group
whose threads are all held, and after 100 us one that is not; a release lets a group that a halt stopped go on; and STEP begins a step of a halted
context and is ignored while the context is not halted. -/
def Obligations.Debugging : Prop :=
  let alone := fun (s : State) (cid : Nat) (slot : Nat) (g : Group) => (∃ c, s.cores = [(cid, c)] ∧ c.groups = [(slot, g)]) ∧ slot < 15 ∧
    g.exitedWhole = false ∧ contextOf s g = (s.dbg.fn, s.dbg.q)
  (∀ s, let d := s.dbg
    let v := s.args.val
    let fn := (v.extractLsb' 50 6).toNat
    let q := (v.extractLsb' 32 12).toNat
    (d.enabled = false → s.trust.debugUnlocked = false → v.getLsbD 63 = true → exec .debugAttach s = .next s) ∧
    (d.enabled = false → s.trust.debugUnlocked = true → v.getLsbD 63 = true → v.getLsbD 62 = false →
      ∃ t, exec .debugAttach s = .next t ∧ t = { s with dbg := { d with enabled := true, fn := fn, q := q, halt := false, stepping := false } }) ∧
    (d.enabled = true → v.getLsbD 63 = true → v.getLsbD 62 = true → d.halt = false →
      ∃ t, exec .debugAttach s = .next t ∧ t.dbg = { d with halt := true } ∧ t.mem = s.mem ∧ (⟨.haltRequest, {}⟩ : Due) ∈ t.agenda) ∧
    (d.enabled = true → v.getLsbD 63 = false → ∃ t, exec .debugAttach s = .next t ∧ t.dbg.enabled = false ∧ t.dbg.halt = false ∧
      t.dbg.fn = fn ∧ t.dbg.q = q)) ∧
  (∀ s, (s.dbg.enabled = false → exec .haltRequest s = .next s ∧ exec .haltTimeout s = .next s) ∧
    (s.dbg.enabled = true → ∃ t, exec .haltRequest s = .next t ∧ t.dbg.halt = true ∧
      (⟨s.time.toNat + 100000, ⟨.haltTimeout, {}⟩⟩ : Timer) ∈ t.timers)) ∧
  (∀ s cid slot g, s.dbg.enabled = true → alone s cid slot g → g.stop = none → (∀ u, u < 32 → heldThread g u = true ∧ (threadOf g u).region = none) →
    ∃ t h st, exec .haltRequest s = .next t ∧ groupOf t cid slot = some h ∧ h.stop = some st ∧ st.halted = true ∧ st.causes = 4 ∧ h.active = false) ∧
  (∀ s cid slot g, s.dbg.enabled = true → s.dbg.halt = true → alone s cid slot g → g.stop = none → (∀ u, u < 32 → (threadOf g u).region = none) →
    ∃ t h st, exec .haltTimeout s = .next t ∧ groupOf t cid slot = some h ∧ h.stop = some st ∧ st.halted = true ∧ st.ordinal = 0xFFFFFFFE#32) ∧
  (∀ s, ((s.dbg.enabled = false ∨ s.dbg.halt = false) → exec .haltRelease s = .next s) ∧
    (s.dbg.enabled = true → s.dbg.halt = true → ∃ t, exec .haltRelease s = .next t ∧ t.dbg.halt = false ∧ t.dbg.stepping = false ∧
      ∀ y ∈ t.timers, y.due.step ≠ .haltTimeout)) ∧
  (∀ s cid slot g st, s.dbg.enabled = true → s.dbg.halt = true → alone s cid slot g → g.stop = some st → st.halted = true → st.code = 0 →
    st.faults = [] → st.causes = 4 → st.entries = [] → readNat s.mem (st.frame + 24) 4 = 0 → preempting s g = false →
    ∃ t h, exec .haltRelease s = .next t ∧ groupOf t cid slot = some h ∧ h.stop = none ∧
      ∀ u, u < 32 → (threadOf h u).pc.toNat = readNat s.mem (st.frame + 64 + 8 * u) 8) ∧
  (∀ s, (haltedAll s = false → exec .debugStep s = .next s) ∧
    (haltedAll s = true → ∃ t, exec .debugStep s = .next t ∧ t.dbg.stepping = true ∧
      (⟨s.time.toNat + 100000, ⟨.haltTimeout, {}⟩⟩ : Timer) ∈ t.timers))

/-- R247, R248, R380, R491: a tick raises TICK in the event word of every core, or ends the wait of a thread there; granules that have become free go to the
group that asked for them. -/
def Claims.TicksAndGrants : Prop :=
  (∀ s, ∃ t, exec .eventTick s = .next t ∧ t.mem = s.mem ∧ (⟨s.time.toNat + 1000000, ⟨.eventTick, {}⟩⟩ : Timer) ∈ t.timers ∧
    ∀ c, c < 128 * dieCount s →
      ((∀ p ∈ (coreOf s c).groups, ∀ o ∈ p.2.ops, ∀ x d, o.instr ≠ .evwait x d) → (coreOf t c).event = (coreOf s c).event ||| 0x80000#32 ∧
        (coreOf t c).groups = (coreOf s c).groups) ∧
      (∀ slot g o x d, (coreOf s c).groups = [(slot, g)] → g.ops = [o] → o.instr = .evwait x d → (coreOf t c).event = 0#32 ∧
        ∃ h, groupOf t c slot = some h ∧ h.ops = [] ∧ ∀ u, u < 32 → o.todo.getLsbD u = true → d.toNat < 128 →
          regOf h u d.toNat = ⟨(coreOf s c).event ||| 0x80000#32, 12#4⟩)) ∧
  (∀ s slot g o x d n, let c := s.args.n0
    (coreOf s c).groups = [(slot, g)] → slot < 15 → g.exitedWhole = false → g.stop = none → g.ops = [o] → o.instr = .reggrow x d n →
    n.toNat - g.granules ≤ 240 - g.granules →
    ∃ t h, exec .reggrowGrant s = .next t ∧ t.mem = s.mem ∧ groupOf t c slot = some h ∧ h.granules = n.toNat ∧ h.ops = [] ∧
      ∀ u v, u < 32 → v < 128 → regOf h u v = if o.todo.getLsbD u = true ∧ v = d.toNat then ⟨BitVec.ofNat 32 n.toNat, 12#4⟩ else regOf g u v)


/-! ## Statements of several claims -/

/-- The claims above about the integer, logical, shift and 64-bit instructions of registers and literals. -/
def Obligations.IntegerArithmetic : Prop := Claims.IntegerBinary ∧ Claims.IntegerUnary ∧ Claims.Integer64

/-- The claims above about the bit-field and bit-count instructions. -/
def Obligations.BitInstructions : Prop := Claims.BitFields ∧ Claims.BitCounts

/-- The claims above about moves, selects, compares and the indexed moves. -/
def Obligations.MovesAndCompares : Prop := Claims.Moves ∧ Claims.Compares ∧ Claims.IndexedMoves

/-- The claims above about votes, shuffles, matches and the reductions over the group. -/
def Obligations.GroupInstructions : Prop := Claims.VotesAndShuffles ∧ Claims.GroupReductions ∧ Claims.FloatGroupReductions

/-- The claims above about floating-point arithmetic, comparison and classes. -/
def Obligations.FloatInstructions : Prop := Claims.FloatArithmetic ∧ Claims.FloatComparesAndClasses

/-- The claims above about packed halves and the functions with a rounding mode. -/
def Obligations.PackedAndRounded : Prop := Claims.PackedHalves ∧ Claims.RoundedFunctions

/-- The claims above about conversions and the block formats. -/
def Obligations.ConversionInstructions : Prop := Claims.Conversions ∧ Claims.NarrowValuesSurviveFp32 ∧ Claims.BlockPacking

/-- The claims above about branches, calls, system values, NOP, YIELD and EXIT. -/
def Obligations.ControlInstructions : Prop := Claims.ControlTransfer ∧ Claims.SystemValues ∧ Claims.NopYieldExit

/-- The claims above about where an instruction traps in place of its effect. -/
def Obligations.InstructionTraps : Prop := Claims.IssueTraps ∧ Claims.MisalignedTargetTraps ∧ Claims.MisalignedAccessTraps

/-- The claims above about RETT, GRD and GWR. -/
def Obligations.FirmwareInstructions : Prop := Claims.ReturnFromTrap ∧ Claims.RegistersOfStoppedGroups

/-- The claims above about EVWAIT, REGGROW, REGSHRINK and what ends their waits. -/
def Obligations.GrowthAndEvents : Prop := Claims.EventWait ∧ Claims.RegisterGrowth ∧ Claims.TicksAndGrants

/-- The claims above about the global loads, atomics, reductions and stores as they issue. -/
def Obligations.GlobalAccessesIssue : Prop := Claims.GlobalLoadsIssue ∧ Claims.AtomicsIssue ∧ Claims.GlobalStoresIssue

/-- The claims above about the scratchpad loads and stores as they issue. -/
def Obligations.ScratchpadAccessesIssue : Prop := Claims.ScratchpadLoadsIssue ∧ Claims.ScratchpadStores

/-- The claims above about how loads and atomics are performed. -/
def Obligations.LoadsAndAtomicsComplete : Prop := Claims.LoadCompletes ∧ Claims.ScratchLoadCompletes ∧ Claims.AtomicsComplete ∧ Claims.AtomicOperations

/-- The claims above about the steps of walks, rereads, and accesses under a swap or a drain. -/
def Obligations.TranslationSteps : Prop := Claims.WalksAndRereads ∧ Claims.SwappedAndDrainedAccesses

/-- The claims above about the cache hints and the modulo registers. -/
def Obligations.HintsAndModulo : Prop := Claims.HintsComplete ∧ Claims.ModuloRegisters

/-- The claims above about token requests, transient and persistent. -/
def Obligations.TokenMessages : Prop := Claims.TokenTransfers ∧ Claims.PersistentRequests

/-- The claims above about regions: TRY, COMMIT, ABORT and TSTAT. -/
def Obligations.TryAndAbort : Prop := Claims.TryAndCommit ∧ Claims.ExplicitAbort

/-- The claims above about fences and team barriers. -/
def Obligations.FencesAndBarriers : Prop := Claims.Fences ∧ Claims.TeamBarriers

/-- The claims above about tile reservations and the instructions of the matrix engine as they issue. -/
def Obligations.MatrixIssue : Prop := Claims.TileReservations ∧ Claims.MatrixInstructionsEnter

/-- The claims above about the transfer engine. -/
def Obligations.TransferEngine : Prop := Claims.TransferCommandsIssue ∧ Claims.BurstsMoveBytes

/-- The claims above about the builder commands, and the work of builders and compactor. -/
def Obligations.BuildersAndCompactor : Prop := Claims.BuilderCommands ∧ Claims.BuildersWork ∧ Claims.Compaction

/-- The claims above about launches by programs, and placement. -/
def Obligations.LaunchesAndPlacement : Prop := Claims.LaunchAndEmit ∧ Claims.GridsArePlaced

/-- The claims above about continuation pools and the phase table. -/
def Obligations.PoolsAndPhases : Prop := Claims.PoolRecords ∧ Claims.PhaseTables

/-- The claims above about claiming, starting and completing command records. -/
def Obligations.RecordsAndEntries : Prop := Claims.RecordsStart ∧ Claims.CompletionEntries ∧ Claims.ConfigStepsComplete

/-- The claims above about the token and copy commands of a queue. -/
def Obligations.TokensAndCopies : Prop := Claims.QueueTokens ∧ Claims.QueueCopies

/-- The claims above about functions, queues and completion queues. -/
def Obligations.FunctionsAndQueues : Prop := Claims.FunctionsAndSriov ∧ Claims.QueuesComeAndGo

/-- The claims above about completion interrupts, notify registers, mapping and placement registers. -/
def Obligations.InterruptsAndMapping : Prop := Claims.CompletionInterrupts ∧ Claims.NotifyAndMapping

/-- The claims above about firmware slots and owner commands. -/
def Obligations.FirmwareAndOwner : Prop := Claims.FirmwareSlots ∧ Claims.OwnerCommands

/-- The claims above about release, claim and attestation. -/
def Obligations.OwnershipAndAttestation : Prop := Claims.Ownership ∧ Claims.Attestation

/-- The claims above about writes of BAR 0, links, and the accesses that arrive over them. -/
def Obligations.RegistersAndLinks : Prop := Claims.RegisterWrites ∧ Claims.LinksAndArrivals ∧ Claims.DebuggerStepsComplete

/-- The claims above about reset, boot, power and heat. -/
def Obligations.BootPowerAndHeat : Prop := Claims.ResetAndBoot ∧ Claims.PowerAndHeat

end
end

