-- ==== Sys2Proof/Laws/Map.lean ====
section
/-! SUPPORT.  What the sparse tables and memory do: reading after writing, and the canonical form of memory, which every memory operation keeps. -/

namespace Sys2Proof.Machine

/-! ## Tables -/

theorem find_place_self {α : Type} (m : List (Nat × α)) (k : Nat) (v : α) : find? (place m k v) k = some v := by
  induction m with
  | nil => simp [place, find?]
  | cons c r ih =>
    obtain ⟨j, w⟩ := c
    simp only [place]
    split
    · simp [find?]
    · split
      · simp [find?]
      · rename_i h1 h2
        have : (j == k) = false := by simp only [beq_eq_false_iff_ne] at *; simp at h2; omega
        simp [find?, this, ih]

theorem find_place_ne {α : Type} (m : List (Nat × α)) {k j : Nat} (v : α) (h : j ≠ k) : find? (place m k v) j = find? m j := by
  have hk : (k == j) = false := by simp; omega
  induction m with
  | nil => simp [place, find?, hk]
  | cons c r ih =>
    obtain ⟨i, w⟩ := c
    simp only [place]
    split
    · simp [find?, hk]
    · split
      · rename_i h1 h2
        have e : i = k := by simp at h2; omega
        subst e
        simp [find?, hk]
      · simp [find?, ih]

theorem find_erase_self {α : Type} (m : List (Nat × α)) (k : Nat) : find? (erase m k) k = none := by
  induction m with
  | nil => rfl
  | cons c r ih =>
    obtain ⟨j, w⟩ := c
    simp only [erase]
    split
    · exact ih
    · rename_i h
      simp at h
      simp [find?, h, ih]

theorem find_erase_ne {α : Type} (m : List (Nat × α)) {k j : Nat} (h : j ≠ k) : find? (erase m k) j = find? m j := by
  induction m with
  | nil => rfl
  | cons c r ih =>
    obtain ⟨i, w⟩ := c
    simp only [erase]
    split
    · rename_i e
      simp at e
      have : (i == j) = false := by simp; omega
      simp [find?, this, ih]
    · simp [find?, ih]

@[simp] theorem look_place_self {α : Type} (d : α) (m : List (Nat × α)) (k : Nat) (v : α) : look d (place m k v) k = v := by
  simp [look, find_place_self]

theorem look_place_ne {α : Type} (d : α) (m : List (Nat × α)) {k j : Nat} (v : α) (h : j ≠ k) : look d (place m k v) j = look d m j := by
  simp [look, find_place_ne m v h]

@[simp] theorem look_store_self {α : Type} [DecidableEq α] (d : α) (m : List (Nat × α)) (k : Nat) (v : α) : look d (store d m k v) k = v := by
  unfold store
  split
  · rename_i h; simp [look, find_erase_self, h]
  · simp

theorem look_store_ne {α : Type} [DecidableEq α] (d : α) (m : List (Nat × α)) {k j : Nat} (v : α) (h : j ≠ k) :
    look d (store d m k v) j = look d m j := by
  unfold store
  split
  · simp [look, find_erase_ne m h]
  · exact look_place_ne d m v h

/-! ## Rising keys -/

/-- Every key of a table is above a bound. -/
theorem rising_cons {α : Type} (j : Nat) (v : α) (r : List (Nat × α)) :
    rising ((j, v) :: r) = true ↔ (∀ c ∈ r, j < c.1) ∧ rising r = true := by
  induction r generalizing j v with
  | nil => simp [rising]
  | cons c r ih =>
    obtain ⟨k, w⟩ := c
    simp only [rising, Bool.and_eq_true, decide_eq_true_eq]
    constructor
    · rintro ⟨h1, h2⟩
      refine ⟨?_, h2⟩
      intro c hc
      rcases List.mem_cons.mp hc with rfl | hc
      · exact h1
      · exact Nat.lt_trans h1 (((ih k w).mp h2).1 c hc)
    · rintro ⟨h1, h2⟩
      exact ⟨h1 (k, w) (by simp), h2⟩

theorem mem_erase {α : Type} {m : List (Nat × α)} {k : Nat} {c : Nat × α} (h : c ∈ erase m k) : c ∈ m := by
  induction m with
  | nil => simp [erase] at h
  | cons x r ih =>
    obtain ⟨j, w⟩ := x
    simp only [erase] at h
    split at h
    · exact List.mem_cons_of_mem _ (ih h)
    · rcases List.mem_cons.mp h with rfl | h
      · simp
      · exact List.mem_cons_of_mem _ (ih h)

theorem mem_place {α : Type} {m : List (Nat × α)} {k : Nat} {v : α} {c : Nat × α} (h : c ∈ place m k v) : c = (k, v) ∨ c ∈ m := by
  induction m with
  | nil => simpa [place] using h
  | cons x r ih =>
    obtain ⟨j, w⟩ := x
    simp only [place] at h
    split at h
    · rcases List.mem_cons.mp h with rfl | h
      · exact .inl rfl
      · exact .inr h
    · split at h
      · rcases List.mem_cons.mp h with rfl | h
        · exact .inl rfl
        · exact .inr (List.mem_cons_of_mem _ h)
      · rcases List.mem_cons.mp h with rfl | h
        · exact .inr (by simp)
        · rcases ih h with h | h
          · exact .inl h
          · exact .inr (List.mem_cons_of_mem _ h)

theorem rising_erase {α : Type} {m : List (Nat × α)} (k : Nat) (h : rising m = true) : rising (erase m k) = true := by
  induction m with
  | nil => rfl
  | cons c r ih =>
    obtain ⟨j, w⟩ := c
    obtain ⟨h1, h2⟩ := (rising_cons j w r).mp h
    simp only [erase]
    split
    · exact ih h2
    · exact (rising_cons j w _).mpr ⟨fun c hc => h1 c (mem_erase hc), ih h2⟩

theorem rising_place {α : Type} {m : List (Nat × α)} (k : Nat) (v : α) (h : rising m = true) : rising (place m k v) = true := by
  induction m with
  | nil => rfl
  | cons c r ih =>
    obtain ⟨j, w⟩ := c
    obtain ⟨h1, h2⟩ := (rising_cons j w r).mp h
    simp only [place]
    split
    · rename_i hk
      refine (rising_cons k v _).mpr ⟨?_, h⟩
      intro c hc
      rcases List.mem_cons.mp hc with rfl | hc
      · exact hk
      · exact Nat.lt_trans hk (h1 c hc)
    · split
      · rename_i hk
        have : k = j := by simpa using hk
        subst this
        exact (rising_cons k v r).mpr ⟨h1, h2⟩
      · rename_i h3 h4
        refine (rising_cons j w _).mpr ⟨?_, ih h2⟩
        intro c hc
        rcases mem_place hc with rfl | hc
        · simp at h4; simp; omega
        · exact h1 c hc

/-! ## Memory -/

theorem wf_iff (m : Memory) : Memory.wf m = true ↔ rising m = true ∧ ∀ c ∈ m, c.2 ≠ 0#8 := by
  simp [Memory.wf]

theorem wf_nil : Memory.wf [] = true := rfl

theorem wf_writeByte {m : Memory} (a : Nat) (b : Byte) (h : Memory.wf m = true) : Memory.wf (writeByte m a b) = true := by
  obtain ⟨h1, h2⟩ := (wf_iff m).mp h
  refine (wf_iff _).mpr ?_
  unfold writeByte store
  split
  · exact ⟨rising_erase a h1, fun c hc => h2 c (mem_erase hc)⟩
  · rename_i hb
    refine ⟨rising_place a b h1, fun c hc => ?_⟩
    rcases mem_place hc with rfl | hc
    · exact hb
    · exact h2 c hc

theorem wf_writeBytes {m : Memory} (a : Nat) (b : List Byte) (h : Memory.wf m = true) : Memory.wf (writeBytes m a b) = true := by
  induction b generalizing m a with
  | nil => exact h
  | cons x r ih => exact ih (a + 1) (wf_writeByte a x h)

theorem wf_writeNat {m : Memory} (a n v : Nat) (h : Memory.wf m = true) : Memory.wf (writeNat m a n v) = true :=
  wf_writeBytes a _ h

theorem rising_filter {α : Type} {m : List (Nat × α)} (p : Nat × α → Bool) (h : rising m = true) : rising (m.filter p) = true := by
  induction m with
  | nil => rfl
  | cons c r ih =>
    obtain ⟨j, w⟩ := c
    obtain ⟨h1, h2⟩ := (rising_cons j w r).mp h
    simp only [List.filter_cons]
    split
    · exact (rising_cons j w _).mpr ⟨fun c hc => h1 c (List.mem_filter.mp hc).1, ih h2⟩
    · exact ih h2

theorem wf_blank {m : Memory} (a n : Nat) (h : Memory.wf m = true) : Memory.wf (blank m a n) = true := by
  obtain ⟨h1, h2⟩ := (wf_iff m).mp h
  exact (wf_iff _).mpr ⟨rising_filter _ h1, fun c hc => h2 c (List.mem_filter.mp hc).1⟩

@[simp] theorem readByte_writeByte_self (m : Memory) (a : Nat) (b : Byte) : readByte (writeByte m a b) a = b := look_store_self 0#8 m a b

theorem readByte_writeByte_ne (m : Memory) {a c : Nat} (b : Byte) (h : c ≠ a) : readByte (writeByte m a b) c = readByte m c :=
  look_store_ne 0#8 m b h

/-- Writing bytes leaves every byte outside their span alone. -/
theorem readByte_writeBytes_outside (m : Memory) (a : Nat) (b : List Byte) {c : Nat} (h : c < a ∨ a + b.length ≤ c) :
    readByte (writeBytes m a b) c = readByte m c := by
  induction b generalizing m a with
  | nil => rfl
  | cons x r ih =>
    simp only [List.length_cons] at h
    simp only [writeBytes]
    rw [ih _ _ (by omega), readByte_writeByte_ne _ _ (by omega)]

/-- Reading a byte of a span just written gives the byte written. -/
theorem readByte_writeBytes_inside (m : Memory) (a : Nat) (b : List Byte) {k : Nat} (h : k < b.length) :
    readByte (writeBytes m a b) (a + k) = nth 0#8 b k := by
  induction b generalizing m a k with
  | nil => simp at h
  | cons x r ih =>
    simp only [writeBytes]
    cases k with
    | zero =>
      rw [readByte_writeBytes_outside _ _ _ (by omega)]
      simp [nth]
    | succ k =>
      simp only [List.length_cons] at h
      have := ih (writeByte m a x) (a + 1) (k := k) (by omega)
      rw [show a + (k + 1) = a + 1 + k by omega, this]
      simp [nth]

/-- Reading a span just written gives the bytes written. -/
theorem readBytes_writeBytes (m : Memory) (a : Nat) (b : List Byte) : readBytes (writeBytes m a b) a b.length = b := by
  induction b generalizing m a with
  | nil => rfl
  | cons x r ih =>
    simp only [writeBytes, List.length_cons, readBytes, ih]
    rw [readByte_writeBytes_outside _ _ _ (by omega)]
    simp

/-- The little-endian bytes of a number that fits read back as the number. -/
theorem leNat_leBytes (n v : Nat) : leNat (leBytes n v) = v % 256 ^ n := by
  induction n generalizing v with
  | zero => simp [leBytes, leNat, Nat.mod_one]
  | succ n ih =>
    simp only [leBytes, leNat, ih, BitVec.toNat_ofNat]
    have e : 256 ^ (n + 1) = 256 * 256 ^ n := by rw [Nat.pow_succ, Nat.mul_comm]
    rw [e, Nat.mod_mul]

@[simp] theorem length_leBytes (n v : Nat) : (leBytes n v).length = n := by
  induction n generalizing v with
  | zero => rfl
  | succ n ih => simp [leBytes, ih]

/-- A number written to memory reads back. -/
theorem readNat_writeNat (m : Memory) (a n v : Nat) (h : v < 256 ^ n) : readNat (writeNat m a n v) a n = v := by
  have := readBytes_writeBytes m a (leBytes n v)
  rw [length_leBytes] at this
  rw [readNat, writeNat, this, leNat_leBytes, Nat.mod_eq_of_lt h]

/-! ## Lists by index -/

@[simp] theorem length_modNth {α : Type} (l : List α) (i : Nat) (f : α → α) : (modNth l i f).length = l.length := by
  induction l generalizing i with
  | nil => rfl
  | cons x r ih => cases i <;> simp [modNth, ih]

theorem nth_modNth_self {α : Type} (d : α) (l : List α) (i : Nat) (f : α → α) (h : i < l.length) : nth d (modNth l i f) i = f (nth d l i) := by
  induction l generalizing i with
  | nil => simp at h
  | cons x r ih =>
    cases i with
    | zero => simp [modNth, nth]
    | succ i => simpa [modNth, nth] using ih i (by simpa using h)

theorem nth_modNth_ne {α : Type} (d : α) (l : List α) {i j : Nat} (f : α → α) (h : j ≠ i) : nth d (modNth l i f) j = nth d l j := by
  induction l generalizing i j with
  | nil => rfl
  | cons x r ih =>
    cases i with
    | zero =>
      cases j with
      | zero => exact absurd rfl h
      | succ j => simp [modNth, nth]
    | succ i =>
      cases j with
      | zero => simp [modNth, nth]
      | succ j => simpa [modNth, nth] using ih (i := i) (j := j) (by omega)

theorem modNth_of_length_le {α : Type} (l : List α) (i : Nat) (f : α → α) (h : l.length ≤ i) : modNth l i f = l := by
  induction l generalizing i with
  | nil => rfl
  | cons x r ih =>
    cases i with
    | zero => simp at h
    | succ i => simp [modNth, ih i (by simpa using h)]

/-! ## Lane sets -/

theorem mem_lanesOf (e : Lanes) (t : Nat) : t ∈ lanesOf e ↔ t < 32 ∧ e.getLsbD t = true := by
  simp [lanesOf]

theorem lanesOf_zero : lanesOf 0#32 = [] := by decide

theorem laneSet_nil : laneSet [] = 0#32 := rfl

theorem nodup_lanesOf (e : Lanes) : (lanesOf e).Nodup := List.Nodup.sublist List.filter_sublist List.nodup_range

end Sys2Proof.Machine
end

