-- ==== Sys2Proof/Laws/Ops.lean ====
section
/-! SUPPORT.  What the shared operations over groups, threads and registers do: one lemma each for reading after writing, for the checks of an
instruction that nothing stops, and for an instruction that computes registers from registers. -/

namespace Sys2Proof.Machine

/-! ## Lane sets -/

theorem getLsbD_laneSet (l : List Nat) (t : Nat) : (laneSet l).getLsbD t = (decide (t < 32) && l.contains t) := by
  have key : ∀ (l : List Nat) (e : Lanes),
      (l.foldl (fun e t => e ||| (1#32 <<< t)) e).getLsbD t = (e.getLsbD t || (decide (t < 32) && l.contains t)) := by
    intro l
    induction l with
    | nil => intro e; simp
    | cons x r ih =>
      intro e
      rw [List.foldl_cons, ih]
      rcases Nat.lt_or_ge t 32 with h | h
      · by_cases hx : t = x
        · subst hx; simp [h]
        · have hd : t < x ∨ x < t := by omega
          rcases hd with hd | hd
          · simp [h, hd, hx]
          · have h0 : ¬ (t - x = 0) := by omega
            simp [h, hx, h0]
      · have hf : ¬ t < 32 := by omega
        simp [hf, BitVec.getLsbD_of_ge _ t h]
  simpa [laneSet] using key l 0#32

theorem laneSet_lanesOf (e : Lanes) : laneSet (lanesOf e) = e := by
  apply BitVec.eq_of_getLsbD_eq
  intro t ht
  rw [getLsbD_laneSet]
  by_cases h : e.getLsbD t = true
  · have : t ∈ lanesOf e := (mem_lanesOf e t).mpr ⟨ht, h⟩
    simp [ht, h, this]
  · have : ¬ t ∈ lanesOf e := fun hm => h ((mem_lanesOf e t).mp hm).2
    simp [h, this]

theorem regionLanes_zero (g : Group) : regionLanes g 0#32 = 0#32 := by simp [regionLanes, lanesOf_zero, laneSet_nil]

@[simp] theorem abortLanes_zero (s : State) (cid slot code detail : Nat) (extra : Dword) :
    abortLanes s cid slot 0#32 code detail extra = s := by simp [abortLanes, lanesOf_zero]

/-! ## Cores and groups -/

@[simp] theorem coreOf_modCore_self (s : State) (cid : Nat) (f : Core → Core) : coreOf (modCore s cid f) cid = f (coreOf s cid) := by
  simp [coreOf, modCore]

theorem coreOf_modCore_ne (s : State) {cid c : Nat} (f : Core → Core) (h : c ≠ cid) : coreOf (modCore s cid f) c = coreOf s c := by
  simp [coreOf, modCore, look_place_ne _ _ _ h]

@[simp] theorem groupOf_setGroup_self (s : State) (cid slot : Nat) (g : Group) : groupOf (setGroup s cid slot g) cid slot = some g := by
  simp [groupOf, setGroup, find_place_self]

theorem groupOf_setGroup_slot (s : State) (cid : Nat) {slot sl : Nat} (g : Group) (h : sl ≠ slot) :
    groupOf (setGroup s cid slot g) cid sl = groupOf s cid sl := by
  simp [groupOf, setGroup, find_place_ne _ _ h]

theorem groupOf_setGroup_core (s : State) {cid c : Nat} (slot sl : Nat) (g : Group) (h : c ≠ cid) :
    groupOf (setGroup s cid slot g) c sl = groupOf s c sl := by
  simp [groupOf, setGroup, coreOf_modCore_ne _ _ h]

theorem modGroup_eq (s : State) (cid slot : Nat) (f : Group → Group) {g : Group} (h : groupOf s cid slot = some g) :
    modGroup s cid slot f = setGroup s cid slot (f g) := by
  simp [modGroup, h]

/-! ## Threads -/

@[simp] theorem modThread_regs (g : Group) (t : Nat) (f : Thread → Thread) : (modThread g t f).regs = g.regs := rfl

@[simp] theorem length_modThread (g : Group) (t : Nat) (f : Thread → Thread) : (modThread g t f).threads.length = g.threads.length := by
  simp [modThread]

theorem threadOf_modThread_self (g : Group) (t : Nat) (f : Thread → Thread) (h : t < g.threads.length) :
    threadOf (modThread g t f) t = f (threadOf g t) := nth_modNth_self _ _ _ _ h

theorem threadOf_modThread_ne (g : Group) {t u : Nat} (f : Thread → Thread) (h : u ≠ t) : threadOf (modThread g t f) u = threadOf g u :=
  nth_modNth_ne _ _ _ h

@[simp] theorem regOf_modThread (g : Group) (t u v : Nat) (f : Thread → Thread) : regOf (modThread g t f) u v = regOf g u v := rfl

/-! ## Registers -/

@[simp] theorem setReg_threads (g : Group) (t v : Nat) (r : Reg) : (setReg g t v r).threads = g.threads := rfl

@[simp] theorem regOf_setReg_self (g : Group) (t v : Nat) (r : Reg) : regOf (setReg g t v r) t v = r := by simp [regOf, setReg]

theorem regOf_setReg_ne (g : Group) {t v u w : Nat} (r : Reg) (h : 128 * u + w ≠ 128 * t + v) : regOf (setReg g t v r) u w = regOf g u w :=
  look_store_ne _ _ _ h

/-- A register write is the plain write, after the region of the thread, if it is in one, has logged the old value (R442). -/
theorem writeReg_eq (g : Group) (t v : Nat) (r : Reg) :
    writeReg g t v r = setReg g t v r ∨
      ((threadOf g t).region ≠ none ∧ ∃ x, writeReg g t v r = setReg (modThread g t fun th => { th with region := x }) t v r) := by
  unfold writeReg
  dsimp only
  split
  · exact .inl rfl
  · rename_i rg h
    split
    · exact .inl rfl
    · exact .inr ⟨by simp [h], _, rfl⟩

/-- A thread in a region is one of the group's. -/
theorem lt_of_region {g : Group} {t : Nat} (h : (threadOf g t).region ≠ none) : t < g.threads.length := by
  rcases Nat.lt_or_ge t g.threads.length with hl | hl
  · exact hl
  · exact absurd (by simp [threadOf, nth, List.getElem?_eq_none hl, Thread.start]) h

theorem regOf_setReg (g : Group) (t v : Nat) (r : Reg) (u w : Nat) :
    regOf (setReg g t v r) u w = if 128 * u + w = 128 * t + v then r else regOf g u w := by
  split
  · rename_i h
    simp only [regOf, setReg, h]
    exact look_store_self _ _ _ _
  · rename_i h
    exact regOf_setReg_ne g r h

/-- A register write changes one register, whether or not the thread is in a region (R442). -/
theorem regOf_writeReg (g : Group) (t v : Nat) (r : Reg) (u w : Nat) :
    regOf (writeReg g t v r) u w = if 128 * u + w = 128 * t + v then r else regOf g u w := by
  rcases writeReg_eq g t v r with h | ⟨-, x, h⟩ <;> rw [h, regOf_setReg] <;> rfl

theorem threadOf_writeReg_ne (g : Group) {t u : Nat} (v : Nat) (r : Reg) (h : u ≠ t) : threadOf (writeReg g t v r) u = threadOf g u := by
  rcases writeReg_eq g t v r with e | ⟨-, x, e⟩
  · rw [e]; rfl
  · rw [e]; exact threadOf_modThread_ne g _ h

/-- What a register write leaves of a thread: all but the region's log. -/
theorem threadOf_writeReg (g : Group) (t v : Nat) (r : Reg) (u : Nat) :
    ∃ x, threadOf (writeReg g t v r) u = { threadOf g u with region := x } := by
  by_cases hu : u = t
  · subst hu
    rcases writeReg_eq g u v r with e | ⟨hr, x, e⟩
    · exact ⟨(threadOf g u).region, by rw [e]; rfl⟩
    · refine ⟨x, ?_⟩
      rw [e]
      exact threadOf_modThread_self g u _ (lt_of_region hr)
  · exact ⟨(threadOf g u).region, by rw [threadOf_writeReg_ne g v r hu]⟩

@[simp] theorem length_writeReg (g : Group) (t v : Nat) (r : Reg) : (writeReg g t v r).threads.length = g.threads.length := by
  rcases writeReg_eq g t v r with e | ⟨-, x, e⟩ <;> rw [e] <;> simp

/-- A register write changes registers and threads and nothing else of a group. -/
theorem writeReg_frame (g : Group) (t v : Nat) (r : Reg) :
    writeReg g t v r = { g with regs := (writeReg g t v r).regs, threads := (writeReg g t v r).threads } := by
  rcases writeReg_eq g t v r with e | ⟨-, x, e⟩ <;> rw [e] <;> rfl

/-! ## Sets of writes -/

/-- What one step of an update may do to a group: registers and threads change, threads only in PC, clause and region. -/
def Touched (g h : Group) : Prop :=
  h = { g with regs := h.regs, threads := h.threads } ∧ h.threads.length = g.threads.length ∧
  ∀ t, ∃ pc cl x, threadOf h t = { threadOf g t with pc := pc, clause := cl, region := x }

theorem Touched.refl (g : Group) : Touched g g := ⟨rfl, rfl, fun _ => ⟨_, _, _, rfl⟩⟩

theorem Touched.trans {g h k : Group} (a : Touched g h) (b : Touched h k) : Touched g k := by
  obtain ⟨a1, a2, a3⟩ := a
  obtain ⟨b1, b2, b3⟩ := b
  refine ⟨?_, b2.trans a2, fun t => ?_⟩
  · rw [b1, a1]
  · obtain ⟨p, c, x, e⟩ := a3 t
    obtain ⟨p', c', x', e'⟩ := b3 t
    exact ⟨p', c', x', by rw [e', e]⟩

theorem touched_writeReg (g : Group) (t v : Nat) (r : Reg) : Touched g (writeReg g t v r) :=
  ⟨writeReg_frame g t v r, by simp, fun u => by
    obtain ⟨x, e⟩ := threadOf_writeReg g t v r u
    exact ⟨_, _, x, e⟩⟩

/-- The writes of one lane. -/
def laneWrites (g : Group) (t : Nat) (w : List (Nat × Reg)) : Group := w.foldl (fun h x => writeReg h t x.1 x.2) g

theorem touched_laneWrites (g : Group) (t : Nat) (w : List (Nat × Reg)) : Touched g (laneWrites g t w) := by
  induction w generalizing g with
  | nil => exact Touched.refl g
  | cons x r ih => exact (touched_writeReg g t x.1 x.2).trans (ih (writeReg g t x.1 x.2))

theorem threadOf_laneWrites_ne (g : Group) {t u : Nat} (w : List (Nat × Reg)) (h : u ≠ t) : threadOf (laneWrites g t w) u = threadOf g u := by
  induction w generalizing g with
  | nil => rfl
  | cons x r ih =>
    simp only [laneWrites, List.foldl_cons]
    exact (ih (writeReg g t x.1 x.2)).trans (threadOf_writeReg_ne g x.1 x.2 h)

theorem pc_laneWrites (g : Group) (t u : Nat) (w : List (Nat × Reg)) : (threadOf (laneWrites g t w) u).pc = (threadOf g u).pc := by
  induction w generalizing g with
  | nil => rfl
  | cons x r ih =>
    simp only [laneWrites, List.foldl_cons]
    refine (ih (writeReg g t x.1 x.2)).trans ?_
    obtain ⟨y, e⟩ := threadOf_writeReg g t x.1 x.2 u
    rw [e]

theorem regOf_laneWrites (g : Group) (t : Nat) (w : List (Nat × Reg)) (u v : Nat) (hv : v < 128) (hw : ∀ x ∈ w, x.1 < 128) :
    regOf (laneWrites g t w) u v = if u = t then written w v (regOf g t v) else regOf g u v := by
  induction w generalizing g with
  | nil => split <;> simp_all [laneWrites, written]
  | cons x r ih =>
    have hx : x.1 < 128 := hw x (by simp)
    simp only [laneWrites, List.foldl_cons]
    refine (ih (writeReg g t x.1 x.2) (fun y hy => hw y (by simp [hy]))).trans ?_
    split
    · rename_i h
      simp only [written, List.foldl_cons, regOf_writeReg]
      by_cases e : x.1 = v
      · simp [e]
      · have hne : ¬ v = x.1 := fun hc => e hc.symm
        simp [e, hne]
    · rename_i h
      rw [regOf_writeReg]
      have : ¬ (128 * u + v = 128 * t + x.1) := by omega
      simp [this]

/-- The writes of several lanes, each from `f`. -/
def lanesWrites (g : Group) (l : List Nat) (f : Nat → List (Nat × Reg)) : Group := l.foldl (fun h t => laneWrites h t (f t)) g

theorem touched_lanesWrites (g : Group) (l : List Nat) (f : Nat → List (Nat × Reg)) : Touched g (lanesWrites g l f) := by
  induction l generalizing g with
  | nil => exact Touched.refl g
  | cons t r ih => exact (touched_laneWrites g t (f t)).trans (ih (laneWrites g t (f t)))

theorem pc_lanesWrites (g : Group) (l : List Nat) (f : Nat → List (Nat × Reg)) (u : Nat) :
    (threadOf (lanesWrites g l f) u).pc = (threadOf g u).pc := by
  induction l generalizing g with
  | nil => rfl
  | cons t r ih => exact (ih (laneWrites g t (f t))).trans (pc_laneWrites g t u (f t))

theorem threadOf_lanesWrites_ne (g : Group) (l : List Nat) (f : Nat → List (Nat × Reg)) {u : Nat} (h : u ∉ l) :
    threadOf (lanesWrites g l f) u = threadOf g u := by
  induction l generalizing g with
  | nil => rfl
  | cons t r ih =>
    simp only [List.mem_cons, not_or] at h
    exact (ih (laneWrites g t (f t)) h.2).trans (threadOf_laneWrites_ne g (f t) h.1)

theorem regOf_lanesWrites (g : Group) (l : List Nat) (f : Nat → List (Nat × Reg)) (u v : Nat) (hv : v < 128) (hd : l.Nodup)
    (hw : ∀ t ∈ l, ∀ x ∈ f t, x.1 < 128) :
    regOf (lanesWrites g l f) u v = if u ∈ l then written (f u) v (regOf g u v) else regOf g u v := by
  induction l generalizing g with
  | nil => simp [lanesWrites]
  | cons t r ih =>
    have hd' := List.nodup_cons.mp hd
    simp only [lanesWrites, List.foldl_cons]
    refine (ih (laneWrites g t (f t)) hd'.2 (fun y hy => hw y (by simp [hy]))).trans ?_
    rw [regOf_laneWrites g t (f t) u v hv (hw t (by simp))]
    by_cases h : u = t
    · subst h
      simp [hd'.1]
    · simp [h]

/-! ## Advancing -/

/-- Moving the PCs of lanes. -/
theorem advance_spec (iss : Issue) (n : Nat) (e : Lanes) (g : Group) :
    Touched g (advance iss n e g) ∧ (advance iss n e g).regs = g.regs ∧
    (∀ t, t < g.threads.length →
      ((t < 32 ∧ e.getLsbD t = true) → (threadOf (advance iss n e g) t).pc =
        if iss.replay then (threadOf g t).pc else iss.pc + BitVec.ofNat 64 (4 * n)) ∧
      (¬ (t < 32 ∧ e.getLsbD t = true) → threadOf (advance iss n e g) t = threadOf g t)) := by
  unfold advance
  split
  · rename_i h
    exact ⟨Touched.refl g, rfl, fun t _ => ⟨fun _ => by simp, fun _ => rfl⟩⟩
  · rename_i h
    have key : ∀ (l : List Nat) (g : Group), l.Nodup →
        let k := l.foldl (fun g t => modThread g t fun th =>
          { th with pc := iss.pc + BitVec.ofNat 64 (4 * n), clause := if iss.last then none else some (iss.header, iss.headerWord) }) g
        Touched g k ∧ k.regs = g.regs ∧
        (∀ t, t < g.threads.length →
          (t ∈ l → (threadOf k t).pc = iss.pc + BitVec.ofNat 64 (4 * n)) ∧ (t ∉ l → threadOf k t = threadOf g t)) := by
      intro l
      induction l with
      | nil => intro g _; exact ⟨Touched.refl g, rfl, fun t _ => ⟨by simp, fun _ => rfl⟩⟩
      | cons x r ih =>
        intro g hd
        have hd' := List.nodup_cons.mp hd
        obtain ⟨k1, k2, k3⟩ := ih (modThread g x fun th =>
          { th with pc := iss.pc + BitVec.ofNat 64 (4 * n), clause := if iss.last then none else some (iss.header, iss.headerWord) }) hd'.2
        refine ⟨Touched.trans ⟨rfl, by simp, fun t => ?_⟩ k1, k2, fun t ht => ⟨fun hm => ?_, fun hm => ?_⟩⟩
        · by_cases e : t = x
          · subst e
            by_cases hl : t < g.threads.length
            · exact ⟨_, _, _, threadOf_modThread_self g t _ hl⟩
            · refine ⟨_, _, _, (?_ : threadOf _ t = threadOf g t)⟩
              simp only [threadOf, modThread, modNth_of_length_le _ _ _ (Nat.le_of_not_lt hl)]
          · exact ⟨_, _, _, threadOf_modThread_ne g _ e⟩
        · by_cases hx : t ∈ r
          · exact (k3 t (by simpa using ht)).1 hx
          · have e : t = x := by simpa [hx] using hm
            subst e
            rw [List.foldl_cons, (k3 t (by simpa using ht)).2 hx, threadOf_modThread_self g t _ ht]
        · simp only [List.mem_cons, not_or] at hm
          rw [List.foldl_cons, (k3 t (by simpa using ht)).2 hm.2, threadOf_modThread_ne g _ hm.1]
    obtain ⟨k1, k2, k3⟩ := key (lanesOf e) g (nodup_lanesOf e)
    refine ⟨k1, k2, fun t ht => ⟨fun hm => ?_, fun hm => ?_⟩⟩
    · exact (k3 t ht).1 ((mem_lanesOf e t).mpr hm)
    · exact (k3 t ht).2 fun hc => hm ((mem_lanesOf e t).mp hc)

/-! ## The checks of an instruction that nothing stops -/

theorem issGroup_setGroup (s : State) (g : Group) : issGroup (setGroup s s.iss.cid s.iss.slot g) = some g :=
  groupOf_setGroup_self s s.iss.cid s.iss.slot g

theorem stillThere_ready {i : Instr} {s : State} {g : Group} (r : Ready i s g) : stillThere s s.iss.lanes = s.iss.lanes := by
  unfold stillThere
  split
  · rfl
  · rename_i hr
    have ht : ∀ t, s.iss.lanes.getLsbD t = true → (threadOf g t).pc = s.iss.pc := by
      rcases r.there with h | h
      · exact absurd h hr
      · exact h
    simp only [r.group, r.running, Option.isSome_none, Bool.false_eq_true, if_false]
    have e : (lanesOf s.iss.lanes).filter (fun t => decide ((threadOf g t).pc = s.iss.pc)) = lanesOf s.iss.lanes := by
      apply List.filter_eq_self.mpr
      intro t hm
      simp [ht t ((mem_lanesOf _ t).mp hm).2]
    rw [e, laneSet_lanesOf]

theorem staticTrap_ready {i : Instr} {s : State} {g : Group} (r : Ready i s g) : staticTrap s g i = none := by
  unfold staticTrap
  have h1 : (privileged i && !g.supervisor) = false := by
    cases h : privileged i
    · rfl
    · simp [r.mode h]
  have h2 : (needsRays i && !hasRays s) = false := by
    cases h : needsRays i
    · rfl
    · simp [hasRays, r.units h]
  have h3 : ((namedRegs i).any fun v => decide (regBound g ≤ v)) = false := by
    rw [List.any_eq_false]
    intro v hv
    have := r.bound v hv
    have hd : decide (regBound g ≤ v) = false := decide_eq_false (by unfold regBound; omega)
    simp [hd]
  simp [h1, h2, h3]

/-- The checks let every lane of E go on, and change nothing. -/
theorem screen_ready {i : Instr} {s : State} {g : Group} (r : Ready i s g) : screen i s g = (s, s.iss.lanes) := by
  have hb : (if forbidden i then regionLanes g s.iss.lanes else 0#32) = 0#32 := by
    split
    · rename_i h; exact r.allowed h
    · rfl
  unfold screen screenWith
  simp only [hb, abortLanes_zero]
  have hn : s.iss.lanes &&& ~~~(0#32) = s.iss.lanes := by
    rw [show ~~~(0#32) = BitVec.allOnes 32 by decide, BitVec.and_allOnes]
  simp only [hn, stillThere_ready r, r.lanes, if_false, staticTrap_ready r, r.room, abortLanes_zero]

theorem issueOn_ready {i : Instr} {s : State} {g : Group} (r : Ready i s g) (k : State → Lanes → State) :
    issueOn i s k = .next (k s s.iss.lanes) := by
  unfold issueOn
  simp only [r.group, screen_ready r, r.lanes, if_false]

/-- Writing registers back from a group, and moving on (R365). -/
theorem writeBack_spec (iss : Issue) (n : Nat) (e : Lanes) (f : Group → Nat → List (Nat × Reg)) (g : Group) (hl : g.threads.length = 32)
    (hw : ∀ t, t < 32 → e.getLsbD t = true → ∀ x ∈ f g t, x.1 < 128) :
    let h := writeBack iss n e f g
    OnlyRegs g h ∧
    (∀ t v, t < 32 → v < 128 → regOf h t v = if e.getLsbD t = true then written (f g t) v (regOf g t v) else regOf g t v) ∧
    (∀ t, t < 32 → (e.getLsbD t = true → (threadOf h t).pc = if iss.replay then (threadOf g t).pc else iss.pc + BitVec.ofNat 64 (4 * n)) ∧
      (¬ e.getLsbD t = true → threadOf h t = threadOf g t)) := by
  intro h
  have hN : ∃ sp, noteSpec e g = { g with specIssues := sp } := by
    unfold noteSpec; split <;> exact ⟨_, rfl⟩
  obtain ⟨sp, hN⟩ := hN
  let g0 : Group := { g with specIssues := sp }
  let g1 := lanesWrites g0 (lanesOf e) (f g)
  have hh : h = advance iss n e g1 := by
    show advance iss n e ((lanesOf e).foldl (fun h t => (f g t).foldl (fun h w => writeReg h t w.1 w.2) h) (noteSpec e g)) = _
    rw [hN]
    rfl
  obtain ⟨a1, a2, a3⟩ := advance_spec iss n e g1
  have t1 : Touched g0 g1 := touched_lanesWrites g0 (lanesOf e) (f g)
  have len : g1.threads.length = 32 := t1.2.1.trans hl
  have t2 : Touched g0 h := hh ▸ t1.trans a1
  refine ⟨⟨?_, t2.2.1, fun t => ?_⟩, fun t v ht hv => ?_, fun t ht => ⟨fun hm => ?_, fun hm => ?_⟩⟩
  · have e1 := t2.1
    have e2 : h.specIssues = sp := by rw [e1]
    rw [e2]
    exact e1
  · obtain ⟨p, c, x, e1⟩ := t2.2.2 t
    have e2 : threadOf h t = { threadOf g t with pc := p, clause := c, region := x } := e1
    rw [e2]
  · have e1 : regOf h t v = regOf g1 t v := by rw [hh]; simp only [regOf, a2]
    rw [e1]
    have := regOf_lanesWrites g0 (lanesOf e) (f g) t v hv (nodup_lanesOf e)
      (fun u hu x hx => hw u ((mem_lanesOf e u).mp hu).1 ((mem_lanesOf e u).mp hu).2 x hx)
    rw [show g1 = lanesWrites g0 (lanesOf e) (f g) from rfl, this]
    by_cases hb : e.getLsbD t = true
    · simp only [(mem_lanesOf e t).mpr ⟨ht, hb⟩, hb, if_true]; rfl
    · have : t ∉ lanesOf e := fun hc => hb ((mem_lanesOf e t).mp hc).2
      simp only [this, hb, if_false]; rfl
  · rw [hh, (a3 t (by omega)).1 ⟨ht, hm⟩, pc_lanesWrites]; rfl
  · rw [hh, (a3 t (by omega)).2 (by simp [hm]), threadOf_lanesWrites_ne _ _ _ (fun hc => hm ((mem_lanesOf e t).mp hc).2)]; rfl

/-- An update of the issuing group is an update of that group alone. -/
theorem onGroup_ready {i : Instr} {s : State} {g : Group} (r : Ready i s g) (f : Group → Group) : onGroup s f = withGroup s (f g) :=
  modGroup_eq s _ _ f r.group

/-- An instruction whose results depend on E and the group completes with them. -/
theorem computeOver_ready {i : Instr} {s : State} {g : Group} (r : Ready i s g) (f : Lanes → Group → Nat → List (Nat × Reg))
    (hw : ∀ t, Active s t → ∀ x ∈ f s.iss.lanes g t, x.1 < 128) :
    ∃ h, issueOn i s (fun s e => onGroup s (writeBack s.iss (lengthOf i) e (f e))) = .next (withGroup s h) ∧ OnlyRegs g h ∧
      RegsFrom s g h (f s.iss.lanes g) ∧ PcsPast s g h (lengthOf i) := by
  refine ⟨writeBack s.iss (lengthOf i) s.iss.lanes (f s.iss.lanes) g, ?_, ?_⟩
  · rw [issueOn_ready r, onGroup_ready r]
  · obtain ⟨w1, w2, w3⟩ := writeBack_spec s.iss (lengthOf i) s.iss.lanes (f s.iss.lanes) g r.threads (fun t ht hb => hw t ⟨ht, hb⟩)
    refine ⟨w1, fun t v ht hv => ⟨fun ha => ?_, fun ha => ?_⟩, fun t ht => ⟨fun ha => (w3 t ht).1 ha.2, fun ha => (w3 t ht).2 fun hb => ha ⟨ht, hb⟩⟩⟩
    · rw [w2 t v ht hv]; simp only [ha.2, if_true]
    · rw [w2 t v ht hv]
      have : ¬ s.iss.lanes.getLsbD t = true := fun hb => ha ⟨ht, hb⟩
      simp only [this]; rfl

/-- An instruction that computes registers from registers completes with them. -/
theorem compute_ready {i : Instr} {s : State} {g : Group} (r : Ready i s g) (f : Group → Nat → List (Nat × Reg))
    (hw : ∀ t, Active s t → ∀ x ∈ f g t, x.1 < 128) :
    ∃ h, compute i s f = .next (withGroup s h) ∧ OnlyRegs g h ∧ RegsFrom s g h (f g) ∧ PcsPast s g h (lengthOf i) :=
  computeOver_ready r (fun _ => f) hw

end Sys2Proof.Machine
end

