-- ==== Sys2Proof/Laws/PerInstr.lean ====
section
/-! SUPPORT.  One lemma per instruction: how many words it takes, what its meaning is, and which operands it names.  They are true by computation,
so that no proof unfolds the tables of the encoder, of the dispatcher or of the operands. -/

namespace Sys2Proof.Laws.Length

/-- An instruction takes at most two words (R333, R342). -/
def Statement (i : Instr) : Prop := (encode i).length ≤ 2

theorem movB32 (x : Bool) (d a : RegIx) : Statement (.movB32 x d a) := by show 1 ≤ 2; decide
theorem movB32Lit (x : Bool) (d : RegIx) (lit : Word) : Statement (.movB32Lit x d lit) := by show 2 ≤ 2; decide
theorem movB64 (x : Bool) (d a : RegIx) : Statement (.movB64 x d a) := by show 1 ≤ 2; decide
theorem movS64Lit (x : Bool) (d : RegIx) (lit : Word) : Statement (.movS64Lit x d lit) := by show 2 ≤ 2; decide
theorem iaddS32 (x : Bool) (d a b : RegIx) : Statement (.iaddS32 x d a b) := by show 1 ≤ 2; decide
theorem iaddS32Imm (x : Bool) (d a : RegIx) (i : BitVec 7) : Statement (.iaddS32Imm x d a i) := by show 1 ≤ 2; decide
theorem iaddS32Lit (x : Bool) (d a : RegIx) (lit : Word) : Statement (.iaddS32Lit x d a lit) := by show 2 ≤ 2; decide
theorem isubS32 (x : Bool) (d a b : RegIx) : Statement (.isubS32 x d a b) := by show 1 ≤ 2; decide
theorem imulS32 (x : Bool) (d a b : RegIx) : Statement (.imulS32 x d a b) := by show 1 ≤ 2; decide
theorem imulS32Lit (x : Bool) (d a : RegIx) (lit : Word) : Statement (.imulS32Lit x d a lit) := by show 2 ≤ 2; decide
theorem imulhiS32 (x : Bool) (d a b : RegIx) : Statement (.imulhiS32 x d a b) := by show 1 ≤ 2; decide
theorem imulhiN32 (x : Bool) (d a b : RegIx) : Statement (.imulhiN32 x d a b) := by show 1 ≤ 2; decide
theorem imadS32 (x : Bool) (d a b : RegIx) : Statement (.imadS32 x d a b) := by show 1 ≤ 2; decide
theorem iaddS32Sat (x : Bool) (d a b : RegIx) : Statement (.iaddS32Sat x d a b) := by show 1 ≤ 2; decide
theorem isubS32Sat (x : Bool) (d a b : RegIx) : Statement (.isubS32Sat x d a b) := by show 1 ≤ 2; decide
theorem inegS32 (x : Bool) (d a : RegIx) : Statement (.inegS32 x d a) := by show 1 ≤ 2; decide
theorem iminS32 (x : Bool) (d a b : RegIx) : Statement (.iminS32 x d a b) := by show 1 ≤ 2; decide
theorem iminN32 (x : Bool) (d a b : RegIx) : Statement (.iminN32 x d a b) := by show 1 ≤ 2; decide
theorem imaxS32 (x : Bool) (d a b : RegIx) : Statement (.imaxS32 x d a b) := by show 1 ≤ 2; decide
theorem imaxN32 (x : Bool) (d a b : RegIx) : Statement (.imaxN32 x d a b) := by show 1 ≤ 2; decide
theorem iabsS32 (x : Bool) (d a : RegIx) : Statement (.iabsS32 x d a) := by show 1 ≤ 2; decide
theorem andB32 (x : Bool) (d a b : RegIx) : Statement (.andB32 x d a b) := by show 1 ≤ 2; decide
theorem andB32Lit (x : Bool) (d a : RegIx) (lit : Word) : Statement (.andB32Lit x d a lit) := by show 2 ≤ 2; decide
theorem orB32 (x : Bool) (d a b : RegIx) : Statement (.orB32 x d a b) := by show 1 ≤ 2; decide
theorem orB32Lit (x : Bool) (d a : RegIx) (lit : Word) : Statement (.orB32Lit x d a lit) := by show 2 ≤ 2; decide
theorem xorB32 (x : Bool) (d a b : RegIx) : Statement (.xorB32 x d a b) := by show 1 ≤ 2; decide
theorem xorB32Lit (x : Bool) (d a : RegIx) (lit : Word) : Statement (.xorB32Lit x d a lit) := by show 2 ≤ 2; decide
theorem andnB32 (x : Bool) (d a b : RegIx) : Statement (.andnB32 x d a b) := by show 1 ≤ 2; decide
theorem notB32 (x : Bool) (d a : RegIx) : Statement (.notB32 x d a) := by show 1 ≤ 2; decide
theorem shlB32 (x : Bool) (d a b : RegIx) : Statement (.shlB32 x d a b) := by show 1 ≤ 2; decide
theorem shlB32Imm (x : Bool) (d a : RegIx) (i : BitVec 7) : Statement (.shlB32Imm x d a i) := by show 1 ≤ 2; decide
theorem shrN32 (x : Bool) (d a b : RegIx) : Statement (.shrN32 x d a b) := by show 1 ≤ 2; decide
theorem shrN32Imm (x : Bool) (d a : RegIx) (i : BitVec 7) : Statement (.shrN32Imm x d a i) := by show 1 ≤ 2; decide
theorem shrS32 (x : Bool) (d a b : RegIx) : Statement (.shrS32 x d a b) := by show 1 ≤ 2; decide
theorem shrS32Imm (x : Bool) (d a : RegIx) (i : BitVec 7) : Statement (.shrS32Imm x d a i) := by show 1 ≤ 2; decide
theorem bfxN32 (x : Bool) (d a : RegIx) (lit : Word) : Statement (.bfxN32 x d a lit) := by show 2 ≤ 2; decide
theorem bfxS32 (x : Bool) (d a : RegIx) (lit : Word) : Statement (.bfxS32 x d a lit) := by show 2 ≤ 2; decide
theorem bfiB32 (x : Bool) (d a : RegIx) (lit : Word) : Statement (.bfiB32 x d a lit) := by show 2 ≤ 2; decide
theorem popcB32 (x : Bool) (d a : RegIx) : Statement (.popcB32 x d a) := by show 1 ≤ 2; decide
theorem clzB32 (x : Bool) (d a : RegIx) : Statement (.clzB32 x d a) := by show 1 ≤ 2; decide
theorem brevB32 (x : Bool) (d a : RegIx) : Statement (.brevB32 x d a) := by show 1 ≤ 2; decide
theorem iaddS64 (x : Bool) (d a b : RegIx) : Statement (.iaddS64 x d a b) := by show 1 ≤ 2; decide
theorem iaddS64Lit (x : Bool) (d a : RegIx) (lit : Word) : Statement (.iaddS64Lit x d a lit) := by show 2 ≤ 2; decide
theorem isubS64 (x : Bool) (d a b : RegIx) : Statement (.isubS64 x d a b) := by show 1 ≤ 2; decide
theorem leaS32 (x : Bool) (d a b : RegIx) (lit : Word) : Statement (.leaS32 x d a b lit) := by show 2 ≤ 2; decide
theorem leaN32 (x : Bool) (d a b : RegIx) (lit : Word) : Statement (.leaN32 x d a b lit) := by show 2 ≤ 2; decide
theorem shlB64 (x : Bool) (d a : RegIx) (i : BitVec 7) : Statement (.shlB64 x d a i) := by show 1 ≤ 2; decide
theorem shrN64 (x : Bool) (d a : RegIx) (i : BitVec 7) : Statement (.shrN64 x d a i) := by show 1 ≤ 2; decide
theorem shrS64 (x : Bool) (d a : RegIx) (i : BitVec 7) : Statement (.shrS64 x d a i) := by show 1 ≤ 2; decide
theorem imulwS32 (x : Bool) (d a b : RegIx) : Statement (.imulwS32 x d a b) := by show 1 ≤ 2; decide
theorem imulwN32 (x : Bool) (d a b : RegIx) : Statement (.imulwN32 x d a b) := by show 1 ≤ 2; decide
theorem icmpS32 (x : Bool) (c : BitVec 3) (d a b : RegIx) : Statement (.icmpS32 x c d a b) := by show 1 ≤ 2; decide
theorem icmpN32 (x : Bool) (c : BitVec 3) (d a b : RegIx) : Statement (.icmpN32 x c d a b) := by show 1 ≤ 2; decide
theorem icmpS32Lit (x : Bool) (c : BitVec 3) (d a : RegIx) (lit : Word) : Statement (.icmpS32Lit x c d a lit) := by show 2 ≤ 2; decide
theorem selB32 (x : Bool) (d a b : RegIx) : Statement (.selB32 x d a b) := by show 1 ≤ 2; decide
theorem selB64 (x : Bool) (d a b : RegIx) : Statement (.selB64 x d a b) := by show 1 ≤ 2; decide
theorem icmpEqB64 (x : Bool) (d a b : RegIx) : Statement (.icmpEqB64 x d a b) := by show 1 ≤ 2; decide
theorem icmpLtS64 (x : Bool) (d a b : RegIx) : Statement (.icmpLtS64 x d a b) := by show 1 ≤ 2; decide
theorem icmpLtN64 (x : Bool) (d a b : RegIx) : Statement (.icmpLtN64 x d a b) := by show 1 ≤ 2; decide
theorem voteBallot (x : Bool) (d a : RegIx) : Statement (.voteBallot x d a) := by show 1 ≤ 2; decide
theorem voteAny (x : Bool) (d a : RegIx) : Statement (.voteAny x d a) := by show 1 ≤ 2; decide
theorem voteAll (x : Bool) (d a : RegIx) : Statement (.voteAll x d a) := by show 1 ≤ 2; decide
theorem shflIdx (x : Bool) (d a b : RegIx) : Statement (.shflIdx x d a b) := by show 1 ≤ 2; decide
theorem shflUp (x : Bool) (d a b : RegIx) : Statement (.shflUp x d a b) := by show 1 ≤ 2; decide
theorem shflDown (x : Bool) (d a b : RegIx) : Statement (.shflDown x d a b) := by show 1 ≤ 2; decide
theorem shflXor (x : Bool) (d a b : RegIx) : Statement (.shflXor x d a b) := by show 1 ≤ 2; decide
theorem shflDownImm (x : Bool) (d a : RegIx) (i : BitVec 5) : Statement (.shflDownImm x d a i) := by show 1 ≤ 2; decide
theorem shflXorImm (x : Bool) (d a : RegIx) (i : BitVec 5) : Statement (.shflXorImm x d a i) := by show 1 ≤ 2; decide
theorem matchB32 (x : Bool) (d a : RegIx) : Statement (.matchB32 x d a) := by show 1 ≤ 2; decide
theorem gred (x : Bool) (d a : RegIx) (o : BitVec 3) : Statement (.gred x d a o) := by show 1 ≤ 2; decide
theorem reorder (x : Bool) (d a : RegIx) : Statement (.reorder x d a) := by show 1 ≤ 2; decide
theorem reggrow (x : Bool) (d : RegIx) (n : BitVec 5) : Statement (.reggrow x d n) := by show 1 ≤ 2; decide
theorem regshrink (x : Bool) (d : RegIx) (n : BitVec 5) : Statement (.regshrink x d n) := by show 1 ≤ 2; decide
theorem movxRd (x : Bool) (d a : RegIx) : Statement (.movxRd x d a) := by show 1 ≤ 2; decide
theorem movxWr (x : Bool) (d a : RegIx) : Statement (.movxWr x d a) := by show 1 ≤ 2; decide
theorem movxRdB64 (x : Bool) (d a : RegIx) : Statement (.movxRdB64 x d a) := by show 1 ≤ 2; decide
theorem movxWrB64 (x : Bool) (d a : RegIx) : Statement (.movxWrB64 x d a) := by show 1 ≤ 2; decide
theorem faddF32 (x : Bool) (r : BitVec 2) (d a b : RegIx) : Statement (.faddF32 x r d a b) := by show 1 ≤ 2; decide
theorem fsubF32 (x : Bool) (r : BitVec 2) (d a b : RegIx) : Statement (.fsubF32 x r d a b) := by show 1 ≤ 2; decide
theorem fmulF32 (x : Bool) (r : BitVec 2) (d a b : RegIx) : Statement (.fmulF32 x r d a b) := by show 1 ≤ 2; decide
theorem ffmaF32 (x : Bool) (r : BitVec 2) (d a b : RegIx) : Statement (.ffmaF32 x r d a b) := by show 1 ≤ 2; decide
theorem fminF32 (x : Bool) (d a b : RegIx) : Statement (.fminF32 x d a b) := by show 1 ≤ 2; decide
theorem fmaxF32 (x : Bool) (d a b : RegIx) : Statement (.fmaxF32 x d a b) := by show 1 ≤ 2; decide
theorem fnegF32 (x : Bool) (d a : RegIx) : Statement (.fnegF32 x d a) := by show 1 ≤ 2; decide
theorem fabsF32 (x : Bool) (d a : RegIx) : Statement (.fabsF32 x d a) := by show 1 ≤ 2; decide
theorem fcmpF32 (x : Bool) (c : BitVec 4) (d a b : RegIx) : Statement (.fcmpF32 x c d a b) := by show 1 ≤ 2; decide
theorem fcmpUnordF32 (x : Bool) (d a b : RegIx) : Statement (.fcmpUnordF32 x d a b) := by show 1 ≤ 2; decide
theorem fclassF32 (x : Bool) (d a : RegIx) : Statement (.fclassF32 x d a) := by show 1 ≤ 2; decide
theorem faddF32Lit (x : Bool) (d a : RegIx) (lit : Word) : Statement (.faddF32Lit x d a lit) := by show 2 ≤ 2; decide
theorem fmulF32Lit (x : Bool) (d a : RegIx) (lit : Word) : Statement (.fmulF32Lit x d a lit) := by show 2 ≤ 2; decide
theorem fgredAddF32 (x : Bool) (d a : RegIx) : Statement (.fgredAddF32 x d a) := by show 1 ≤ 2; decide
theorem fgredMinF32 (x : Bool) (d a : RegIx) : Statement (.fgredMinF32 x d a) := by show 1 ≤ 2; decide
theorem fgredMaxF32 (x : Bool) (d a : RegIx) : Statement (.fgredMaxF32 x d a) := by show 1 ≤ 2; decide
theorem frintF32 (x : Bool) (r : BitVec 2) (d a : RegIx) : Statement (.frintF32 x r d a) := by show 1 ≤ 2; decide
theorem hadd (x : Bool) (f : BitVec 1) (d a b : RegIx) : Statement (.hadd x f d a b) := by show 1 ≤ 2; decide
theorem hsub (x : Bool) (f : BitVec 1) (d a b : RegIx) : Statement (.hsub x f d a b) := by show 1 ≤ 2; decide
theorem hmul (x : Bool) (f : BitVec 1) (d a b : RegIx) : Statement (.hmul x f d a b) := by show 1 ≤ 2; decide
theorem hfma (x : Bool) (f : BitVec 1) (d a b : RegIx) : Statement (.hfma x f d a b) := by show 1 ≤ 2; decide
theorem hmin (x : Bool) (f : BitVec 1) (d a b : RegIx) : Statement (.hmin x f d a b) := by show 1 ≤ 2; decide
theorem hmax (x : Bool) (f : BitVec 1) (d a b : RegIx) : Statement (.hmax x f d a b) := by show 1 ≤ 2; decide
theorem hneg (x : Bool) (f : BitVec 1) (d a : RegIx) : Statement (.hneg x f d a) := by show 1 ≤ 2; decide
theorem habs (x : Bool) (f : BitVec 1) (d a : RegIx) : Statement (.habs x f d a) := by show 1 ≤ 2; decide
theorem rcpF32 (x : Bool) (d a : RegIx) (r : BitVec 2) : Statement (.rcpF32 x d a r) := by show 1 ≤ 2; decide
theorem sqrtF32 (x : Bool) (d a : RegIx) (r : BitVec 2) : Statement (.sqrtF32 x d a r) := by show 1 ≤ 2; decide
theorem rsqF32 (x : Bool) (d a : RegIx) (r : BitVec 2) : Statement (.rsqF32 x d a r) := by show 1 ≤ 2; decide
theorem exp2F32 (x : Bool) (d a : RegIx) (r : BitVec 2) : Statement (.exp2F32 x d a r) := by show 1 ≤ 2; decide
theorem log2F32 (x : Bool) (d a : RegIx) (r : BitVec 2) : Statement (.log2F32 x d a r) := by show 1 ≤ 2; decide
theorem sinF32 (x : Bool) (d a : RegIx) (r : BitVec 2) : Statement (.sinF32 x d a r) := by show 1 ≤ 2; decide
theorem cosF32 (x : Bool) (d a : RegIx) (r : BitVec 2) : Statement (.cosF32 x d a r) := by show 1 ≤ 2; decide
theorem cvt (x : Bool) (d a : RegIx) (lit : Word) : Statement (.cvt x d a lit) := by show 2 ≤ 2; decide
theorem packMx (x : Bool) (f : BitVec 3) (d a : RegIx) (lit : Word) : Statement (.packMx x f d a lit) := by show 2 ≤ 2; decide
theorem unpackMx (x : Bool) (f : BitVec 3) (d a : RegIx) (lit : Word) : Statement (.unpackMx x f d a lit) := by show 2 ≤ 2; decide
theorem packAq4 (x : Bool) (d a b : RegIx) (lit : Word) : Statement (.packAq4 x d a b lit) := by show 2 ≤ 2; decide
theorem unpackAq4 (x : Bool) (d a b : RegIx) (lit : Word) : Statement (.unpackAq4 x d a b lit) := by show 2 ≤ 2; decide
theorem tag (x : Bool) (d a : RegIx) (k : BitVec 4) : Statement (.tag x d a k) := by show 1 ≤ 2; decide
theorem rdtag (x : Bool) (d a : RegIx) : Statement (.rdtag x d a) := by show 1 ≤ 2; decide
theorem ld (x : Bool) (d a : RegIx) (z : BitVec 3) : Statement (.ld x d a z) := by show 1 ≤ 2; decide
theorem ldLit (x : Bool) (d a : RegIx) (p : BitVec 1) (m z : BitVec 3) (lit : Word) : Statement (.ldLit x d a p m z lit) := by show 2 ≤ 2; decide
theorem ldSpec (x : Bool) (d a : RegIx) (z : BitVec 3) : Statement (.ldSpec x d a z) := by show 1 ≤ 2; decide
theorem ldSpecLit (x : Bool) (d a : RegIx) (p : BitVec 1) (m z : BitVec 3) (lit : Word) : Statement (.ldSpecLit x d a p m z lit) := by show 2 ≤ 2; decide
theorem st (x : Bool) (d a : RegIx) (z : BitVec 3) : Statement (.st x d a z) := by show 1 ≤ 2; decide
theorem stLit (x : Bool) (d a : RegIx) (p : BitVec 1) (m z : BitVec 3) (lit : Word) : Statement (.stLit x d a p m z lit) := by show 2 ≤ 2; decide
theorem ldFmt (x : Bool) (d a : RegIx) (k : BitVec 4) (z : BitVec 3) : Statement (.ldFmt x d a k z) := by show 1 ≤ 2; decide
theorem ldAcq (x : Bool) (d a : RegIx) (c : BitVec 4) (z : BitVec 3) : Statement (.ldAcq x d a c z) := by show 1 ≤ 2; decide
theorem stRel (x : Bool) (d a : RegIx) (c : BitVec 4) (z : BitVec 3) : Statement (.stRel x d a c z) := by show 1 ≤ 2; decide
theorem lds (x : Bool) (d a : RegIx) (z : BitVec 3) : Statement (.lds x d a z) := by show 1 ≤ 2; decide
theorem ldsLit (x : Bool) (d a : RegIx) (p : BitVec 1) (m z : BitVec 3) (lit : Word) : Statement (.ldsLit x d a p m z lit) := by show 2 ≤ 2; decide
theorem ldsWait (x : Bool) (d a : RegIx) (z : BitVec 3) : Statement (.ldsWait x d a z) := by show 1 ≤ 2; decide
theorem ldsWaitLit (x : Bool) (d a : RegIx) (p : BitVec 1) (m z : BitVec 3) (lit : Word) : Statement (.ldsWaitLit x d a p m z lit) := by show 2 ≤ 2; decide
theorem ldsWaitClr (x : Bool) (d a : RegIx) (z : BitVec 3) : Statement (.ldsWaitClr x d a z) := by show 1 ≤ 2; decide
theorem ldsWaitClrLit (x : Bool) (d a : RegIx) (p : BitVec 1) (m z : BitVec 3) (lit : Word) : Statement (.ldsWaitClrLit x d a p m z lit) := by show 2 ≤ 2; decide
theorem sts (x : Bool) (d a : RegIx) (z : BitVec 3) : Statement (.sts x d a z) := by show 1 ≤ 2; decide
theorem stsLit (x : Bool) (d a : RegIx) (p : BitVec 1) (m z : BitVec 3) (lit : Word) : Statement (.stsLit x d a p m z lit) := by show 2 ≤ 2; decide
theorem stsSet (x : Bool) (d a : RegIx) (z : BitVec 3) : Statement (.stsSet x d a z) := by show 1 ≤ 2; decide
theorem stsSetLit (x : Bool) (d a : RegIx) (p : BitVec 1) (m z : BitVec 3) (lit : Word) : Statement (.stsSetLit x d a p m z lit) := by show 2 ≤ 2; decide
theorem ldsFmt (x : Bool) (d a : RegIx) (k : BitVec 4) (z : BitVec 3) : Statement (.ldsFmt x d a k z) := by show 1 ≤ 2; decide
theorem ldsWaitFmt (x : Bool) (d a : RegIx) (k : BitVec 4) (z : BitVec 3) : Statement (.ldsWaitFmt x d a k z) := by show 1 ≤ 2; decide
theorem prefetch (x : Bool) (a : RegIx) : Statement (.prefetch x a) := by show 1 ≤ 2; decide
theorem prefetchLit (x : Bool) (a : RegIx) (p : BitVec 1) (m : BitVec 3) (lit : Word) : Statement (.prefetchLit x a p m lit) := by show 2 ≤ 2; decide
theorem prefetchW (x : Bool) (a : RegIx) : Statement (.prefetchW x a) := by show 1 ≤ 2; decide
theorem prefetchWLit (x : Bool) (a : RegIx) (p : BitVec 1) (m : BitVec 3) (lit : Word) : Statement (.prefetchWLit x a p m lit) := by show 2 ≤ 2; decide
theorem evict (x : Bool) (a : RegIx) : Statement (.evict x a) := by show 1 ≤ 2; decide
theorem tlbinvVa (x : Bool) (a : RegIx) : Statement (.tlbinvVa x a) := by show 1 ≤ 2; decide
theorem tlbinvAll (x : Bool) : Statement (.tlbinvAll x) := by show 1 ≤ 2; decide
theorem copyG2s (x : Bool) (d a b : RegIx) : Statement (.copyG2s x d a b) := by show 1 ≤ 2; decide
theorem copyS2g (x : Bool) (d a b : RegIx) : Statement (.copyS2g x d a b) := by show 1 ≤ 2; decide
theorem copyG2g (x : Bool) (d a b : RegIx) : Statement (.copyG2g x d a b) := by show 1 ≤ 2; decide
theorem gather (x : Bool) (d a b : RegIx) (lit : Word) : Statement (.gather x d a b lit) := by show 2 ≤ 2; decide
theorem scatter (x : Bool) (d a b : RegIx) (lit : Word) : Statement (.scatter x d a b lit) := by show 2 ≤ 2; decide
theorem modset (x : Bool) (n : BitVec 3) (a b : RegIx) : Statement (.modset x n a b) := by show 1 ≤ 2; decide
theorem modrd (x : Bool) (d : RegIx) (n : BitVec 3) : Statement (.modrd x d n) := by show 1 ≤ 2; decide
theorem atom32 (x : Bool) (o : BitVec 4) (d a b : RegIx) : Statement (.atom32 x o d a b) := by show 1 ≤ 2; decide
theorem atomCasB32 (x : Bool) (d a b : RegIx) : Statement (.atomCasB32 x d a b) := by show 1 ≤ 2; decide
theorem atom64 (x : Bool) (o : BitVec 4) (d a b : RegIx) : Statement (.atom64 x o d a b) := by show 1 ≤ 2; decide
theorem atomCasB64 (x : Bool) (d a b : RegIx) : Statement (.atomCasB64 x d a b) := by show 1 ≤ 2; decide
theorem redAddS32 (x : Bool) (a b : RegIx) : Statement (.redAddS32 x a b) := by show 1 ≤ 2; decide
theorem redAddS64 (x : Bool) (a b : RegIx) : Statement (.redAddS64 x a b) := by show 1 ≤ 2; decide
theorem redAddF32 (x : Bool) (a b : RegIx) : Statement (.redAddF32 x a b) := by show 1 ≤ 2; decide
theorem redAddBf16x2 (x : Bool) (a b : RegIx) : Statement (.redAddBf16x2 x a b) := by show 1 ≤ 2; decide
theorem redAtomic (x : Bool) (o : BitVec 4) (a b : RegIx) : Statement (.redAtomic x o a b) := by show 1 ≤ 2; decide
theorem tryLane (x : Bool) (d : RegIx) (lit : Word) : Statement (.tryLane x d lit) := by show 2 ≤ 2; decide
theorem tryGroup (x : Bool) (d : RegIx) (lit : Word) : Statement (.tryGroup x d lit) := by show 2 ≤ 2; decide
theorem commit (x : Bool) : Statement (.commit x) := by show 1 ≤ 2; decide
theorem commitRel (x : Bool) (c : BitVec 3) : Statement (.commitRel x c) := by show 1 ≤ 2; decide
theorem abort (x : Bool) (lit : Word) : Statement (.abort x lit) := by show 2 ≤ 2; decide
theorem tstat (x : Bool) (d : RegIx) : Statement (.tstat x d) := by show 1 ≤ 2; decide
theorem fence (x : Bool) (c : BitVec 3) : Statement (.fence x c) := by show 1 ≤ 2; decide
theorem barSync (x : Bool) (n : BitVec 3) : Statement (.barSync x n) := by show 1 ≤ 2; decide
theorem barArrive (x : Bool) (d : RegIx) (n : BitVec 3) : Statement (.barArrive x d n) := by show 1 ≤ 2; decide
theorem barWait (x : Bool) (a : RegIx) (n : BitVec 3) : Statement (.barWait x a n) := by show 1 ≤ 2; decide
theorem barInit (x : Bool) (lit : Word) : Statement (.barInit x lit) := by show 2 ≤ 2; decide
theorem cvset (x : Bool) (n : BitVec 3) : Statement (.cvset x n) := by show 1 ≤ 2; decide
theorem cvsetMask (x : Bool) (a : RegIx) (n : BitVec 3) : Statement (.cvsetMask x a n) := by show 1 ≤ 2; decide
theorem cvwait (x : Bool) (n : BitVec 3) : Statement (.cvwait x n) := by show 1 ≤ 2; decide
theorem cvrd (x : Bool) (d : RegIx) (n : BitVec 3) : Statement (.cvrd x d n) := by show 1 ≤ 2; decide
theorem pipePut (x : Bool) (a : RegIx) (n : BitVec 2) : Statement (.pipePut x a n) := by show 1 ≤ 2; decide
theorem pipeGet (x : Bool) (d : RegIx) (n : BitVec 2) : Statement (.pipeGet x d n) := by show 1 ≤ 2; decide
theorem qsig (x : Bool) (c : BitVec 3) (a b : RegIx) : Statement (.qsig x c a b) := by show 1 ≤ 2; decide
theorem qwait (x : Bool) (d a b : RegIx) : Statement (.qwait x d a b) := by show 1 ≤ 2; decide
theorem mma (x : Bool) (d a b : RegIx) (lit : Word) : Statement (.mma x d a b lit) := by show 2 ≤ 2; decide
theorem mmaSp (x : Bool) (d a b : RegIx) (lit : Word) : Statement (.mmaSp x d a b lit) := by show 2 ≤ 2; decide
theorem mrsv (x : Bool) (d : RegIx) (n : BitVec 4) : Statement (.mrsv x d n) := by show 1 ≤ 2; decide
theorem mrel (x : Bool) (n : BitVec 4) : Statement (.mrel x n) := by show 1 ≤ 2; decide
theorem mrdF32 (x : Bool) (d : RegIx) (c : BitVec 3) (n : BitVec 4) : Statement (.mrdF32 x d c n) := by show 1 ≤ 2; decide
theorem mrdS32 (x : Bool) (d : RegIx) (c : BitVec 3) (n : BitVec 4) : Statement (.mrdS32 x d c n) := by show 1 ≤ 2; decide
theorem mwr (x : Bool) (a : RegIx) (c : BitVec 3) (n : BitVec 4) : Statement (.mwr x a c n) := by show 1 ≤ 2; decide
theorem mzero (x : Bool) (n : BitVec 4) : Statement (.mzero x n) := by show 1 ≤ 2; decide
theorem trace (x : Bool) (d a b : RegIx) (lit : Word) : Statement (.trace x d a b lit) := by show 2 ≤ 2; decide
theorem traceEmit (x : Bool) (d a b : RegIx) (lit : Word) : Statement (.traceEmit x d a b lit) := by show 2 ≤ 2; decide
theorem asbuild (x : Bool) (d a : RegIx) (n : BitVec 1) : Statement (.asbuild x d a n) := by show 1 ≤ 2; decide
theorem asbuildUpdate (x : Bool) (d a : RegIx) (n : BitVec 1) : Statement (.asbuildUpdate x d a n) := by show 1 ≤ 2; decide
theorem asrefit (x : Bool) (d a : RegIx) (n : BitVec 1) : Statement (.asrefit x d a n) := by show 1 ≤ 2; decide
theorem asretire (x : Bool) (d a : RegIx) (n : BitVec 1) : Statement (.asretire x d a n) := by show 1 ≤ 2; decide
theorem launch (x : Bool) (d a : RegIx) : Statement (.launch x d a) := by show 1 ≤ 2; decide
theorem emit (x : Bool) (a b : RegIx) : Statement (.emit x a b) := by show 1 ≤ 2; decide
theorem bra (x : Bool) (lit : Word) : Statement (.bra x lit) := by show 2 ≤ 2; decide
theorem exit (x : Bool) : Statement (.exit x) := by show 1 ≤ 2; decide
theorem brz (x : Bool) (a : RegIx) (lit : Word) : Statement (.brz x a lit) := by show 2 ≤ 2; decide
theorem brnz (x : Bool) (a : RegIx) (lit : Word) : Statement (.brnz x a lit) := by show 2 ≤ 2; decide
theorem call (x : Bool) (d : RegIx) (lit : Word) : Statement (.call x d lit) := by show 2 ≤ 2; decide
theorem ret (x : Bool) (a : RegIx) : Statement (.ret x a) := by show 1 ≤ 2; decide
theorem callr (x : Bool) (d a : RegIx) : Statement (.callr x d a) := by show 1 ≤ 2; decide
theorem yield (x : Bool) : Statement (.yield x) := by show 1 ≤ 2; decide
theorem rdsys (x : Bool) (d : RegIx) (i : BitVec 7) : Statement (.rdsys x d i) := by show 1 ≤ 2; decide
theorem trap (x : Bool) (i : BitVec 7) : Statement (.trap x i) := by show 1 ≤ 2; decide
theorem bkpt (x : Bool) : Statement (.bkpt x) := by show 1 ≤ 2; decide
theorem nopFill (x : Bool) : Statement (.nopFill x) := by show 1 ≤ 2; decide
theorem rett (x : Bool) (d a : RegIx) : Statement (.rett x d a) := by show 1 ≤ 2; decide
theorem grd (x : Bool) (d a : RegIx) : Statement (.grd x d a) := by show 1 ≤ 2; decide
theorem gwr (x : Bool) (d a : RegIx) : Statement (.gwr x d a) := by show 1 ≤ 2; decide
theorem evwait (x : Bool) (d : RegIx) : Statement (.evwait x d) := by show 1 ≤ 2; decide
theorem unallocatedOpcode (word : Word) : Statement (.unallocatedOpcode word) := by show 1 ≤ 2; decide
theorem powerOnReset : Statement (.powerOnReset) := by show 0 ≤ 2; decide
theorem selfTestComplete : Statement (.selfTestComplete) := by show 0 ≤ 2; decide
theorem bootVerify : Statement (.bootVerify) := by show 0 ≤ 2; decide
theorem viaductFailure : Statement (.viaductFailure) := by show 0 ≤ 2; decide
theorem thermalThrottle : Statement (.thermalThrottle) := by show 0 ≤ 2; decide
theorem thermalTrip : Statement (.thermalTrip) := by show 0 ≤ 2; decide
theorem clockThrottleStep : Statement (.clockThrottleStep) := by show 0 ≤ 2; decide
theorem powerLimitSet : Statement (.powerLimitSet) := by show 0 ≤ 2; decide
theorem telemetryRequest : Statement (.telemetryRequest) := by show 0 ≤ 2; decide
theorem firmwareUpdate : Statement (.firmwareUpdate) := by show 0 ≤ 2; decide
theorem firmwareActivate : Statement (.firmwareActivate) := by show 0 ≤ 2; decide
theorem ownershipNonce : Statement (.ownershipNonce) := by show 0 ≤ 2; decide
theorem releaseMessage : Statement (.releaseMessage) := by show 0 ≤ 2; decide
theorem releaseEraseComplete : Statement (.releaseEraseComplete) := by show 0 ≤ 2; decide
theorem claimMessage : Statement (.claimMessage) := by show 0 ≤ 2; decide
theorem ownerKeyAdd : Statement (.ownerKeyAdd) := by show 0 ≤ 2; decide
theorem ownerKeyRemove : Statement (.ownerKeyRemove) := by show 0 ≤ 2; decide
theorem svnFuseBlow : Statement (.svnFuseBlow) := by show 0 ≤ 2; decide
theorem debugUnlock : Statement (.debugUnlock) := by show 0 ≤ 2; decide
theorem ownerDigestExtend : Statement (.ownerDigestExtend) := by show 0 ≤ 2; decide
theorem getVersion : Statement (.getVersion) := by show 0 ≤ 2; decide
theorem getCapabilities : Statement (.getCapabilities) := by show 0 ≤ 2; decide
theorem negotiateAlgorithms : Statement (.negotiateAlgorithms) := by show 0 ≤ 2; decide
theorem getDigests : Statement (.getDigests) := by show 0 ≤ 2; decide
theorem getCertificate : Statement (.getCertificate) := by show 0 ≤ 2; decide
theorem challenge : Statement (.challenge) := by show 0 ≤ 2; decide
theorem getMeasurements : Statement (.getMeasurements) := by show 0 ≤ 2; decide
theorem keyExchange : Statement (.keyExchange) := by show 0 ≤ 2; decide
theorem finish : Statement (.finish) := by show 0 ≤ 2; decide
theorem sriovVfEnable : Statement (.sriovVfEnable) := by show 0 ≤ 2; decide
theorem sriovVfDisable : Statement (.sriovVfDisable) := by show 0 ≤ 2; decide
theorem peerPortStateChange : Statement (.peerPortStateChange) := by show 0 ≤ 2; decide
theorem hostSnoop : Statement (.hostSnoop) := by show 0 ≤ 2; decide
theorem hostMemAccess : Statement (.hostMemAccess) := by show 0 ≤ 2; decide
theorem bisnpResponse : Statement (.bisnpResponse) := by show 0 ≤ 2; decide
theorem hqFnCfgWrite : Statement (.hqFnCfgWrite) := by show 0 ≤ 2; decide
theorem queueEnable : Statement (.queueEnable) := by show 0 ≤ 2; decide
theorem queueDisable : Statement (.queueDisable) := by show 0 ≤ 2; decide
theorem cqEnable : Statement (.cqEnable) := by show 0 ≤ 2; decide
theorem cqDisable : Statement (.cqDisable) := by show 0 ≤ 2; decide
theorem cqIrqEnSet : Statement (.cqIrqEnSet) := by show 0 ≤ 2; decide
theorem cqIrqEnClear : Statement (.cqIrqEnClear) := by show 0 ≤ 2; decide
theorem notify : Statement (.notify) := by show 0 ≤ 2; decide
theorem cqHeadWrite : Statement (.cqHeadWrite) := by show 0 ≤ 2; decide
theorem faultRingEnable : Statement (.faultRingEnable) := by show 0 ≤ 2; decide
theorem faultRingDisable : Statement (.faultRingDisable) := by show 0 ≤ 2; decide
theorem faultHeadWrite : Statement (.faultHeadWrite) := by show 0 ≤ 2; decide
theorem faultResumeRetry : Statement (.faultResumeRetry) := by show 0 ≤ 2; decide
theorem faultResumeAbort : Statement (.faultResumeAbort) := by show 0 ≤ 2; decide
theorem plCfgWrite : Statement (.plCfgWrite) := by show 0 ≤ 2; decide
theorem swapGo : Statement (.swapGo) := by show 0 ≤ 2; decide
theorem debugAttach : Statement (.debugAttach) := by show 0 ≤ 2; decide
theorem haltRequest : Statement (.haltRequest) := by show 0 ≤ 2; decide
theorem haltRelease : Statement (.haltRelease) := by show 0 ≤ 2; decide
theorem debugStep : Statement (.debugStep) := by show 0 ≤ 2; decide
theorem traceStatusClear : Statement (.traceStatusClear) := by show 0 ≤ 2; decide
theorem cyclesRead : Statement (.cyclesRead) := by show 0 ≤ 2; decide
theorem registerWrite : Statement (.registerWrite) := by show 0 ≤ 2; decide
theorem recordClaim : Statement (.recordClaim) := by show 0 ≤ 2; decide
theorem recordStart : Statement (.recordStart) := by show 0 ≤ 2; decide
theorem launchGrid : Statement (.launchGrid) := by show 0 ≤ 2; decide
theorem launchGang : Statement (.launchGang) := by show 0 ≤ 2; decide
theorem launchPool : Statement (.launchPool) := by show 0 ≤ 2; decide
theorem signalToken : Statement (.signalToken) := by show 0 ≤ 2; decide
theorem waitToken : Statement (.waitToken) := by show 0 ≤ 2; decide
theorem waitTokenRecheck : Statement (.waitTokenRecheck) := by show 0 ≤ 2; decide
theorem waitTokenPoll : Statement (.waitTokenPoll) := by show 0 ≤ 2; decide
theorem waitTokenTimeout : Statement (.waitTokenTimeout) := by show 0 ≤ 2; decide
theorem copy : Statement (.copy) := by show 0 ≤ 2; decide
theorem asidRoot : Statement (.asidRoot) := by show 0 ≤ 2; decide
theorem queuePriority : Statement (.queuePriority) := by show 0 ≤ 2; decide
theorem watchdogDefault : Statement (.watchdogDefault) := by show 0 ≤ 2; decide
theorem ageLimit : Statement (.ageLimit) := by show 0 ≤ 2; decide
theorem queueStop : Statement (.queueStop) := by show 0 ≤ 2; decide
theorem nopFence : Statement (.nopFence) := by show 0 ≤ 2; decide
theorem launchComplete : Statement (.launchComplete) := by show 0 ≤ 2; decide
theorem completionEntryRetry : Statement (.completionEntryRetry) := by show 0 ≤ 2; decide
theorem cqTimerExpiry : Statement (.cqTimerExpiry) := by show 0 ≤ 2; decide
theorem mappingPass : Statement (.mappingPass) := by show 0 ≤ 2; decide
theorem placementRecordArrival : Statement (.placementRecordArrival) := by show 0 ≤ 2; decide
theorem placementPass : Statement (.placementPass) := by show 0 ≤ 2; decide
theorem phaseTableUpdate : Statement (.phaseTableUpdate) := by show 0 ≤ 2; decide
theorem poolRecordDeliver : Statement (.poolRecordDeliver) := by show 0 ≤ 2; decide
theorem binAgeExpiry : Statement (.binAgeExpiry) := by show 0 ≤ 2; decide
theorem overflowRingReturn : Statement (.overflowRingReturn) := by show 0 ≤ 2; decide
theorem poolOverflowExpiry : Statement (.poolOverflowExpiry) := by show 0 ≤ 2; decide
theorem groupExit : Statement (.groupExit) := by show 0 ≤ 2; decide
theorem loadComplete : Statement (.loadComplete) := by show 0 ≤ 2; decide
theorem storePerform : Statement (.storePerform) := by show 0 ≤ 2; decide
theorem matrixPass : Statement (.matrixPass) := by show 0 ≤ 2; decide
theorem transferBurst : Statement (.transferBurst) := by show 0 ≤ 2; decide
theorem nodeVisit : Statement (.nodeVisit) := by show 0 ≤ 2; decide
theorem fenceRecheck : Statement (.fenceRecheck) := by show 0 ≤ 2; decide
theorem fencePoll : Statement (.fencePoll) := by show 0 ≤ 2; decide
theorem builderTask : Statement (.builderTask) := by show 0 ≤ 2; decide
theorem topNodeRewrite : Statement (.topNodeRewrite) := by show 0 ≤ 2; decide
theorem refitNode : Statement (.refitNode) := by show 0 ≤ 2; decide
theorem compactorBlock : Statement (.compactorBlock) := by show 0 ≤ 2; decide
theorem preemptStop : Statement (.preemptStop) := by show 0 ≤ 2; decide
theorem stoppingUnitReached : Statement (.stoppingUnitReached) := by show 0 ≤ 2; decide
theorem contextImageWritten : Statement (.contextImageWritten) := by show 0 ≤ 2; decide
theorem contextRestore : Statement (.contextRestore) := by show 0 ≤ 2; decide
theorem trapResolution : Statement (.trapResolution) := by show 0 ≤ 2; decide
theorem faultEntryRetry : Statement (.faultEntryRetry) := by show 0 ≤ 2; decide
theorem faultTimeout : Statement (.faultTimeout) := by show 0 ≤ 2; decide
theorem watchdogExpiry : Statement (.watchdogExpiry) := by show 0 ≤ 2; decide
theorem haltTimeout : Statement (.haltTimeout) := by show 0 ≤ 2; decide
theorem eventTick : Statement (.eventTick) := by show 0 ≤ 2; decide
theorem pageWalk : Statement (.pageWalk) := by show 0 ≤ 2; decide
theorem swapLine : Statement (.swapLine) := by show 0 ≤ 2; decide
theorem swapMigAccess : Statement (.swapMigAccess) := by show 0 ≤ 2; decide
theorem transientRequest : Statement (.transientRequest) := by show 0 ≤ 2; decide
theorem forwardedRequest : Statement (.forwardedRequest) := by show 0 ≤ 2; decide
theorem tokenMessage : Statement (.tokenMessage) := by show 0 ≤ 2; decide
theorem attemptTimeout : Statement (.attemptTimeout) := by show 0 ≤ 2; decide
theorem arb : Statement (.arb) := by show 0 ≤ 2; decide
theorem grant : Statement (.grant) := by show 0 ≤ 2; decide
theorem handoff : Statement (.handoff) := by show 0 ≤ 2; decide
theorem activate : Statement (.activate) := by show 0 ≤ 2; decide
theorem deactivate : Statement (.deactivate) := by show 0 ≤ 2; decide
theorem persistentReport : Statement (.persistentReport) := by show 0 ≤ 2; decide
theorem eviction : Statement (.eviction) := by show 0 ≤ 2; decide
theorem drainWrite : Statement (.drainWrite) := by show 0 ≤ 2; decide
theorem partialCombine : Statement (.partialCombine) := by show 0 ≤ 2; decide
theorem census : Statement (.census) := by show 0 ≤ 2; decide
theorem censusHoldExpiry : Statement (.censusHoldExpiry) := by show 0 ≤ 2; decide
theorem reggrowGrant : Statement (.reggrowGrant) := by show 0 ≤ 2; decide
theorem reorderComplete : Statement (.reorderComplete) := by show 0 ≤ 2; decide
theorem commitPoint : Statement (.commitPoint) := by show 0 ≤ 2; decide
theorem traceSample : Statement (.traceSample) := by show 0 ≤ 2; decide
theorem gapRecord : Statement (.gapRecord) := by show 0 ≤ 2; decide
theorem powerLoss : Statement (.powerLoss) := by show 0 ≤ 2; decide
theorem peerAccess : Statement (.peerAccess) := by show 0 ≤ 2; decide
theorem hostLineObtained : Statement (.hostLineObtained) := by show 0 ≤ 2; decide
theorem qwaitReread : Statement (.qwaitReread) := by show 0 ≤ 2; decide
theorem hostLinkTraining : Statement (.hostLinkTraining) := by show 0 ≤ 2; decide
theorem dynamicAddressAssignment : Statement (.dynamicAddressAssignment) := by show 0 ≤ 2; decide

end Sys2Proof.Laws.Length

namespace Sys2Proof.Machine

/-! ## Words of an instruction -/

@[simp] theorem lengthOf_movB32 (x : Bool) (d a : RegIx) : lengthOf (.movB32 x d a) = 1 := rfl
@[simp] theorem lengthOf_movB32Lit (x : Bool) (d : RegIx) (lit : Word) : lengthOf (.movB32Lit x d lit) = 2 := rfl
@[simp] theorem lengthOf_movB64 (x : Bool) (d a : RegIx) : lengthOf (.movB64 x d a) = 1 := rfl
@[simp] theorem lengthOf_movS64Lit (x : Bool) (d : RegIx) (lit : Word) : lengthOf (.movS64Lit x d lit) = 2 := rfl
@[simp] theorem lengthOf_iaddS32 (x : Bool) (d a b : RegIx) : lengthOf (.iaddS32 x d a b) = 1 := rfl
@[simp] theorem lengthOf_iaddS32Imm (x : Bool) (d a : RegIx) (i : BitVec 7) : lengthOf (.iaddS32Imm x d a i) = 1 := rfl
@[simp] theorem lengthOf_iaddS32Lit (x : Bool) (d a : RegIx) (lit : Word) : lengthOf (.iaddS32Lit x d a lit) = 2 := rfl
@[simp] theorem lengthOf_isubS32 (x : Bool) (d a b : RegIx) : lengthOf (.isubS32 x d a b) = 1 := rfl
@[simp] theorem lengthOf_imulS32 (x : Bool) (d a b : RegIx) : lengthOf (.imulS32 x d a b) = 1 := rfl
@[simp] theorem lengthOf_imulS32Lit (x : Bool) (d a : RegIx) (lit : Word) : lengthOf (.imulS32Lit x d a lit) = 2 := rfl
@[simp] theorem lengthOf_imulhiS32 (x : Bool) (d a b : RegIx) : lengthOf (.imulhiS32 x d a b) = 1 := rfl
@[simp] theorem lengthOf_imulhiN32 (x : Bool) (d a b : RegIx) : lengthOf (.imulhiN32 x d a b) = 1 := rfl
@[simp] theorem lengthOf_imadS32 (x : Bool) (d a b : RegIx) : lengthOf (.imadS32 x d a b) = 1 := rfl
@[simp] theorem lengthOf_iaddS32Sat (x : Bool) (d a b : RegIx) : lengthOf (.iaddS32Sat x d a b) = 1 := rfl
@[simp] theorem lengthOf_isubS32Sat (x : Bool) (d a b : RegIx) : lengthOf (.isubS32Sat x d a b) = 1 := rfl
@[simp] theorem lengthOf_inegS32 (x : Bool) (d a : RegIx) : lengthOf (.inegS32 x d a) = 1 := rfl
@[simp] theorem lengthOf_iminS32 (x : Bool) (d a b : RegIx) : lengthOf (.iminS32 x d a b) = 1 := rfl
@[simp] theorem lengthOf_iminN32 (x : Bool) (d a b : RegIx) : lengthOf (.iminN32 x d a b) = 1 := rfl
@[simp] theorem lengthOf_imaxS32 (x : Bool) (d a b : RegIx) : lengthOf (.imaxS32 x d a b) = 1 := rfl
@[simp] theorem lengthOf_imaxN32 (x : Bool) (d a b : RegIx) : lengthOf (.imaxN32 x d a b) = 1 := rfl
@[simp] theorem lengthOf_iabsS32 (x : Bool) (d a : RegIx) : lengthOf (.iabsS32 x d a) = 1 := rfl
@[simp] theorem lengthOf_andB32 (x : Bool) (d a b : RegIx) : lengthOf (.andB32 x d a b) = 1 := rfl
@[simp] theorem lengthOf_andB32Lit (x : Bool) (d a : RegIx) (lit : Word) : lengthOf (.andB32Lit x d a lit) = 2 := rfl
@[simp] theorem lengthOf_orB32 (x : Bool) (d a b : RegIx) : lengthOf (.orB32 x d a b) = 1 := rfl
@[simp] theorem lengthOf_orB32Lit (x : Bool) (d a : RegIx) (lit : Word) : lengthOf (.orB32Lit x d a lit) = 2 := rfl
@[simp] theorem lengthOf_xorB32 (x : Bool) (d a b : RegIx) : lengthOf (.xorB32 x d a b) = 1 := rfl
@[simp] theorem lengthOf_xorB32Lit (x : Bool) (d a : RegIx) (lit : Word) : lengthOf (.xorB32Lit x d a lit) = 2 := rfl
@[simp] theorem lengthOf_andnB32 (x : Bool) (d a b : RegIx) : lengthOf (.andnB32 x d a b) = 1 := rfl
@[simp] theorem lengthOf_notB32 (x : Bool) (d a : RegIx) : lengthOf (.notB32 x d a) = 1 := rfl
@[simp] theorem lengthOf_shlB32 (x : Bool) (d a b : RegIx) : lengthOf (.shlB32 x d a b) = 1 := rfl
@[simp] theorem lengthOf_shlB32Imm (x : Bool) (d a : RegIx) (i : BitVec 7) : lengthOf (.shlB32Imm x d a i) = 1 := rfl
@[simp] theorem lengthOf_shrN32 (x : Bool) (d a b : RegIx) : lengthOf (.shrN32 x d a b) = 1 := rfl
@[simp] theorem lengthOf_shrN32Imm (x : Bool) (d a : RegIx) (i : BitVec 7) : lengthOf (.shrN32Imm x d a i) = 1 := rfl
@[simp] theorem lengthOf_shrS32 (x : Bool) (d a b : RegIx) : lengthOf (.shrS32 x d a b) = 1 := rfl
@[simp] theorem lengthOf_shrS32Imm (x : Bool) (d a : RegIx) (i : BitVec 7) : lengthOf (.shrS32Imm x d a i) = 1 := rfl
@[simp] theorem lengthOf_bfxN32 (x : Bool) (d a : RegIx) (lit : Word) : lengthOf (.bfxN32 x d a lit) = 2 := rfl
@[simp] theorem lengthOf_bfxS32 (x : Bool) (d a : RegIx) (lit : Word) : lengthOf (.bfxS32 x d a lit) = 2 := rfl
@[simp] theorem lengthOf_bfiB32 (x : Bool) (d a : RegIx) (lit : Word) : lengthOf (.bfiB32 x d a lit) = 2 := rfl
@[simp] theorem lengthOf_popcB32 (x : Bool) (d a : RegIx) : lengthOf (.popcB32 x d a) = 1 := rfl
@[simp] theorem lengthOf_clzB32 (x : Bool) (d a : RegIx) : lengthOf (.clzB32 x d a) = 1 := rfl
@[simp] theorem lengthOf_brevB32 (x : Bool) (d a : RegIx) : lengthOf (.brevB32 x d a) = 1 := rfl
@[simp] theorem lengthOf_iaddS64 (x : Bool) (d a b : RegIx) : lengthOf (.iaddS64 x d a b) = 1 := rfl
@[simp] theorem lengthOf_iaddS64Lit (x : Bool) (d a : RegIx) (lit : Word) : lengthOf (.iaddS64Lit x d a lit) = 2 := rfl
@[simp] theorem lengthOf_isubS64 (x : Bool) (d a b : RegIx) : lengthOf (.isubS64 x d a b) = 1 := rfl
@[simp] theorem lengthOf_leaS32 (x : Bool) (d a b : RegIx) (lit : Word) : lengthOf (.leaS32 x d a b lit) = 2 := rfl
@[simp] theorem lengthOf_leaN32 (x : Bool) (d a b : RegIx) (lit : Word) : lengthOf (.leaN32 x d a b lit) = 2 := rfl
@[simp] theorem lengthOf_shlB64 (x : Bool) (d a : RegIx) (i : BitVec 7) : lengthOf (.shlB64 x d a i) = 1 := rfl
@[simp] theorem lengthOf_shrN64 (x : Bool) (d a : RegIx) (i : BitVec 7) : lengthOf (.shrN64 x d a i) = 1 := rfl
@[simp] theorem lengthOf_shrS64 (x : Bool) (d a : RegIx) (i : BitVec 7) : lengthOf (.shrS64 x d a i) = 1 := rfl
@[simp] theorem lengthOf_imulwS32 (x : Bool) (d a b : RegIx) : lengthOf (.imulwS32 x d a b) = 1 := rfl
@[simp] theorem lengthOf_imulwN32 (x : Bool) (d a b : RegIx) : lengthOf (.imulwN32 x d a b) = 1 := rfl
@[simp] theorem lengthOf_icmpS32 (x : Bool) (c : BitVec 3) (d a b : RegIx) : lengthOf (.icmpS32 x c d a b) = 1 := rfl
@[simp] theorem lengthOf_icmpN32 (x : Bool) (c : BitVec 3) (d a b : RegIx) : lengthOf (.icmpN32 x c d a b) = 1 := rfl
@[simp] theorem lengthOf_icmpS32Lit (x : Bool) (c : BitVec 3) (d a : RegIx) (lit : Word) : lengthOf (.icmpS32Lit x c d a lit) = 2 := rfl
@[simp] theorem lengthOf_selB32 (x : Bool) (d a b : RegIx) : lengthOf (.selB32 x d a b) = 1 := rfl
@[simp] theorem lengthOf_selB64 (x : Bool) (d a b : RegIx) : lengthOf (.selB64 x d a b) = 1 := rfl
@[simp] theorem lengthOf_icmpEqB64 (x : Bool) (d a b : RegIx) : lengthOf (.icmpEqB64 x d a b) = 1 := rfl
@[simp] theorem lengthOf_icmpLtS64 (x : Bool) (d a b : RegIx) : lengthOf (.icmpLtS64 x d a b) = 1 := rfl
@[simp] theorem lengthOf_icmpLtN64 (x : Bool) (d a b : RegIx) : lengthOf (.icmpLtN64 x d a b) = 1 := rfl
@[simp] theorem lengthOf_voteBallot (x : Bool) (d a : RegIx) : lengthOf (.voteBallot x d a) = 1 := rfl
@[simp] theorem lengthOf_voteAny (x : Bool) (d a : RegIx) : lengthOf (.voteAny x d a) = 1 := rfl
@[simp] theorem lengthOf_voteAll (x : Bool) (d a : RegIx) : lengthOf (.voteAll x d a) = 1 := rfl
@[simp] theorem lengthOf_shflIdx (x : Bool) (d a b : RegIx) : lengthOf (.shflIdx x d a b) = 1 := rfl
@[simp] theorem lengthOf_shflUp (x : Bool) (d a b : RegIx) : lengthOf (.shflUp x d a b) = 1 := rfl
@[simp] theorem lengthOf_shflDown (x : Bool) (d a b : RegIx) : lengthOf (.shflDown x d a b) = 1 := rfl
@[simp] theorem lengthOf_shflXor (x : Bool) (d a b : RegIx) : lengthOf (.shflXor x d a b) = 1 := rfl
@[simp] theorem lengthOf_shflDownImm (x : Bool) (d a : RegIx) (i : BitVec 5) : lengthOf (.shflDownImm x d a i) = 1 := rfl
@[simp] theorem lengthOf_shflXorImm (x : Bool) (d a : RegIx) (i : BitVec 5) : lengthOf (.shflXorImm x d a i) = 1 := rfl
@[simp] theorem lengthOf_matchB32 (x : Bool) (d a : RegIx) : lengthOf (.matchB32 x d a) = 1 := rfl
@[simp] theorem lengthOf_gred (x : Bool) (d a : RegIx) (o : BitVec 3) : lengthOf (.gred x d a o) = 1 := rfl
@[simp] theorem lengthOf_reorder (x : Bool) (d a : RegIx) : lengthOf (.reorder x d a) = 1 := rfl
@[simp] theorem lengthOf_reggrow (x : Bool) (d : RegIx) (n : BitVec 5) : lengthOf (.reggrow x d n) = 1 := rfl
@[simp] theorem lengthOf_regshrink (x : Bool) (d : RegIx) (n : BitVec 5) : lengthOf (.regshrink x d n) = 1 := rfl
@[simp] theorem lengthOf_movxRd (x : Bool) (d a : RegIx) : lengthOf (.movxRd x d a) = 1 := rfl
@[simp] theorem lengthOf_movxWr (x : Bool) (d a : RegIx) : lengthOf (.movxWr x d a) = 1 := rfl
@[simp] theorem lengthOf_movxRdB64 (x : Bool) (d a : RegIx) : lengthOf (.movxRdB64 x d a) = 1 := rfl
@[simp] theorem lengthOf_movxWrB64 (x : Bool) (d a : RegIx) : lengthOf (.movxWrB64 x d a) = 1 := rfl
@[simp] theorem lengthOf_faddF32 (x : Bool) (r : BitVec 2) (d a b : RegIx) : lengthOf (.faddF32 x r d a b) = 1 := rfl
@[simp] theorem lengthOf_fsubF32 (x : Bool) (r : BitVec 2) (d a b : RegIx) : lengthOf (.fsubF32 x r d a b) = 1 := rfl
@[simp] theorem lengthOf_fmulF32 (x : Bool) (r : BitVec 2) (d a b : RegIx) : lengthOf (.fmulF32 x r d a b) = 1 := rfl
@[simp] theorem lengthOf_ffmaF32 (x : Bool) (r : BitVec 2) (d a b : RegIx) : lengthOf (.ffmaF32 x r d a b) = 1 := rfl
@[simp] theorem lengthOf_fminF32 (x : Bool) (d a b : RegIx) : lengthOf (.fminF32 x d a b) = 1 := rfl
@[simp] theorem lengthOf_fmaxF32 (x : Bool) (d a b : RegIx) : lengthOf (.fmaxF32 x d a b) = 1 := rfl
@[simp] theorem lengthOf_fnegF32 (x : Bool) (d a : RegIx) : lengthOf (.fnegF32 x d a) = 1 := rfl
@[simp] theorem lengthOf_fabsF32 (x : Bool) (d a : RegIx) : lengthOf (.fabsF32 x d a) = 1 := rfl
@[simp] theorem lengthOf_fcmpF32 (x : Bool) (c : BitVec 4) (d a b : RegIx) : lengthOf (.fcmpF32 x c d a b) = 1 := rfl
@[simp] theorem lengthOf_fcmpUnordF32 (x : Bool) (d a b : RegIx) : lengthOf (.fcmpUnordF32 x d a b) = 1 := rfl
@[simp] theorem lengthOf_fclassF32 (x : Bool) (d a : RegIx) : lengthOf (.fclassF32 x d a) = 1 := rfl
@[simp] theorem lengthOf_faddF32Lit (x : Bool) (d a : RegIx) (lit : Word) : lengthOf (.faddF32Lit x d a lit) = 2 := rfl
@[simp] theorem lengthOf_fmulF32Lit (x : Bool) (d a : RegIx) (lit : Word) : lengthOf (.fmulF32Lit x d a lit) = 2 := rfl
@[simp] theorem lengthOf_fgredAddF32 (x : Bool) (d a : RegIx) : lengthOf (.fgredAddF32 x d a) = 1 := rfl
@[simp] theorem lengthOf_fgredMinF32 (x : Bool) (d a : RegIx) : lengthOf (.fgredMinF32 x d a) = 1 := rfl
@[simp] theorem lengthOf_fgredMaxF32 (x : Bool) (d a : RegIx) : lengthOf (.fgredMaxF32 x d a) = 1 := rfl
@[simp] theorem lengthOf_frintF32 (x : Bool) (r : BitVec 2) (d a : RegIx) : lengthOf (.frintF32 x r d a) = 1 := rfl
@[simp] theorem lengthOf_hadd (x : Bool) (f : BitVec 1) (d a b : RegIx) : lengthOf (.hadd x f d a b) = 1 := rfl
@[simp] theorem lengthOf_hsub (x : Bool) (f : BitVec 1) (d a b : RegIx) : lengthOf (.hsub x f d a b) = 1 := rfl
@[simp] theorem lengthOf_hmul (x : Bool) (f : BitVec 1) (d a b : RegIx) : lengthOf (.hmul x f d a b) = 1 := rfl
@[simp] theorem lengthOf_hfma (x : Bool) (f : BitVec 1) (d a b : RegIx) : lengthOf (.hfma x f d a b) = 1 := rfl
@[simp] theorem lengthOf_hmin (x : Bool) (f : BitVec 1) (d a b : RegIx) : lengthOf (.hmin x f d a b) = 1 := rfl
@[simp] theorem lengthOf_hmax (x : Bool) (f : BitVec 1) (d a b : RegIx) : lengthOf (.hmax x f d a b) = 1 := rfl
@[simp] theorem lengthOf_hneg (x : Bool) (f : BitVec 1) (d a : RegIx) : lengthOf (.hneg x f d a) = 1 := rfl
@[simp] theorem lengthOf_habs (x : Bool) (f : BitVec 1) (d a : RegIx) : lengthOf (.habs x f d a) = 1 := rfl
@[simp] theorem lengthOf_rcpF32 (x : Bool) (d a : RegIx) (r : BitVec 2) : lengthOf (.rcpF32 x d a r) = 1 := rfl
@[simp] theorem lengthOf_sqrtF32 (x : Bool) (d a : RegIx) (r : BitVec 2) : lengthOf (.sqrtF32 x d a r) = 1 := rfl
@[simp] theorem lengthOf_rsqF32 (x : Bool) (d a : RegIx) (r : BitVec 2) : lengthOf (.rsqF32 x d a r) = 1 := rfl
@[simp] theorem lengthOf_exp2F32 (x : Bool) (d a : RegIx) (r : BitVec 2) : lengthOf (.exp2F32 x d a r) = 1 := rfl
@[simp] theorem lengthOf_log2F32 (x : Bool) (d a : RegIx) (r : BitVec 2) : lengthOf (.log2F32 x d a r) = 1 := rfl
@[simp] theorem lengthOf_sinF32 (x : Bool) (d a : RegIx) (r : BitVec 2) : lengthOf (.sinF32 x d a r) = 1 := rfl
@[simp] theorem lengthOf_cosF32 (x : Bool) (d a : RegIx) (r : BitVec 2) : lengthOf (.cosF32 x d a r) = 1 := rfl
@[simp] theorem lengthOf_cvt (x : Bool) (d a : RegIx) (lit : Word) : lengthOf (.cvt x d a lit) = 2 := rfl
@[simp] theorem lengthOf_packMx (x : Bool) (f : BitVec 3) (d a : RegIx) (lit : Word) : lengthOf (.packMx x f d a lit) = 2 := rfl
@[simp] theorem lengthOf_unpackMx (x : Bool) (f : BitVec 3) (d a : RegIx) (lit : Word) : lengthOf (.unpackMx x f d a lit) = 2 := rfl
@[simp] theorem lengthOf_packAq4 (x : Bool) (d a b : RegIx) (lit : Word) : lengthOf (.packAq4 x d a b lit) = 2 := rfl
@[simp] theorem lengthOf_unpackAq4 (x : Bool) (d a b : RegIx) (lit : Word) : lengthOf (.unpackAq4 x d a b lit) = 2 := rfl
@[simp] theorem lengthOf_tag (x : Bool) (d a : RegIx) (k : BitVec 4) : lengthOf (.tag x d a k) = 1 := rfl
@[simp] theorem lengthOf_rdtag (x : Bool) (d a : RegIx) : lengthOf (.rdtag x d a) = 1 := rfl
@[simp] theorem lengthOf_ld (x : Bool) (d a : RegIx) (z : BitVec 3) : lengthOf (.ld x d a z) = 1 := rfl
@[simp] theorem lengthOf_ldLit (x : Bool) (d a : RegIx) (p : BitVec 1) (m z : BitVec 3) (lit : Word) : lengthOf (.ldLit x d a p m z lit) = 2 := rfl
@[simp] theorem lengthOf_ldSpec (x : Bool) (d a : RegIx) (z : BitVec 3) : lengthOf (.ldSpec x d a z) = 1 := rfl
@[simp] theorem lengthOf_ldSpecLit (x : Bool) (d a : RegIx) (p : BitVec 1) (m z : BitVec 3) (lit : Word) : lengthOf (.ldSpecLit x d a p m z lit) = 2 := rfl
@[simp] theorem lengthOf_st (x : Bool) (d a : RegIx) (z : BitVec 3) : lengthOf (.st x d a z) = 1 := rfl
@[simp] theorem lengthOf_stLit (x : Bool) (d a : RegIx) (p : BitVec 1) (m z : BitVec 3) (lit : Word) : lengthOf (.stLit x d a p m z lit) = 2 := rfl
@[simp] theorem lengthOf_ldFmt (x : Bool) (d a : RegIx) (k : BitVec 4) (z : BitVec 3) : lengthOf (.ldFmt x d a k z) = 1 := rfl
@[simp] theorem lengthOf_ldAcq (x : Bool) (d a : RegIx) (c : BitVec 4) (z : BitVec 3) : lengthOf (.ldAcq x d a c z) = 1 := rfl
@[simp] theorem lengthOf_stRel (x : Bool) (d a : RegIx) (c : BitVec 4) (z : BitVec 3) : lengthOf (.stRel x d a c z) = 1 := rfl
@[simp] theorem lengthOf_lds (x : Bool) (d a : RegIx) (z : BitVec 3) : lengthOf (.lds x d a z) = 1 := rfl
@[simp] theorem lengthOf_ldsLit (x : Bool) (d a : RegIx) (p : BitVec 1) (m z : BitVec 3) (lit : Word) : lengthOf (.ldsLit x d a p m z lit) = 2 := rfl
@[simp] theorem lengthOf_ldsWait (x : Bool) (d a : RegIx) (z : BitVec 3) : lengthOf (.ldsWait x d a z) = 1 := rfl
@[simp] theorem lengthOf_ldsWaitLit (x : Bool) (d a : RegIx) (p : BitVec 1) (m z : BitVec 3) (lit : Word) : lengthOf (.ldsWaitLit x d a p m z lit) = 2 := rfl
@[simp] theorem lengthOf_ldsWaitClr (x : Bool) (d a : RegIx) (z : BitVec 3) : lengthOf (.ldsWaitClr x d a z) = 1 := rfl
@[simp] theorem lengthOf_ldsWaitClrLit (x : Bool) (d a : RegIx) (p : BitVec 1) (m z : BitVec 3) (lit : Word) : lengthOf (.ldsWaitClrLit x d a p m z lit) = 2 := rfl
@[simp] theorem lengthOf_sts (x : Bool) (d a : RegIx) (z : BitVec 3) : lengthOf (.sts x d a z) = 1 := rfl
@[simp] theorem lengthOf_stsLit (x : Bool) (d a : RegIx) (p : BitVec 1) (m z : BitVec 3) (lit : Word) : lengthOf (.stsLit x d a p m z lit) = 2 := rfl
@[simp] theorem lengthOf_stsSet (x : Bool) (d a : RegIx) (z : BitVec 3) : lengthOf (.stsSet x d a z) = 1 := rfl
@[simp] theorem lengthOf_stsSetLit (x : Bool) (d a : RegIx) (p : BitVec 1) (m z : BitVec 3) (lit : Word) : lengthOf (.stsSetLit x d a p m z lit) = 2 := rfl
@[simp] theorem lengthOf_ldsFmt (x : Bool) (d a : RegIx) (k : BitVec 4) (z : BitVec 3) : lengthOf (.ldsFmt x d a k z) = 1 := rfl
@[simp] theorem lengthOf_ldsWaitFmt (x : Bool) (d a : RegIx) (k : BitVec 4) (z : BitVec 3) : lengthOf (.ldsWaitFmt x d a k z) = 1 := rfl
@[simp] theorem lengthOf_prefetch (x : Bool) (a : RegIx) : lengthOf (.prefetch x a) = 1 := rfl
@[simp] theorem lengthOf_prefetchLit (x : Bool) (a : RegIx) (p : BitVec 1) (m : BitVec 3) (lit : Word) : lengthOf (.prefetchLit x a p m lit) = 2 := rfl
@[simp] theorem lengthOf_prefetchW (x : Bool) (a : RegIx) : lengthOf (.prefetchW x a) = 1 := rfl
@[simp] theorem lengthOf_prefetchWLit (x : Bool) (a : RegIx) (p : BitVec 1) (m : BitVec 3) (lit : Word) : lengthOf (.prefetchWLit x a p m lit) = 2 := rfl
@[simp] theorem lengthOf_evict (x : Bool) (a : RegIx) : lengthOf (.evict x a) = 1 := rfl
@[simp] theorem lengthOf_tlbinvVa (x : Bool) (a : RegIx) : lengthOf (.tlbinvVa x a) = 1 := rfl
@[simp] theorem lengthOf_tlbinvAll (x : Bool) : lengthOf (.tlbinvAll x) = 1 := rfl
@[simp] theorem lengthOf_copyG2s (x : Bool) (d a b : RegIx) : lengthOf (.copyG2s x d a b) = 1 := rfl
@[simp] theorem lengthOf_copyS2g (x : Bool) (d a b : RegIx) : lengthOf (.copyS2g x d a b) = 1 := rfl
@[simp] theorem lengthOf_copyG2g (x : Bool) (d a b : RegIx) : lengthOf (.copyG2g x d a b) = 1 := rfl
@[simp] theorem lengthOf_gather (x : Bool) (d a b : RegIx) (lit : Word) : lengthOf (.gather x d a b lit) = 2 := rfl
@[simp] theorem lengthOf_scatter (x : Bool) (d a b : RegIx) (lit : Word) : lengthOf (.scatter x d a b lit) = 2 := rfl
@[simp] theorem lengthOf_modset (x : Bool) (n : BitVec 3) (a b : RegIx) : lengthOf (.modset x n a b) = 1 := rfl
@[simp] theorem lengthOf_modrd (x : Bool) (d : RegIx) (n : BitVec 3) : lengthOf (.modrd x d n) = 1 := rfl
@[simp] theorem lengthOf_atom32 (x : Bool) (o : BitVec 4) (d a b : RegIx) : lengthOf (.atom32 x o d a b) = 1 := rfl
@[simp] theorem lengthOf_atomCasB32 (x : Bool) (d a b : RegIx) : lengthOf (.atomCasB32 x d a b) = 1 := rfl
@[simp] theorem lengthOf_atom64 (x : Bool) (o : BitVec 4) (d a b : RegIx) : lengthOf (.atom64 x o d a b) = 1 := rfl
@[simp] theorem lengthOf_atomCasB64 (x : Bool) (d a b : RegIx) : lengthOf (.atomCasB64 x d a b) = 1 := rfl
@[simp] theorem lengthOf_redAddS32 (x : Bool) (a b : RegIx) : lengthOf (.redAddS32 x a b) = 1 := rfl
@[simp] theorem lengthOf_redAddS64 (x : Bool) (a b : RegIx) : lengthOf (.redAddS64 x a b) = 1 := rfl
@[simp] theorem lengthOf_redAddF32 (x : Bool) (a b : RegIx) : lengthOf (.redAddF32 x a b) = 1 := rfl
@[simp] theorem lengthOf_redAddBf16x2 (x : Bool) (a b : RegIx) : lengthOf (.redAddBf16x2 x a b) = 1 := rfl
@[simp] theorem lengthOf_redAtomic (x : Bool) (o : BitVec 4) (a b : RegIx) : lengthOf (.redAtomic x o a b) = 1 := rfl
@[simp] theorem lengthOf_tryLane (x : Bool) (d : RegIx) (lit : Word) : lengthOf (.tryLane x d lit) = 2 := rfl
@[simp] theorem lengthOf_tryGroup (x : Bool) (d : RegIx) (lit : Word) : lengthOf (.tryGroup x d lit) = 2 := rfl
@[simp] theorem lengthOf_commit (x : Bool) : lengthOf (.commit x) = 1 := rfl
@[simp] theorem lengthOf_commitRel (x : Bool) (c : BitVec 3) : lengthOf (.commitRel x c) = 1 := rfl
@[simp] theorem lengthOf_abort (x : Bool) (lit : Word) : lengthOf (.abort x lit) = 2 := rfl
@[simp] theorem lengthOf_tstat (x : Bool) (d : RegIx) : lengthOf (.tstat x d) = 1 := rfl
@[simp] theorem lengthOf_fence (x : Bool) (c : BitVec 3) : lengthOf (.fence x c) = 1 := rfl
@[simp] theorem lengthOf_barSync (x : Bool) (n : BitVec 3) : lengthOf (.barSync x n) = 1 := rfl
@[simp] theorem lengthOf_barArrive (x : Bool) (d : RegIx) (n : BitVec 3) : lengthOf (.barArrive x d n) = 1 := rfl
@[simp] theorem lengthOf_barWait (x : Bool) (a : RegIx) (n : BitVec 3) : lengthOf (.barWait x a n) = 1 := rfl
@[simp] theorem lengthOf_barInit (x : Bool) (lit : Word) : lengthOf (.barInit x lit) = 2 := rfl
@[simp] theorem lengthOf_cvset (x : Bool) (n : BitVec 3) : lengthOf (.cvset x n) = 1 := rfl
@[simp] theorem lengthOf_cvsetMask (x : Bool) (a : RegIx) (n : BitVec 3) : lengthOf (.cvsetMask x a n) = 1 := rfl
@[simp] theorem lengthOf_cvwait (x : Bool) (n : BitVec 3) : lengthOf (.cvwait x n) = 1 := rfl
@[simp] theorem lengthOf_cvrd (x : Bool) (d : RegIx) (n : BitVec 3) : lengthOf (.cvrd x d n) = 1 := rfl
@[simp] theorem lengthOf_pipePut (x : Bool) (a : RegIx) (n : BitVec 2) : lengthOf (.pipePut x a n) = 1 := rfl
@[simp] theorem lengthOf_pipeGet (x : Bool) (d : RegIx) (n : BitVec 2) : lengthOf (.pipeGet x d n) = 1 := rfl
@[simp] theorem lengthOf_qsig (x : Bool) (c : BitVec 3) (a b : RegIx) : lengthOf (.qsig x c a b) = 1 := rfl
@[simp] theorem lengthOf_qwait (x : Bool) (d a b : RegIx) : lengthOf (.qwait x d a b) = 1 := rfl
@[simp] theorem lengthOf_mma (x : Bool) (d a b : RegIx) (lit : Word) : lengthOf (.mma x d a b lit) = 2 := rfl
@[simp] theorem lengthOf_mmaSp (x : Bool) (d a b : RegIx) (lit : Word) : lengthOf (.mmaSp x d a b lit) = 2 := rfl
@[simp] theorem lengthOf_mrsv (x : Bool) (d : RegIx) (n : BitVec 4) : lengthOf (.mrsv x d n) = 1 := rfl
@[simp] theorem lengthOf_mrel (x : Bool) (n : BitVec 4) : lengthOf (.mrel x n) = 1 := rfl
@[simp] theorem lengthOf_mrdF32 (x : Bool) (d : RegIx) (c : BitVec 3) (n : BitVec 4) : lengthOf (.mrdF32 x d c n) = 1 := rfl
@[simp] theorem lengthOf_mrdS32 (x : Bool) (d : RegIx) (c : BitVec 3) (n : BitVec 4) : lengthOf (.mrdS32 x d c n) = 1 := rfl
@[simp] theorem lengthOf_mwr (x : Bool) (a : RegIx) (c : BitVec 3) (n : BitVec 4) : lengthOf (.mwr x a c n) = 1 := rfl
@[simp] theorem lengthOf_mzero (x : Bool) (n : BitVec 4) : lengthOf (.mzero x n) = 1 := rfl
@[simp] theorem lengthOf_trace (x : Bool) (d a b : RegIx) (lit : Word) : lengthOf (.trace x d a b lit) = 2 := rfl
@[simp] theorem lengthOf_traceEmit (x : Bool) (d a b : RegIx) (lit : Word) : lengthOf (.traceEmit x d a b lit) = 2 := rfl
@[simp] theorem lengthOf_asbuild (x : Bool) (d a : RegIx) (n : BitVec 1) : lengthOf (.asbuild x d a n) = 1 := rfl
@[simp] theorem lengthOf_asbuildUpdate (x : Bool) (d a : RegIx) (n : BitVec 1) : lengthOf (.asbuildUpdate x d a n) = 1 := rfl
@[simp] theorem lengthOf_asrefit (x : Bool) (d a : RegIx) (n : BitVec 1) : lengthOf (.asrefit x d a n) = 1 := rfl
@[simp] theorem lengthOf_asretire (x : Bool) (d a : RegIx) (n : BitVec 1) : lengthOf (.asretire x d a n) = 1 := rfl
@[simp] theorem lengthOf_launch (x : Bool) (d a : RegIx) : lengthOf (.launch x d a) = 1 := rfl
@[simp] theorem lengthOf_emit (x : Bool) (a b : RegIx) : lengthOf (.emit x a b) = 1 := rfl
@[simp] theorem lengthOf_bra (x : Bool) (lit : Word) : lengthOf (.bra x lit) = 2 := rfl
@[simp] theorem lengthOf_exit (x : Bool) : lengthOf (.exit x) = 1 := rfl
@[simp] theorem lengthOf_brz (x : Bool) (a : RegIx) (lit : Word) : lengthOf (.brz x a lit) = 2 := rfl
@[simp] theorem lengthOf_brnz (x : Bool) (a : RegIx) (lit : Word) : lengthOf (.brnz x a lit) = 2 := rfl
@[simp] theorem lengthOf_call (x : Bool) (d : RegIx) (lit : Word) : lengthOf (.call x d lit) = 2 := rfl
@[simp] theorem lengthOf_ret (x : Bool) (a : RegIx) : lengthOf (.ret x a) = 1 := rfl
@[simp] theorem lengthOf_callr (x : Bool) (d a : RegIx) : lengthOf (.callr x d a) = 1 := rfl
@[simp] theorem lengthOf_yield (x : Bool) : lengthOf (.yield x) = 1 := rfl
@[simp] theorem lengthOf_rdsys (x : Bool) (d : RegIx) (i : BitVec 7) : lengthOf (.rdsys x d i) = 1 := rfl
@[simp] theorem lengthOf_trap (x : Bool) (i : BitVec 7) : lengthOf (.trap x i) = 1 := rfl
@[simp] theorem lengthOf_bkpt (x : Bool) : lengthOf (.bkpt x) = 1 := rfl
@[simp] theorem lengthOf_nopFill (x : Bool) : lengthOf (.nopFill x) = 1 := rfl
@[simp] theorem lengthOf_rett (x : Bool) (d a : RegIx) : lengthOf (.rett x d a) = 1 := rfl
@[simp] theorem lengthOf_grd (x : Bool) (d a : RegIx) : lengthOf (.grd x d a) = 1 := rfl
@[simp] theorem lengthOf_gwr (x : Bool) (d a : RegIx) : lengthOf (.gwr x d a) = 1 := rfl
@[simp] theorem lengthOf_evwait (x : Bool) (d : RegIx) : lengthOf (.evwait x d) = 1 := rfl
@[simp] theorem lengthOf_unallocatedOpcode (word : Word) : lengthOf (.unallocatedOpcode word) = 1 := rfl

/-! ## Meanings -/

theorem exec_movB32 (x : Bool) (d a : RegIx) (s : State) : exec (.movB32 x d a) s = execMovB32 x d a s := rfl
theorem exec_movB32Lit (x : Bool) (d : RegIx) (lit : Word) (s : State) : exec (.movB32Lit x d lit) s = execMovB32Lit x d lit s := rfl
theorem exec_movB64 (x : Bool) (d a : RegIx) (s : State) : exec (.movB64 x d a) s = execMovB64 x d a s := rfl
theorem exec_movS64Lit (x : Bool) (d : RegIx) (lit : Word) (s : State) : exec (.movS64Lit x d lit) s = execMovS64Lit x d lit s := rfl
theorem exec_iaddS32 (x : Bool) (d a b : RegIx) (s : State) : exec (.iaddS32 x d a b) s = execIaddS32 x d a b s := rfl
theorem exec_iaddS32Imm (x : Bool) (d a : RegIx) (i : BitVec 7) (s : State) : exec (.iaddS32Imm x d a i) s = execIaddS32Imm x d a i s := rfl
theorem exec_iaddS32Lit (x : Bool) (d a : RegIx) (lit : Word) (s : State) : exec (.iaddS32Lit x d a lit) s = execIaddS32Lit x d a lit s := rfl
theorem exec_isubS32 (x : Bool) (d a b : RegIx) (s : State) : exec (.isubS32 x d a b) s = execIsubS32 x d a b s := rfl
theorem exec_imulS32 (x : Bool) (d a b : RegIx) (s : State) : exec (.imulS32 x d a b) s = execImulS32 x d a b s := rfl
theorem exec_imulS32Lit (x : Bool) (d a : RegIx) (lit : Word) (s : State) : exec (.imulS32Lit x d a lit) s = execImulS32Lit x d a lit s := rfl
theorem exec_imulhiS32 (x : Bool) (d a b : RegIx) (s : State) : exec (.imulhiS32 x d a b) s = execImulhiS32 x d a b s := rfl
theorem exec_imulhiN32 (x : Bool) (d a b : RegIx) (s : State) : exec (.imulhiN32 x d a b) s = execImulhiN32 x d a b s := rfl
theorem exec_imadS32 (x : Bool) (d a b : RegIx) (s : State) : exec (.imadS32 x d a b) s = execImadS32 x d a b s := rfl
theorem exec_iaddS32Sat (x : Bool) (d a b : RegIx) (s : State) : exec (.iaddS32Sat x d a b) s = execIaddS32Sat x d a b s := rfl
theorem exec_isubS32Sat (x : Bool) (d a b : RegIx) (s : State) : exec (.isubS32Sat x d a b) s = execIsubS32Sat x d a b s := rfl
theorem exec_inegS32 (x : Bool) (d a : RegIx) (s : State) : exec (.inegS32 x d a) s = execInegS32 x d a s := rfl
theorem exec_iminS32 (x : Bool) (d a b : RegIx) (s : State) : exec (.iminS32 x d a b) s = execIminS32 x d a b s := rfl
theorem exec_iminN32 (x : Bool) (d a b : RegIx) (s : State) : exec (.iminN32 x d a b) s = execIminN32 x d a b s := rfl
theorem exec_imaxS32 (x : Bool) (d a b : RegIx) (s : State) : exec (.imaxS32 x d a b) s = execImaxS32 x d a b s := rfl
theorem exec_imaxN32 (x : Bool) (d a b : RegIx) (s : State) : exec (.imaxN32 x d a b) s = execImaxN32 x d a b s := rfl
theorem exec_iabsS32 (x : Bool) (d a : RegIx) (s : State) : exec (.iabsS32 x d a) s = execIabsS32 x d a s := rfl
theorem exec_andB32 (x : Bool) (d a b : RegIx) (s : State) : exec (.andB32 x d a b) s = execAndB32 x d a b s := rfl
theorem exec_andB32Lit (x : Bool) (d a : RegIx) (lit : Word) (s : State) : exec (.andB32Lit x d a lit) s = execAndB32Lit x d a lit s := rfl
theorem exec_orB32 (x : Bool) (d a b : RegIx) (s : State) : exec (.orB32 x d a b) s = execOrB32 x d a b s := rfl
theorem exec_orB32Lit (x : Bool) (d a : RegIx) (lit : Word) (s : State) : exec (.orB32Lit x d a lit) s = execOrB32Lit x d a lit s := rfl
theorem exec_xorB32 (x : Bool) (d a b : RegIx) (s : State) : exec (.xorB32 x d a b) s = execXorB32 x d a b s := rfl
theorem exec_xorB32Lit (x : Bool) (d a : RegIx) (lit : Word) (s : State) : exec (.xorB32Lit x d a lit) s = execXorB32Lit x d a lit s := rfl
theorem exec_andnB32 (x : Bool) (d a b : RegIx) (s : State) : exec (.andnB32 x d a b) s = execAndnB32 x d a b s := rfl
theorem exec_notB32 (x : Bool) (d a : RegIx) (s : State) : exec (.notB32 x d a) s = execNotB32 x d a s := rfl
theorem exec_shlB32 (x : Bool) (d a b : RegIx) (s : State) : exec (.shlB32 x d a b) s = execShlB32 x d a b s := rfl
theorem exec_shlB32Imm (x : Bool) (d a : RegIx) (i : BitVec 7) (s : State) : exec (.shlB32Imm x d a i) s = execShlB32Imm x d a i s := rfl
theorem exec_shrN32 (x : Bool) (d a b : RegIx) (s : State) : exec (.shrN32 x d a b) s = execShrN32 x d a b s := rfl
theorem exec_shrN32Imm (x : Bool) (d a : RegIx) (i : BitVec 7) (s : State) : exec (.shrN32Imm x d a i) s = execShrN32Imm x d a i s := rfl
theorem exec_shrS32 (x : Bool) (d a b : RegIx) (s : State) : exec (.shrS32 x d a b) s = execShrS32 x d a b s := rfl
theorem exec_shrS32Imm (x : Bool) (d a : RegIx) (i : BitVec 7) (s : State) : exec (.shrS32Imm x d a i) s = execShrS32Imm x d a i s := rfl
theorem exec_bfxN32 (x : Bool) (d a : RegIx) (lit : Word) (s : State) : exec (.bfxN32 x d a lit) s = execBfxN32 x d a lit s := rfl
theorem exec_bfxS32 (x : Bool) (d a : RegIx) (lit : Word) (s : State) : exec (.bfxS32 x d a lit) s = execBfxS32 x d a lit s := rfl
theorem exec_bfiB32 (x : Bool) (d a : RegIx) (lit : Word) (s : State) : exec (.bfiB32 x d a lit) s = execBfiB32 x d a lit s := rfl
theorem exec_popcB32 (x : Bool) (d a : RegIx) (s : State) : exec (.popcB32 x d a) s = execPopcB32 x d a s := rfl
theorem exec_clzB32 (x : Bool) (d a : RegIx) (s : State) : exec (.clzB32 x d a) s = execClzB32 x d a s := rfl
theorem exec_brevB32 (x : Bool) (d a : RegIx) (s : State) : exec (.brevB32 x d a) s = execBrevB32 x d a s := rfl
theorem exec_iaddS64 (x : Bool) (d a b : RegIx) (s : State) : exec (.iaddS64 x d a b) s = execIaddS64 x d a b s := rfl
theorem exec_iaddS64Lit (x : Bool) (d a : RegIx) (lit : Word) (s : State) : exec (.iaddS64Lit x d a lit) s = execIaddS64Lit x d a lit s := rfl
theorem exec_isubS64 (x : Bool) (d a b : RegIx) (s : State) : exec (.isubS64 x d a b) s = execIsubS64 x d a b s := rfl
theorem exec_leaS32 (x : Bool) (d a b : RegIx) (lit : Word) (s : State) : exec (.leaS32 x d a b lit) s = execLeaS32 x d a b lit s := rfl
theorem exec_leaN32 (x : Bool) (d a b : RegIx) (lit : Word) (s : State) : exec (.leaN32 x d a b lit) s = execLeaN32 x d a b lit s := rfl
theorem exec_shlB64 (x : Bool) (d a : RegIx) (i : BitVec 7) (s : State) : exec (.shlB64 x d a i) s = execShlB64 x d a i s := rfl
theorem exec_shrN64 (x : Bool) (d a : RegIx) (i : BitVec 7) (s : State) : exec (.shrN64 x d a i) s = execShrN64 x d a i s := rfl
theorem exec_shrS64 (x : Bool) (d a : RegIx) (i : BitVec 7) (s : State) : exec (.shrS64 x d a i) s = execShrS64 x d a i s := rfl
theorem exec_imulwS32 (x : Bool) (d a b : RegIx) (s : State) : exec (.imulwS32 x d a b) s = execImulwS32 x d a b s := rfl
theorem exec_imulwN32 (x : Bool) (d a b : RegIx) (s : State) : exec (.imulwN32 x d a b) s = execImulwN32 x d a b s := rfl
theorem exec_icmpS32 (x : Bool) (c : BitVec 3) (d a b : RegIx) (s : State) : exec (.icmpS32 x c d a b) s = execIcmpS32 x c d a b s := rfl
theorem exec_icmpN32 (x : Bool) (c : BitVec 3) (d a b : RegIx) (s : State) : exec (.icmpN32 x c d a b) s = execIcmpN32 x c d a b s := rfl
theorem exec_icmpS32Lit (x : Bool) (c : BitVec 3) (d a : RegIx) (lit : Word) (s : State) : exec (.icmpS32Lit x c d a lit) s = execIcmpS32Lit x c d a lit s := rfl
theorem exec_selB32 (x : Bool) (d a b : RegIx) (s : State) : exec (.selB32 x d a b) s = execSelB32 x d a b s := rfl
theorem exec_selB64 (x : Bool) (d a b : RegIx) (s : State) : exec (.selB64 x d a b) s = execSelB64 x d a b s := rfl
theorem exec_icmpEqB64 (x : Bool) (d a b : RegIx) (s : State) : exec (.icmpEqB64 x d a b) s = execIcmpEqB64 x d a b s := rfl
theorem exec_icmpLtS64 (x : Bool) (d a b : RegIx) (s : State) : exec (.icmpLtS64 x d a b) s = execIcmpLtS64 x d a b s := rfl
theorem exec_icmpLtN64 (x : Bool) (d a b : RegIx) (s : State) : exec (.icmpLtN64 x d a b) s = execIcmpLtN64 x d a b s := rfl
theorem exec_voteBallot (x : Bool) (d a : RegIx) (s : State) : exec (.voteBallot x d a) s = execVoteBallot x d a s := rfl
theorem exec_voteAny (x : Bool) (d a : RegIx) (s : State) : exec (.voteAny x d a) s = execVoteAny x d a s := rfl
theorem exec_voteAll (x : Bool) (d a : RegIx) (s : State) : exec (.voteAll x d a) s = execVoteAll x d a s := rfl
theorem exec_shflIdx (x : Bool) (d a b : RegIx) (s : State) : exec (.shflIdx x d a b) s = execShflIdx x d a b s := rfl
theorem exec_shflUp (x : Bool) (d a b : RegIx) (s : State) : exec (.shflUp x d a b) s = execShflUp x d a b s := rfl
theorem exec_shflDown (x : Bool) (d a b : RegIx) (s : State) : exec (.shflDown x d a b) s = execShflDown x d a b s := rfl
theorem exec_shflXor (x : Bool) (d a b : RegIx) (s : State) : exec (.shflXor x d a b) s = execShflXor x d a b s := rfl
theorem exec_shflDownImm (x : Bool) (d a : RegIx) (i : BitVec 5) (s : State) : exec (.shflDownImm x d a i) s = execShflDownImm x d a i s := rfl
theorem exec_shflXorImm (x : Bool) (d a : RegIx) (i : BitVec 5) (s : State) : exec (.shflXorImm x d a i) s = execShflXorImm x d a i s := rfl
theorem exec_matchB32 (x : Bool) (d a : RegIx) (s : State) : exec (.matchB32 x d a) s = execMatchB32 x d a s := rfl
theorem exec_gred (x : Bool) (d a : RegIx) (o : BitVec 3) (s : State) : exec (.gred x d a o) s = execGred x d a o s := rfl
theorem exec_reorder (x : Bool) (d a : RegIx) (s : State) : exec (.reorder x d a) s = execReorder x d a s := rfl
theorem exec_reggrow (x : Bool) (d : RegIx) (n : BitVec 5) (s : State) : exec (.reggrow x d n) s = execReggrow x d n s := rfl
theorem exec_regshrink (x : Bool) (d : RegIx) (n : BitVec 5) (s : State) : exec (.regshrink x d n) s = execRegshrink x d n s := rfl
theorem exec_movxRd (x : Bool) (d a : RegIx) (s : State) : exec (.movxRd x d a) s = execMovxRd x d a s := rfl
theorem exec_movxWr (x : Bool) (d a : RegIx) (s : State) : exec (.movxWr x d a) s = execMovxWr x d a s := rfl
theorem exec_movxRdB64 (x : Bool) (d a : RegIx) (s : State) : exec (.movxRdB64 x d a) s = execMovxRdB64 x d a s := rfl
theorem exec_movxWrB64 (x : Bool) (d a : RegIx) (s : State) : exec (.movxWrB64 x d a) s = execMovxWrB64 x d a s := rfl
theorem exec_faddF32 (x : Bool) (r : BitVec 2) (d a b : RegIx) (s : State) : exec (.faddF32 x r d a b) s = execFaddF32 x r d a b s := rfl
theorem exec_fsubF32 (x : Bool) (r : BitVec 2) (d a b : RegIx) (s : State) : exec (.fsubF32 x r d a b) s = execFsubF32 x r d a b s := rfl
theorem exec_fmulF32 (x : Bool) (r : BitVec 2) (d a b : RegIx) (s : State) : exec (.fmulF32 x r d a b) s = execFmulF32 x r d a b s := rfl
theorem exec_ffmaF32 (x : Bool) (r : BitVec 2) (d a b : RegIx) (s : State) : exec (.ffmaF32 x r d a b) s = execFfmaF32 x r d a b s := rfl
theorem exec_fminF32 (x : Bool) (d a b : RegIx) (s : State) : exec (.fminF32 x d a b) s = execFminF32 x d a b s := rfl
theorem exec_fmaxF32 (x : Bool) (d a b : RegIx) (s : State) : exec (.fmaxF32 x d a b) s = execFmaxF32 x d a b s := rfl
theorem exec_fnegF32 (x : Bool) (d a : RegIx) (s : State) : exec (.fnegF32 x d a) s = execFnegF32 x d a s := rfl
theorem exec_fabsF32 (x : Bool) (d a : RegIx) (s : State) : exec (.fabsF32 x d a) s = execFabsF32 x d a s := rfl
theorem exec_fcmpF32 (x : Bool) (c : BitVec 4) (d a b : RegIx) (s : State) : exec (.fcmpF32 x c d a b) s = execFcmpF32 x c d a b s := rfl
theorem exec_fcmpUnordF32 (x : Bool) (d a b : RegIx) (s : State) : exec (.fcmpUnordF32 x d a b) s = execFcmpUnordF32 x d a b s := rfl
theorem exec_fclassF32 (x : Bool) (d a : RegIx) (s : State) : exec (.fclassF32 x d a) s = execFclassF32 x d a s := rfl
theorem exec_faddF32Lit (x : Bool) (d a : RegIx) (lit : Word) (s : State) : exec (.faddF32Lit x d a lit) s = execFaddF32Lit x d a lit s := rfl
theorem exec_fmulF32Lit (x : Bool) (d a : RegIx) (lit : Word) (s : State) : exec (.fmulF32Lit x d a lit) s = execFmulF32Lit x d a lit s := rfl
theorem exec_fgredAddF32 (x : Bool) (d a : RegIx) (s : State) : exec (.fgredAddF32 x d a) s = execFgredAddF32 x d a s := rfl
theorem exec_fgredMinF32 (x : Bool) (d a : RegIx) (s : State) : exec (.fgredMinF32 x d a) s = execFgredMinF32 x d a s := rfl
theorem exec_fgredMaxF32 (x : Bool) (d a : RegIx) (s : State) : exec (.fgredMaxF32 x d a) s = execFgredMaxF32 x d a s := rfl
theorem exec_frintF32 (x : Bool) (r : BitVec 2) (d a : RegIx) (s : State) : exec (.frintF32 x r d a) s = execFrintF32 x r d a s := rfl
theorem exec_hadd (x : Bool) (f : BitVec 1) (d a b : RegIx) (s : State) : exec (.hadd x f d a b) s = execHadd x f d a b s := rfl
theorem exec_hsub (x : Bool) (f : BitVec 1) (d a b : RegIx) (s : State) : exec (.hsub x f d a b) s = execHsub x f d a b s := rfl
theorem exec_hmul (x : Bool) (f : BitVec 1) (d a b : RegIx) (s : State) : exec (.hmul x f d a b) s = execHmul x f d a b s := rfl
theorem exec_hfma (x : Bool) (f : BitVec 1) (d a b : RegIx) (s : State) : exec (.hfma x f d a b) s = execHfma x f d a b s := rfl
theorem exec_hmin (x : Bool) (f : BitVec 1) (d a b : RegIx) (s : State) : exec (.hmin x f d a b) s = execHmin x f d a b s := rfl
theorem exec_hmax (x : Bool) (f : BitVec 1) (d a b : RegIx) (s : State) : exec (.hmax x f d a b) s = execHmax x f d a b s := rfl
theorem exec_hneg (x : Bool) (f : BitVec 1) (d a : RegIx) (s : State) : exec (.hneg x f d a) s = execHneg x f d a s := rfl
theorem exec_habs (x : Bool) (f : BitVec 1) (d a : RegIx) (s : State) : exec (.habs x f d a) s = execHabs x f d a s := rfl
theorem exec_rcpF32 (x : Bool) (d a : RegIx) (r : BitVec 2) (s : State) : exec (.rcpF32 x d a r) s = execRcpF32 x d a r s := rfl
theorem exec_sqrtF32 (x : Bool) (d a : RegIx) (r : BitVec 2) (s : State) : exec (.sqrtF32 x d a r) s = execSqrtF32 x d a r s := rfl
theorem exec_rsqF32 (x : Bool) (d a : RegIx) (r : BitVec 2) (s : State) : exec (.rsqF32 x d a r) s = execRsqF32 x d a r s := rfl
theorem exec_exp2F32 (x : Bool) (d a : RegIx) (r : BitVec 2) (s : State) : exec (.exp2F32 x d a r) s = execExp2F32 x d a r s := rfl
theorem exec_log2F32 (x : Bool) (d a : RegIx) (r : BitVec 2) (s : State) : exec (.log2F32 x d a r) s = execLog2F32 x d a r s := rfl
theorem exec_sinF32 (x : Bool) (d a : RegIx) (r : BitVec 2) (s : State) : exec (.sinF32 x d a r) s = execSinF32 x d a r s := rfl
theorem exec_cosF32 (x : Bool) (d a : RegIx) (r : BitVec 2) (s : State) : exec (.cosF32 x d a r) s = execCosF32 x d a r s := rfl
theorem exec_cvt (x : Bool) (d a : RegIx) (lit : Word) (s : State) : exec (.cvt x d a lit) s = execCvt x d a lit s := rfl
theorem exec_packMx (x : Bool) (f : BitVec 3) (d a : RegIx) (lit : Word) (s : State) : exec (.packMx x f d a lit) s = execPackMx x f d a lit s := rfl
theorem exec_unpackMx (x : Bool) (f : BitVec 3) (d a : RegIx) (lit : Word) (s : State) : exec (.unpackMx x f d a lit) s = execUnpackMx x f d a lit s := rfl
theorem exec_packAq4 (x : Bool) (d a b : RegIx) (lit : Word) (s : State) : exec (.packAq4 x d a b lit) s = execPackAq4 x d a b lit s := rfl
theorem exec_unpackAq4 (x : Bool) (d a b : RegIx) (lit : Word) (s : State) : exec (.unpackAq4 x d a b lit) s = execUnpackAq4 x d a b lit s := rfl
theorem exec_tag (x : Bool) (d a : RegIx) (k : BitVec 4) (s : State) : exec (.tag x d a k) s = execTag x d a k s := rfl
theorem exec_rdtag (x : Bool) (d a : RegIx) (s : State) : exec (.rdtag x d a) s = execRdtag x d a s := rfl
theorem exec_ld (x : Bool) (d a : RegIx) (z : BitVec 3) (s : State) : exec (.ld x d a z) s = execLd x d a z s := rfl
theorem exec_ldLit (x : Bool) (d a : RegIx) (p : BitVec 1) (m z : BitVec 3) (lit : Word) (s : State) : exec (.ldLit x d a p m z lit) s = execLdLit x d a p m z lit s := rfl
theorem exec_ldSpec (x : Bool) (d a : RegIx) (z : BitVec 3) (s : State) : exec (.ldSpec x d a z) s = execLdSpec x d a z s := rfl
theorem exec_ldSpecLit (x : Bool) (d a : RegIx) (p : BitVec 1) (m z : BitVec 3) (lit : Word) (s : State) : exec (.ldSpecLit x d a p m z lit) s = execLdSpecLit x d a p m z lit s := rfl
theorem exec_st (x : Bool) (d a : RegIx) (z : BitVec 3) (s : State) : exec (.st x d a z) s = execSt x d a z s := rfl
theorem exec_stLit (x : Bool) (d a : RegIx) (p : BitVec 1) (m z : BitVec 3) (lit : Word) (s : State) : exec (.stLit x d a p m z lit) s = execStLit x d a p m z lit s := rfl
theorem exec_ldFmt (x : Bool) (d a : RegIx) (k : BitVec 4) (z : BitVec 3) (s : State) : exec (.ldFmt x d a k z) s = execLdFmt x d a k z s := rfl
theorem exec_ldAcq (x : Bool) (d a : RegIx) (c : BitVec 4) (z : BitVec 3) (s : State) : exec (.ldAcq x d a c z) s = execLdAcq x d a c z s := rfl
theorem exec_stRel (x : Bool) (d a : RegIx) (c : BitVec 4) (z : BitVec 3) (s : State) : exec (.stRel x d a c z) s = execStRel x d a c z s := rfl
theorem exec_lds (x : Bool) (d a : RegIx) (z : BitVec 3) (s : State) : exec (.lds x d a z) s = execLds x d a z s := rfl
theorem exec_ldsLit (x : Bool) (d a : RegIx) (p : BitVec 1) (m z : BitVec 3) (lit : Word) (s : State) : exec (.ldsLit x d a p m z lit) s = execLdsLit x d a p m z lit s := rfl
theorem exec_ldsWait (x : Bool) (d a : RegIx) (z : BitVec 3) (s : State) : exec (.ldsWait x d a z) s = execLdsWait x d a z s := rfl
theorem exec_ldsWaitLit (x : Bool) (d a : RegIx) (p : BitVec 1) (m z : BitVec 3) (lit : Word) (s : State) : exec (.ldsWaitLit x d a p m z lit) s = execLdsWaitLit x d a p m z lit s := rfl
theorem exec_ldsWaitClr (x : Bool) (d a : RegIx) (z : BitVec 3) (s : State) : exec (.ldsWaitClr x d a z) s = execLdsWaitClr x d a z s := rfl
theorem exec_ldsWaitClrLit (x : Bool) (d a : RegIx) (p : BitVec 1) (m z : BitVec 3) (lit : Word) (s : State) : exec (.ldsWaitClrLit x d a p m z lit) s = execLdsWaitClrLit x d a p m z lit s := rfl
theorem exec_sts (x : Bool) (d a : RegIx) (z : BitVec 3) (s : State) : exec (.sts x d a z) s = execSts x d a z s := rfl
theorem exec_stsLit (x : Bool) (d a : RegIx) (p : BitVec 1) (m z : BitVec 3) (lit : Word) (s : State) : exec (.stsLit x d a p m z lit) s = execStsLit x d a p m z lit s := rfl
theorem exec_stsSet (x : Bool) (d a : RegIx) (z : BitVec 3) (s : State) : exec (.stsSet x d a z) s = execStsSet x d a z s := rfl
theorem exec_stsSetLit (x : Bool) (d a : RegIx) (p : BitVec 1) (m z : BitVec 3) (lit : Word) (s : State) : exec (.stsSetLit x d a p m z lit) s = execStsSetLit x d a p m z lit s := rfl
theorem exec_ldsFmt (x : Bool) (d a : RegIx) (k : BitVec 4) (z : BitVec 3) (s : State) : exec (.ldsFmt x d a k z) s = execLdsFmt x d a k z s := rfl
theorem exec_ldsWaitFmt (x : Bool) (d a : RegIx) (k : BitVec 4) (z : BitVec 3) (s : State) : exec (.ldsWaitFmt x d a k z) s = execLdsWaitFmt x d a k z s := rfl
theorem exec_prefetch (x : Bool) (a : RegIx) (s : State) : exec (.prefetch x a) s = execPrefetch x a s := rfl
theorem exec_prefetchLit (x : Bool) (a : RegIx) (p : BitVec 1) (m : BitVec 3) (lit : Word) (s : State) : exec (.prefetchLit x a p m lit) s = execPrefetchLit x a p m lit s := rfl
theorem exec_prefetchW (x : Bool) (a : RegIx) (s : State) : exec (.prefetchW x a) s = execPrefetchW x a s := rfl
theorem exec_prefetchWLit (x : Bool) (a : RegIx) (p : BitVec 1) (m : BitVec 3) (lit : Word) (s : State) : exec (.prefetchWLit x a p m lit) s = execPrefetchWLit x a p m lit s := rfl
theorem exec_evict (x : Bool) (a : RegIx) (s : State) : exec (.evict x a) s = execEvict x a s := rfl
theorem exec_tlbinvVa (x : Bool) (a : RegIx) (s : State) : exec (.tlbinvVa x a) s = execTlbinvVa x a s := rfl
theorem exec_tlbinvAll (x : Bool) (s : State) : exec (.tlbinvAll x) s = execTlbinvAll x s := rfl
theorem exec_copyG2s (x : Bool) (d a b : RegIx) (s : State) : exec (.copyG2s x d a b) s = execCopyG2s x d a b s := rfl
theorem exec_copyS2g (x : Bool) (d a b : RegIx) (s : State) : exec (.copyS2g x d a b) s = execCopyS2g x d a b s := rfl
theorem exec_copyG2g (x : Bool) (d a b : RegIx) (s : State) : exec (.copyG2g x d a b) s = execCopyG2g x d a b s := rfl
theorem exec_gather (x : Bool) (d a b : RegIx) (lit : Word) (s : State) : exec (.gather x d a b lit) s = execGather x d a b lit s := rfl
theorem exec_scatter (x : Bool) (d a b : RegIx) (lit : Word) (s : State) : exec (.scatter x d a b lit) s = execScatter x d a b lit s := rfl
theorem exec_modset (x : Bool) (n : BitVec 3) (a b : RegIx) (s : State) : exec (.modset x n a b) s = execModset x n a b s := rfl
theorem exec_modrd (x : Bool) (d : RegIx) (n : BitVec 3) (s : State) : exec (.modrd x d n) s = execModrd x d n s := rfl
theorem exec_atom32 (x : Bool) (o : BitVec 4) (d a b : RegIx) (s : State) : exec (.atom32 x o d a b) s = execAtom32 x o d a b s := rfl
theorem exec_atomCasB32 (x : Bool) (d a b : RegIx) (s : State) : exec (.atomCasB32 x d a b) s = execAtomCasB32 x d a b s := rfl
theorem exec_atom64 (x : Bool) (o : BitVec 4) (d a b : RegIx) (s : State) : exec (.atom64 x o d a b) s = execAtom64 x o d a b s := rfl
theorem exec_atomCasB64 (x : Bool) (d a b : RegIx) (s : State) : exec (.atomCasB64 x d a b) s = execAtomCasB64 x d a b s := rfl
theorem exec_redAddS32 (x : Bool) (a b : RegIx) (s : State) : exec (.redAddS32 x a b) s = execRedAddS32 x a b s := rfl
theorem exec_redAddS64 (x : Bool) (a b : RegIx) (s : State) : exec (.redAddS64 x a b) s = execRedAddS64 x a b s := rfl
theorem exec_redAddF32 (x : Bool) (a b : RegIx) (s : State) : exec (.redAddF32 x a b) s = execRedAddF32 x a b s := rfl
theorem exec_redAddBf16x2 (x : Bool) (a b : RegIx) (s : State) : exec (.redAddBf16x2 x a b) s = execRedAddBf16x2 x a b s := rfl
theorem exec_redAtomic (x : Bool) (o : BitVec 4) (a b : RegIx) (s : State) : exec (.redAtomic x o a b) s = execRedAtomic x o a b s := rfl
theorem exec_tryLane (x : Bool) (d : RegIx) (lit : Word) (s : State) : exec (.tryLane x d lit) s = execTryLane x d lit s := rfl
theorem exec_tryGroup (x : Bool) (d : RegIx) (lit : Word) (s : State) : exec (.tryGroup x d lit) s = execTryGroup x d lit s := rfl
theorem exec_commit (x : Bool) (s : State) : exec (.commit x) s = execCommit x s := rfl
theorem exec_commitRel (x : Bool) (c : BitVec 3) (s : State) : exec (.commitRel x c) s = execCommitRel x c s := rfl
theorem exec_abort (x : Bool) (lit : Word) (s : State) : exec (.abort x lit) s = execAbort x lit s := rfl
theorem exec_tstat (x : Bool) (d : RegIx) (s : State) : exec (.tstat x d) s = execTstat x d s := rfl
theorem exec_fence (x : Bool) (c : BitVec 3) (s : State) : exec (.fence x c) s = execFence x c s := rfl
theorem exec_barSync (x : Bool) (n : BitVec 3) (s : State) : exec (.barSync x n) s = execBarSync x n s := rfl
theorem exec_barArrive (x : Bool) (d : RegIx) (n : BitVec 3) (s : State) : exec (.barArrive x d n) s = execBarArrive x d n s := rfl
theorem exec_barWait (x : Bool) (a : RegIx) (n : BitVec 3) (s : State) : exec (.barWait x a n) s = execBarWait x a n s := rfl
theorem exec_barInit (x : Bool) (lit : Word) (s : State) : exec (.barInit x lit) s = execBarInit x lit s := rfl
theorem exec_cvset (x : Bool) (n : BitVec 3) (s : State) : exec (.cvset x n) s = execCvset x n s := rfl
theorem exec_cvsetMask (x : Bool) (a : RegIx) (n : BitVec 3) (s : State) : exec (.cvsetMask x a n) s = execCvsetMask x a n s := rfl
theorem exec_cvwait (x : Bool) (n : BitVec 3) (s : State) : exec (.cvwait x n) s = execCvwait x n s := rfl
theorem exec_cvrd (x : Bool) (d : RegIx) (n : BitVec 3) (s : State) : exec (.cvrd x d n) s = execCvrd x d n s := rfl
theorem exec_pipePut (x : Bool) (a : RegIx) (n : BitVec 2) (s : State) : exec (.pipePut x a n) s = execPipePut x a n s := rfl
theorem exec_pipeGet (x : Bool) (d : RegIx) (n : BitVec 2) (s : State) : exec (.pipeGet x d n) s = execPipeGet x d n s := rfl
theorem exec_qsig (x : Bool) (c : BitVec 3) (a b : RegIx) (s : State) : exec (.qsig x c a b) s = execQsig x c a b s := rfl
theorem exec_qwait (x : Bool) (d a b : RegIx) (s : State) : exec (.qwait x d a b) s = execQwait x d a b s := rfl
theorem exec_mma (x : Bool) (d a b : RegIx) (lit : Word) (s : State) : exec (.mma x d a b lit) s = execMma x d a b lit s := rfl
theorem exec_mmaSp (x : Bool) (d a b : RegIx) (lit : Word) (s : State) : exec (.mmaSp x d a b lit) s = execMmaSp x d a b lit s := rfl
theorem exec_mrsv (x : Bool) (d : RegIx) (n : BitVec 4) (s : State) : exec (.mrsv x d n) s = execMrsv x d n s := rfl
theorem exec_mrel (x : Bool) (n : BitVec 4) (s : State) : exec (.mrel x n) s = execMrel x n s := rfl
theorem exec_mrdF32 (x : Bool) (d : RegIx) (c : BitVec 3) (n : BitVec 4) (s : State) : exec (.mrdF32 x d c n) s = execMrdF32 x d c n s := rfl
theorem exec_mrdS32 (x : Bool) (d : RegIx) (c : BitVec 3) (n : BitVec 4) (s : State) : exec (.mrdS32 x d c n) s = execMrdS32 x d c n s := rfl
theorem exec_mwr (x : Bool) (a : RegIx) (c : BitVec 3) (n : BitVec 4) (s : State) : exec (.mwr x a c n) s = execMwr x a c n s := rfl
theorem exec_mzero (x : Bool) (n : BitVec 4) (s : State) : exec (.mzero x n) s = execMzero x n s := rfl
theorem exec_trace (x : Bool) (d a b : RegIx) (lit : Word) (s : State) : exec (.trace x d a b lit) s = execTrace x d a b lit s := rfl
theorem exec_traceEmit (x : Bool) (d a b : RegIx) (lit : Word) (s : State) : exec (.traceEmit x d a b lit) s = execTraceEmit x d a b lit s := rfl
theorem exec_asbuild (x : Bool) (d a : RegIx) (n : BitVec 1) (s : State) : exec (.asbuild x d a n) s = execAsbuild x d a n s := rfl
theorem exec_asbuildUpdate (x : Bool) (d a : RegIx) (n : BitVec 1) (s : State) : exec (.asbuildUpdate x d a n) s = execAsbuildUpdate x d a n s := rfl
theorem exec_asrefit (x : Bool) (d a : RegIx) (n : BitVec 1) (s : State) : exec (.asrefit x d a n) s = execAsrefit x d a n s := rfl
theorem exec_asretire (x : Bool) (d a : RegIx) (n : BitVec 1) (s : State) : exec (.asretire x d a n) s = execAsretire x d a n s := rfl
theorem exec_launch (x : Bool) (d a : RegIx) (s : State) : exec (.launch x d a) s = execLaunch x d a s := rfl
theorem exec_emit (x : Bool) (a b : RegIx) (s : State) : exec (.emit x a b) s = execEmit x a b s := rfl
theorem exec_bra (x : Bool) (lit : Word) (s : State) : exec (.bra x lit) s = execBra x lit s := rfl
theorem exec_exit (x : Bool) (s : State) : exec (.exit x) s = execExit x s := rfl
theorem exec_brz (x : Bool) (a : RegIx) (lit : Word) (s : State) : exec (.brz x a lit) s = execBrz x a lit s := rfl
theorem exec_brnz (x : Bool) (a : RegIx) (lit : Word) (s : State) : exec (.brnz x a lit) s = execBrnz x a lit s := rfl
theorem exec_call (x : Bool) (d : RegIx) (lit : Word) (s : State) : exec (.call x d lit) s = execCall x d lit s := rfl
theorem exec_ret (x : Bool) (a : RegIx) (s : State) : exec (.ret x a) s = execRet x a s := rfl
theorem exec_callr (x : Bool) (d a : RegIx) (s : State) : exec (.callr x d a) s = execCallr x d a s := rfl
theorem exec_yield (x : Bool) (s : State) : exec (.yield x) s = execYield x s := rfl
theorem exec_rdsys (x : Bool) (d : RegIx) (i : BitVec 7) (s : State) : exec (.rdsys x d i) s = execRdsys x d i s := rfl
theorem exec_trap (x : Bool) (i : BitVec 7) (s : State) : exec (.trap x i) s = execTrap x i s := rfl
theorem exec_bkpt (x : Bool) (s : State) : exec (.bkpt x) s = execBkpt x s := rfl
theorem exec_nopFill (x : Bool) (s : State) : exec (.nopFill x) s = execNopFill x s := rfl
theorem exec_rett (x : Bool) (d a : RegIx) (s : State) : exec (.rett x d a) s = execRett x d a s := rfl
theorem exec_grd (x : Bool) (d a : RegIx) (s : State) : exec (.grd x d a) s = execGrd x d a s := rfl
theorem exec_gwr (x : Bool) (d a : RegIx) (s : State) : exec (.gwr x d a) s = execGwr x d a s := rfl
theorem exec_evwait (x : Bool) (d : RegIx) (s : State) : exec (.evwait x d) s = execEvwait x d s := rfl
theorem exec_unallocatedOpcode (word : Word) (s : State) : exec (.unallocatedOpcode word) s = execUnallocatedOpcode word s := rfl
theorem exec_powerOnReset (s : State) : exec .powerOnReset s = execPowerOnReset s := rfl
theorem exec_selfTestComplete (s : State) : exec .selfTestComplete s = execSelfTestComplete s := rfl
theorem exec_bootVerify (s : State) : exec .bootVerify s = execBootVerify s := rfl
theorem exec_viaductFailure (s : State) : exec .viaductFailure s = execViaductFailure s := rfl
theorem exec_thermalThrottle (s : State) : exec .thermalThrottle s = execThermalThrottle s := rfl
theorem exec_thermalTrip (s : State) : exec .thermalTrip s = execThermalTrip s := rfl
theorem exec_clockThrottleStep (s : State) : exec .clockThrottleStep s = execClockThrottleStep s := rfl
theorem exec_powerLimitSet (s : State) : exec .powerLimitSet s = execPowerLimitSet s := rfl
theorem exec_telemetryRequest (s : State) : exec .telemetryRequest s = execTelemetryRequest s := rfl
theorem exec_firmwareUpdate (s : State) : exec .firmwareUpdate s = execFirmwareUpdate s := rfl
theorem exec_firmwareActivate (s : State) : exec .firmwareActivate s = execFirmwareActivate s := rfl
theorem exec_ownershipNonce (s : State) : exec .ownershipNonce s = execOwnershipNonce s := rfl
theorem exec_releaseMessage (s : State) : exec .releaseMessage s = execReleaseMessage s := rfl
theorem exec_releaseEraseComplete (s : State) : exec .releaseEraseComplete s = execReleaseEraseComplete s := rfl
theorem exec_claimMessage (s : State) : exec .claimMessage s = execClaimMessage s := rfl
theorem exec_ownerKeyAdd (s : State) : exec .ownerKeyAdd s = execOwnerKeyAdd s := rfl
theorem exec_ownerKeyRemove (s : State) : exec .ownerKeyRemove s = execOwnerKeyRemove s := rfl
theorem exec_svnFuseBlow (s : State) : exec .svnFuseBlow s = execSvnFuseBlow s := rfl
theorem exec_debugUnlock (s : State) : exec .debugUnlock s = execDebugUnlock s := rfl
theorem exec_ownerDigestExtend (s : State) : exec .ownerDigestExtend s = execOwnerDigestExtend s := rfl
theorem exec_getVersion (s : State) : exec .getVersion s = execGetVersion s := rfl
theorem exec_getCapabilities (s : State) : exec .getCapabilities s = execGetCapabilities s := rfl
theorem exec_negotiateAlgorithms (s : State) : exec .negotiateAlgorithms s = execNegotiateAlgorithms s := rfl
theorem exec_getDigests (s : State) : exec .getDigests s = execGetDigests s := rfl
theorem exec_getCertificate (s : State) : exec .getCertificate s = execGetCertificate s := rfl
theorem exec_challenge (s : State) : exec .challenge s = execChallenge s := rfl
theorem exec_getMeasurements (s : State) : exec .getMeasurements s = execGetMeasurements s := rfl
theorem exec_keyExchange (s : State) : exec .keyExchange s = execKeyExchange s := rfl
theorem exec_finish (s : State) : exec .finish s = execFinish s := rfl
theorem exec_sriovVfEnable (s : State) : exec .sriovVfEnable s = execSriovVfEnable s := rfl
theorem exec_sriovVfDisable (s : State) : exec .sriovVfDisable s = execSriovVfDisable s := rfl
theorem exec_peerPortStateChange (s : State) : exec .peerPortStateChange s = execPeerPortStateChange s := rfl
theorem exec_hostSnoop (s : State) : exec .hostSnoop s = execHostSnoop s := rfl
theorem exec_hostMemAccess (s : State) : exec .hostMemAccess s = execHostMemAccess s := rfl
theorem exec_bisnpResponse (s : State) : exec .bisnpResponse s = execBisnpResponse s := rfl
theorem exec_hqFnCfgWrite (s : State) : exec .hqFnCfgWrite s = execHqFnCfgWrite s := rfl
theorem exec_queueEnable (s : State) : exec .queueEnable s = execQueueEnable s := rfl
theorem exec_queueDisable (s : State) : exec .queueDisable s = execQueueDisable s := rfl
theorem exec_cqEnable (s : State) : exec .cqEnable s = execCqEnable s := rfl
theorem exec_cqDisable (s : State) : exec .cqDisable s = execCqDisable s := rfl
theorem exec_cqIrqEnSet (s : State) : exec .cqIrqEnSet s = execCqIrqEnSet s := rfl
theorem exec_cqIrqEnClear (s : State) : exec .cqIrqEnClear s = execCqIrqEnClear s := rfl
theorem exec_notify (s : State) : exec .notify s = execNotify s := rfl
theorem exec_cqHeadWrite (s : State) : exec .cqHeadWrite s = execCqHeadWrite s := rfl
theorem exec_faultRingEnable (s : State) : exec .faultRingEnable s = execFaultRingEnable s := rfl
theorem exec_faultRingDisable (s : State) : exec .faultRingDisable s = execFaultRingDisable s := rfl
theorem exec_faultHeadWrite (s : State) : exec .faultHeadWrite s = execFaultHeadWrite s := rfl
theorem exec_faultResumeRetry (s : State) : exec .faultResumeRetry s = execFaultResumeRetry s := rfl
theorem exec_faultResumeAbort (s : State) : exec .faultResumeAbort s = execFaultResumeAbort s := rfl
theorem exec_plCfgWrite (s : State) : exec .plCfgWrite s = execPlCfgWrite s := rfl
theorem exec_swapGo (s : State) : exec .swapGo s = execSwapGo s := rfl
theorem exec_debugAttach (s : State) : exec .debugAttach s = execDebugAttach s := rfl
theorem exec_haltRequest (s : State) : exec .haltRequest s = execHaltRequest s := rfl
theorem exec_haltRelease (s : State) : exec .haltRelease s = execHaltRelease s := rfl
theorem exec_debugStep (s : State) : exec .debugStep s = execDebugStep s := rfl
theorem exec_traceStatusClear (s : State) : exec .traceStatusClear s = execTraceStatusClear s := rfl
theorem exec_cyclesRead (s : State) : exec .cyclesRead s = execCyclesRead s := rfl
theorem exec_registerWrite (s : State) : exec .registerWrite s = execRegisterWrite s := rfl
theorem exec_recordClaim (s : State) : exec .recordClaim s = execRecordClaim s := rfl
theorem exec_recordStart (s : State) : exec .recordStart s = execRecordStart s := rfl
theorem exec_launchGrid (s : State) : exec .launchGrid s = execLaunchGrid s := rfl
theorem exec_launchGang (s : State) : exec .launchGang s = execLaunchGang s := rfl
theorem exec_launchPool (s : State) : exec .launchPool s = execLaunchPool s := rfl
theorem exec_signalToken (s : State) : exec .signalToken s = execSignalToken s := rfl
theorem exec_waitToken (s : State) : exec .waitToken s = execWaitToken s := rfl
theorem exec_waitTokenRecheck (s : State) : exec .waitTokenRecheck s = execWaitTokenRecheck s := rfl
theorem exec_waitTokenPoll (s : State) : exec .waitTokenPoll s = execWaitTokenPoll s := rfl
theorem exec_waitTokenTimeout (s : State) : exec .waitTokenTimeout s = execWaitTokenTimeout s := rfl
theorem exec_copy (s : State) : exec .copy s = execCopy s := rfl
theorem exec_asidRoot (s : State) : exec .asidRoot s = execAsidRoot s := rfl
theorem exec_queuePriority (s : State) : exec .queuePriority s = execQueuePriority s := rfl
theorem exec_watchdogDefault (s : State) : exec .watchdogDefault s = execWatchdogDefault s := rfl
theorem exec_ageLimit (s : State) : exec .ageLimit s = execAgeLimit s := rfl
theorem exec_queueStop (s : State) : exec .queueStop s = execQueueStop s := rfl
theorem exec_nopFence (s : State) : exec .nopFence s = execNopFence s := rfl
theorem exec_launchComplete (s : State) : exec .launchComplete s = execLaunchComplete s := rfl
theorem exec_completionEntryRetry (s : State) : exec .completionEntryRetry s = execCompletionEntryRetry s := rfl
theorem exec_cqTimerExpiry (s : State) : exec .cqTimerExpiry s = execCqTimerExpiry s := rfl
theorem exec_mappingPass (s : State) : exec .mappingPass s = execMappingPass s := rfl
theorem exec_placementRecordArrival (s : State) : exec .placementRecordArrival s = execPlacementRecordArrival s := rfl
theorem exec_placementPass (s : State) : exec .placementPass s = execPlacementPass s := rfl
theorem exec_phaseTableUpdate (s : State) : exec .phaseTableUpdate s = execPhaseTableUpdate s := rfl
theorem exec_poolRecordDeliver (s : State) : exec .poolRecordDeliver s = execPoolRecordDeliver s := rfl
theorem exec_binAgeExpiry (s : State) : exec .binAgeExpiry s = execBinAgeExpiry s := rfl
theorem exec_overflowRingReturn (s : State) : exec .overflowRingReturn s = execOverflowRingReturn s := rfl
theorem exec_poolOverflowExpiry (s : State) : exec .poolOverflowExpiry s = execPoolOverflowExpiry s := rfl
theorem exec_groupExit (s : State) : exec .groupExit s = execGroupExit s := rfl
theorem exec_loadComplete (s : State) : exec .loadComplete s = execLoadComplete s := rfl
theorem exec_storePerform (s : State) : exec .storePerform s = execStorePerform s := rfl
theorem exec_matrixPass (s : State) : exec .matrixPass s = execMatrixPass s := rfl
theorem exec_transferBurst (s : State) : exec .transferBurst s = execTransferBurst s := rfl
theorem exec_nodeVisit (s : State) : exec .nodeVisit s = execNodeVisit s := rfl
theorem exec_fenceRecheck (s : State) : exec .fenceRecheck s = execFenceRecheck s := rfl
theorem exec_fencePoll (s : State) : exec .fencePoll s = execFencePoll s := rfl
theorem exec_builderTask (s : State) : exec .builderTask s = execBuilderTask s := rfl
theorem exec_topNodeRewrite (s : State) : exec .topNodeRewrite s = execTopNodeRewrite s := rfl
theorem exec_refitNode (s : State) : exec .refitNode s = execRefitNode s := rfl
theorem exec_compactorBlock (s : State) : exec .compactorBlock s = execCompactorBlock s := rfl
theorem exec_preemptStop (s : State) : exec .preemptStop s = execPreemptStop s := rfl
theorem exec_stoppingUnitReached (s : State) : exec .stoppingUnitReached s = execStoppingUnitReached s := rfl
theorem exec_contextImageWritten (s : State) : exec .contextImageWritten s = execContextImageWritten s := rfl
theorem exec_contextRestore (s : State) : exec .contextRestore s = execContextRestore s := rfl
theorem exec_trapResolution (s : State) : exec .trapResolution s = execTrapResolution s := rfl
theorem exec_faultEntryRetry (s : State) : exec .faultEntryRetry s = execFaultEntryRetry s := rfl
theorem exec_faultTimeout (s : State) : exec .faultTimeout s = execFaultTimeout s := rfl
theorem exec_watchdogExpiry (s : State) : exec .watchdogExpiry s = execWatchdogExpiry s := rfl
theorem exec_haltTimeout (s : State) : exec .haltTimeout s = execHaltTimeout s := rfl
theorem exec_eventTick (s : State) : exec .eventTick s = execEventTick s := rfl
theorem exec_pageWalk (s : State) : exec .pageWalk s = execPageWalk s := rfl
theorem exec_swapLine (s : State) : exec .swapLine s = execSwapLine s := rfl
theorem exec_swapMigAccess (s : State) : exec .swapMigAccess s = execSwapMigAccess s := rfl
theorem exec_transientRequest (s : State) : exec .transientRequest s = execTransientRequest s := rfl
theorem exec_forwardedRequest (s : State) : exec .forwardedRequest s = execForwardedRequest s := rfl
theorem exec_tokenMessage (s : State) : exec .tokenMessage s = execTokenMessage s := rfl
theorem exec_attemptTimeout (s : State) : exec .attemptTimeout s = execAttemptTimeout s := rfl
theorem exec_arb (s : State) : exec .arb s = execArb s := rfl
theorem exec_grant (s : State) : exec .grant s = execGrant s := rfl
theorem exec_handoff (s : State) : exec .handoff s = execHandoff s := rfl
theorem exec_activate (s : State) : exec .activate s = execActivate s := rfl
theorem exec_deactivate (s : State) : exec .deactivate s = execDeactivate s := rfl
theorem exec_persistentReport (s : State) : exec .persistentReport s = execPersistentReport s := rfl
theorem exec_eviction (s : State) : exec .eviction s = execEviction s := rfl
theorem exec_drainWrite (s : State) : exec .drainWrite s = execDrainWrite s := rfl
theorem exec_partialCombine (s : State) : exec .partialCombine s = execPartialCombine s := rfl
theorem exec_census (s : State) : exec .census s = execCensus s := rfl
theorem exec_censusHoldExpiry (s : State) : exec .censusHoldExpiry s = execCensusHoldExpiry s := rfl
theorem exec_reggrowGrant (s : State) : exec .reggrowGrant s = execReggrowGrant s := rfl
theorem exec_reorderComplete (s : State) : exec .reorderComplete s = execReorderComplete s := rfl
theorem exec_commitPoint (s : State) : exec .commitPoint s = execCommitPoint s := rfl
theorem exec_traceSample (s : State) : exec .traceSample s = execTraceSample s := rfl
theorem exec_gapRecord (s : State) : exec .gapRecord s = execGapRecord s := rfl
theorem exec_powerLoss (s : State) : exec .powerLoss s = execPowerLoss s := rfl
theorem exec_peerAccess (s : State) : exec .peerAccess s = execPeerAccess s := rfl
theorem exec_hostLineObtained (s : State) : exec .hostLineObtained s = execHostLineObtained s := rfl
theorem exec_qwaitReread (s : State) : exec .qwaitReread s = execQwaitReread s := rfl
theorem exec_hostLinkTraining (s : State) : exec .hostLinkTraining s = execHostLinkTraining s := rfl
theorem exec_dynamicAddressAssignment (s : State) : exec .dynamicAddressAssignment s = execDynamicAddressAssignment s := rfl

/-! ## Operands -/

@[simp] theorem operands_movB32 (x : Bool) (d a : RegIx) : operands (.movB32 x d a) = [.dest d.toNat 1 1, .source a.toNat 1 1] := rfl
@[simp] theorem operands_movB32Lit (x : Bool) (d : RegIx) (lit : Word) : operands (.movB32Lit x d lit) = [.dest d.toNat 1 1] := rfl
@[simp] theorem operands_movB64 (x : Bool) (d a : RegIx) : operands (.movB64 x d a) = [.dest d.toNat 2 2, .source a.toNat 2 2] := rfl
@[simp] theorem operands_movS64Lit (x : Bool) (d : RegIx) (lit : Word) : operands (.movS64Lit x d lit) = [.dest d.toNat 2 2] := rfl
@[simp] theorem operands_iaddS32 (x : Bool) (d a b : RegIx) : operands (.iaddS32 x d a b) = [.dest d.toNat 1 1, .source a.toNat 1 1, .source b.toNat 1 1] := rfl
@[simp] theorem operands_iaddS32Imm (x : Bool) (d a : RegIx) (i : BitVec 7) : operands (.iaddS32Imm x d a i) = [.dest d.toNat 1 1, .source a.toNat 1 1] := rfl
@[simp] theorem operands_iaddS32Lit (x : Bool) (d a : RegIx) (lit : Word) : operands (.iaddS32Lit x d a lit) = [.dest d.toNat 1 1, .source a.toNat 1 1] := rfl
@[simp] theorem operands_isubS32 (x : Bool) (d a b : RegIx) : operands (.isubS32 x d a b) = [.dest d.toNat 1 1, .source a.toNat 1 1, .source b.toNat 1 1] := rfl
@[simp] theorem operands_imulS32 (x : Bool) (d a b : RegIx) : operands (.imulS32 x d a b) = [.dest d.toNat 1 1, .source a.toNat 1 1, .source b.toNat 1 1] := rfl
@[simp] theorem operands_imulS32Lit (x : Bool) (d a : RegIx) (lit : Word) : operands (.imulS32Lit x d a lit) = [.dest d.toNat 1 1, .source a.toNat 1 1] := rfl
@[simp] theorem operands_imulhiS32 (x : Bool) (d a b : RegIx) : operands (.imulhiS32 x d a b) = [.dest d.toNat 1 1, .source a.toNat 1 1, .source b.toNat 1 1] := rfl
@[simp] theorem operands_imulhiN32 (x : Bool) (d a b : RegIx) : operands (.imulhiN32 x d a b) = [.dest d.toNat 1 1, .source a.toNat 1 1, .source b.toNat 1 1] := rfl
@[simp] theorem operands_imadS32 (x : Bool) (d a b : RegIx) : operands (.imadS32 x d a b) = [.both d.toNat 1 1, .source a.toNat 1 1, .source b.toNat 1 1] := rfl
@[simp] theorem operands_iaddS32Sat (x : Bool) (d a b : RegIx) : operands (.iaddS32Sat x d a b) = [.dest d.toNat 1 1, .source a.toNat 1 1, .source b.toNat 1 1] := rfl
@[simp] theorem operands_isubS32Sat (x : Bool) (d a b : RegIx) : operands (.isubS32Sat x d a b) = [.dest d.toNat 1 1, .source a.toNat 1 1, .source b.toNat 1 1] := rfl
@[simp] theorem operands_inegS32 (x : Bool) (d a : RegIx) : operands (.inegS32 x d a) = [.dest d.toNat 1 1, .source a.toNat 1 1] := rfl
@[simp] theorem operands_iminS32 (x : Bool) (d a b : RegIx) : operands (.iminS32 x d a b) = [.dest d.toNat 1 1, .source a.toNat 1 1, .source b.toNat 1 1] := rfl
@[simp] theorem operands_iminN32 (x : Bool) (d a b : RegIx) : operands (.iminN32 x d a b) = [.dest d.toNat 1 1, .source a.toNat 1 1, .source b.toNat 1 1] := rfl
@[simp] theorem operands_imaxS32 (x : Bool) (d a b : RegIx) : operands (.imaxS32 x d a b) = [.dest d.toNat 1 1, .source a.toNat 1 1, .source b.toNat 1 1] := rfl
@[simp] theorem operands_imaxN32 (x : Bool) (d a b : RegIx) : operands (.imaxN32 x d a b) = [.dest d.toNat 1 1, .source a.toNat 1 1, .source b.toNat 1 1] := rfl
@[simp] theorem operands_iabsS32 (x : Bool) (d a : RegIx) : operands (.iabsS32 x d a) = [.dest d.toNat 1 1, .source a.toNat 1 1] := rfl
@[simp] theorem operands_andB32 (x : Bool) (d a b : RegIx) : operands (.andB32 x d a b) = [.dest d.toNat 1 1, .source a.toNat 1 1, .source b.toNat 1 1] := rfl
@[simp] theorem operands_andB32Lit (x : Bool) (d a : RegIx) (lit : Word) : operands (.andB32Lit x d a lit) = [.dest d.toNat 1 1, .source a.toNat 1 1] := rfl
@[simp] theorem operands_orB32 (x : Bool) (d a b : RegIx) : operands (.orB32 x d a b) = [.dest d.toNat 1 1, .source a.toNat 1 1, .source b.toNat 1 1] := rfl
@[simp] theorem operands_orB32Lit (x : Bool) (d a : RegIx) (lit : Word) : operands (.orB32Lit x d a lit) = [.dest d.toNat 1 1, .source a.toNat 1 1] := rfl
@[simp] theorem operands_xorB32 (x : Bool) (d a b : RegIx) : operands (.xorB32 x d a b) = [.dest d.toNat 1 1, .source a.toNat 1 1, .source b.toNat 1 1] := rfl
@[simp] theorem operands_xorB32Lit (x : Bool) (d a : RegIx) (lit : Word) : operands (.xorB32Lit x d a lit) = [.dest d.toNat 1 1, .source a.toNat 1 1] := rfl
@[simp] theorem operands_andnB32 (x : Bool) (d a b : RegIx) : operands (.andnB32 x d a b) = [.dest d.toNat 1 1, .source a.toNat 1 1, .source b.toNat 1 1] := rfl
@[simp] theorem operands_notB32 (x : Bool) (d a : RegIx) : operands (.notB32 x d a) = [.dest d.toNat 1 1, .source a.toNat 1 1] := rfl
@[simp] theorem operands_shlB32 (x : Bool) (d a b : RegIx) : operands (.shlB32 x d a b) = [.dest d.toNat 1 1, .source a.toNat 1 1, .source b.toNat 1 1] := rfl
@[simp] theorem operands_shlB32Imm (x : Bool) (d a : RegIx) (i : BitVec 7) : operands (.shlB32Imm x d a i) = [.dest d.toNat 1 1, .source a.toNat 1 1] := rfl
@[simp] theorem operands_shrN32 (x : Bool) (d a b : RegIx) : operands (.shrN32 x d a b) = [.dest d.toNat 1 1, .source a.toNat 1 1, .source b.toNat 1 1] := rfl
@[simp] theorem operands_shrN32Imm (x : Bool) (d a : RegIx) (i : BitVec 7) : operands (.shrN32Imm x d a i) = [.dest d.toNat 1 1, .source a.toNat 1 1] := rfl
@[simp] theorem operands_shrS32 (x : Bool) (d a b : RegIx) : operands (.shrS32 x d a b) = [.dest d.toNat 1 1, .source a.toNat 1 1, .source b.toNat 1 1] := rfl
@[simp] theorem operands_shrS32Imm (x : Bool) (d a : RegIx) (i : BitVec 7) : operands (.shrS32Imm x d a i) = [.dest d.toNat 1 1, .source a.toNat 1 1] := rfl
@[simp] theorem operands_bfxN32 (x : Bool) (d a : RegIx) (lit : Word) : operands (.bfxN32 x d a lit) = [.dest d.toNat 1 1, .source a.toNat 1 1] := rfl
@[simp] theorem operands_bfxS32 (x : Bool) (d a : RegIx) (lit : Word) : operands (.bfxS32 x d a lit) = [.dest d.toNat 1 1, .source a.toNat 1 1] := rfl
@[simp] theorem operands_bfiB32 (x : Bool) (d a : RegIx) (lit : Word) : operands (.bfiB32 x d a lit) = [.both d.toNat 1 1, .source a.toNat 1 1] := rfl
@[simp] theorem operands_popcB32 (x : Bool) (d a : RegIx) : operands (.popcB32 x d a) = [.dest d.toNat 1 1, .source a.toNat 1 1] := rfl
@[simp] theorem operands_clzB32 (x : Bool) (d a : RegIx) : operands (.clzB32 x d a) = [.dest d.toNat 1 1, .source a.toNat 1 1] := rfl
@[simp] theorem operands_brevB32 (x : Bool) (d a : RegIx) : operands (.brevB32 x d a) = [.dest d.toNat 1 1, .source a.toNat 1 1] := rfl
@[simp] theorem operands_iaddS64 (x : Bool) (d a b : RegIx) : operands (.iaddS64 x d a b) = [.dest d.toNat 2 2, .source a.toNat 2 2, .source b.toNat 2 2] := rfl
@[simp] theorem operands_iaddS64Lit (x : Bool) (d a : RegIx) (lit : Word) : operands (.iaddS64Lit x d a lit) = [.dest d.toNat 2 2, .source a.toNat 2 2] := rfl
@[simp] theorem operands_isubS64 (x : Bool) (d a b : RegIx) : operands (.isubS64 x d a b) = [.dest d.toNat 2 2, .source a.toNat 2 2, .source b.toNat 2 2] := rfl
@[simp] theorem operands_leaS32 (x : Bool) (d a b : RegIx) (lit : Word) : operands (.leaS32 x d a b lit) = [.dest d.toNat 2 2, .source a.toNat 2 2, .source b.toNat 1 1] := rfl
@[simp] theorem operands_leaN32 (x : Bool) (d a b : RegIx) (lit : Word) : operands (.leaN32 x d a b lit) = [.dest d.toNat 2 2, .source a.toNat 2 2, .source b.toNat 1 1] := rfl
@[simp] theorem operands_shlB64 (x : Bool) (d a : RegIx) (i : BitVec 7) : operands (.shlB64 x d a i) = [.dest d.toNat 2 2, .source a.toNat 2 2] := rfl
@[simp] theorem operands_shrN64 (x : Bool) (d a : RegIx) (i : BitVec 7) : operands (.shrN64 x d a i) = [.dest d.toNat 2 2, .source a.toNat 2 2] := rfl
@[simp] theorem operands_shrS64 (x : Bool) (d a : RegIx) (i : BitVec 7) : operands (.shrS64 x d a i) = [.dest d.toNat 2 2, .source a.toNat 2 2] := rfl
@[simp] theorem operands_imulwS32 (x : Bool) (d a b : RegIx) : operands (.imulwS32 x d a b) = [.dest d.toNat 2 2, .source a.toNat 1 1, .source b.toNat 1 1] := rfl
@[simp] theorem operands_imulwN32 (x : Bool) (d a b : RegIx) : operands (.imulwN32 x d a b) = [.dest d.toNat 2 2, .source a.toNat 1 1, .source b.toNat 1 1] := rfl
@[simp] theorem operands_icmpS32 (x : Bool) (c : BitVec 3) (d a b : RegIx) : operands (.icmpS32 x c d a b) = [.dest d.toNat 1 1, .source a.toNat 1 1, .source b.toNat 1 1] := rfl
@[simp] theorem operands_icmpN32 (x : Bool) (c : BitVec 3) (d a b : RegIx) : operands (.icmpN32 x c d a b) = [.dest d.toNat 1 1, .source a.toNat 1 1, .source b.toNat 1 1] := rfl
@[simp] theorem operands_icmpS32Lit (x : Bool) (c : BitVec 3) (d a : RegIx) (lit : Word) : operands (.icmpS32Lit x c d a lit) = [.dest d.toNat 1 1, .source a.toNat 1 1] := rfl
@[simp] theorem operands_selB32 (x : Bool) (d a b : RegIx) : operands (.selB32 x d a b) = [.both d.toNat 1 1, .source a.toNat 1 1, .source b.toNat 1 1] := rfl
@[simp] theorem operands_selB64 (x : Bool) (d a b : RegIx) : operands (.selB64 x d a b) = [.both d.toNat 2 2, .source a.toNat 2 2, .source b.toNat 2 2] := rfl
@[simp] theorem operands_icmpEqB64 (x : Bool) (d a b : RegIx) : operands (.icmpEqB64 x d a b) = [.dest d.toNat 1 1, .source a.toNat 2 2, .source b.toNat 2 2] := rfl
@[simp] theorem operands_icmpLtS64 (x : Bool) (d a b : RegIx) : operands (.icmpLtS64 x d a b) = [.dest d.toNat 1 1, .source a.toNat 2 2, .source b.toNat 2 2] := rfl
@[simp] theorem operands_icmpLtN64 (x : Bool) (d a b : RegIx) : operands (.icmpLtN64 x d a b) = [.dest d.toNat 1 1, .source a.toNat 2 2, .source b.toNat 2 2] := rfl
@[simp] theorem operands_voteBallot (x : Bool) (d a : RegIx) : operands (.voteBallot x d a) = [.dest d.toNat 1 1, .source a.toNat 1 1] := rfl
@[simp] theorem operands_voteAny (x : Bool) (d a : RegIx) : operands (.voteAny x d a) = [.dest d.toNat 1 1, .source a.toNat 1 1] := rfl
@[simp] theorem operands_voteAll (x : Bool) (d a : RegIx) : operands (.voteAll x d a) = [.dest d.toNat 1 1, .source a.toNat 1 1] := rfl
@[simp] theorem operands_shflIdx (x : Bool) (d a b : RegIx) : operands (.shflIdx x d a b) = [.dest d.toNat 1 1, .source a.toNat 1 1, .source b.toNat 1 1] := rfl
@[simp] theorem operands_shflUp (x : Bool) (d a b : RegIx) : operands (.shflUp x d a b) = [.dest d.toNat 1 1, .source a.toNat 1 1, .source b.toNat 1 1] := rfl
@[simp] theorem operands_shflDown (x : Bool) (d a b : RegIx) : operands (.shflDown x d a b) = [.dest d.toNat 1 1, .source a.toNat 1 1, .source b.toNat 1 1] := rfl
@[simp] theorem operands_shflXor (x : Bool) (d a b : RegIx) : operands (.shflXor x d a b) = [.dest d.toNat 1 1, .source a.toNat 1 1, .source b.toNat 1 1] := rfl
@[simp] theorem operands_shflDownImm (x : Bool) (d a : RegIx) (i : BitVec 5) : operands (.shflDownImm x d a i) = [.dest d.toNat 1 1, .source a.toNat 1 1] := rfl
@[simp] theorem operands_shflXorImm (x : Bool) (d a : RegIx) (i : BitVec 5) : operands (.shflXorImm x d a i) = [.dest d.toNat 1 1, .source a.toNat 1 1] := rfl
@[simp] theorem operands_matchB32 (x : Bool) (d a : RegIx) : operands (.matchB32 x d a) = [.dest d.toNat 1 1, .source a.toNat 1 1] := rfl
@[simp] theorem operands_gred (x : Bool) (d a : RegIx) (o : BitVec 3) : operands (.gred x d a o) = [.dest d.toNat 1 1, .source a.toNat 1 1] := rfl
@[simp] theorem operands_reorder (x : Bool) (d a : RegIx) : operands (.reorder x d a) = [.dest d.toNat 1 1, .source a.toNat 1 1] := rfl
@[simp] theorem operands_reggrow (x : Bool) (d : RegIx) (n : BitVec 5) : operands (.reggrow x d n) = [.dest d.toNat 1 1] := rfl
@[simp] theorem operands_regshrink (x : Bool) (d : RegIx) (n : BitVec 5) : operands (.regshrink x d n) = [.dest d.toNat 1 1] := rfl
@[simp] theorem operands_movxRd (x : Bool) (d a : RegIx) : operands (.movxRd x d a) = [.dest d.toNat 1 1, .source a.toNat 1 1] := rfl
@[simp] theorem operands_movxWr (x : Bool) (d a : RegIx) : operands (.movxWr x d a) = [.source d.toNat 1 1, .source a.toNat 1 1] := rfl
@[simp] theorem operands_movxRdB64 (x : Bool) (d a : RegIx) : operands (.movxRdB64 x d a) = [.dest d.toNat 2 2, .source a.toNat 1 1] := rfl
@[simp] theorem operands_movxWrB64 (x : Bool) (d a : RegIx) : operands (.movxWrB64 x d a) = [.source d.toNat 1 1, .source a.toNat 2 2] := rfl
@[simp] theorem operands_faddF32 (x : Bool) (r : BitVec 2) (d a b : RegIx) : operands (.faddF32 x r d a b) = [.dest d.toNat 1 1, .source a.toNat 1 1, .source b.toNat 1 1] := rfl
@[simp] theorem operands_fsubF32 (x : Bool) (r : BitVec 2) (d a b : RegIx) : operands (.fsubF32 x r d a b) = [.dest d.toNat 1 1, .source a.toNat 1 1, .source b.toNat 1 1] := rfl
@[simp] theorem operands_fmulF32 (x : Bool) (r : BitVec 2) (d a b : RegIx) : operands (.fmulF32 x r d a b) = [.dest d.toNat 1 1, .source a.toNat 1 1, .source b.toNat 1 1] := rfl
@[simp] theorem operands_ffmaF32 (x : Bool) (r : BitVec 2) (d a b : RegIx) : operands (.ffmaF32 x r d a b) = [.both d.toNat 1 1, .source a.toNat 1 1, .source b.toNat 1 1] := rfl
@[simp] theorem operands_fminF32 (x : Bool) (d a b : RegIx) : operands (.fminF32 x d a b) = [.dest d.toNat 1 1, .source a.toNat 1 1, .source b.toNat 1 1] := rfl
@[simp] theorem operands_fmaxF32 (x : Bool) (d a b : RegIx) : operands (.fmaxF32 x d a b) = [.dest d.toNat 1 1, .source a.toNat 1 1, .source b.toNat 1 1] := rfl
@[simp] theorem operands_fnegF32 (x : Bool) (d a : RegIx) : operands (.fnegF32 x d a) = [.dest d.toNat 1 1, .source a.toNat 1 1] := rfl
@[simp] theorem operands_fabsF32 (x : Bool) (d a : RegIx) : operands (.fabsF32 x d a) = [.dest d.toNat 1 1, .source a.toNat 1 1] := rfl
@[simp] theorem operands_fcmpF32 (x : Bool) (c : BitVec 4) (d a b : RegIx) : operands (.fcmpF32 x c d a b) = [.dest d.toNat 1 1, .source a.toNat 1 1, .source b.toNat 1 1] := rfl
@[simp] theorem operands_fcmpUnordF32 (x : Bool) (d a b : RegIx) : operands (.fcmpUnordF32 x d a b) = [.dest d.toNat 1 1, .source a.toNat 1 1, .source b.toNat 1 1] := rfl
@[simp] theorem operands_fclassF32 (x : Bool) (d a : RegIx) : operands (.fclassF32 x d a) = [.dest d.toNat 1 1, .source a.toNat 1 1] := rfl
@[simp] theorem operands_faddF32Lit (x : Bool) (d a : RegIx) (lit : Word) : operands (.faddF32Lit x d a lit) = [.dest d.toNat 1 1, .source a.toNat 1 1] := rfl
@[simp] theorem operands_fmulF32Lit (x : Bool) (d a : RegIx) (lit : Word) : operands (.fmulF32Lit x d a lit) = [.dest d.toNat 1 1, .source a.toNat 1 1] := rfl
@[simp] theorem operands_fgredAddF32 (x : Bool) (d a : RegIx) : operands (.fgredAddF32 x d a) = [.dest d.toNat 1 1, .source a.toNat 1 1] := rfl
@[simp] theorem operands_fgredMinF32 (x : Bool) (d a : RegIx) : operands (.fgredMinF32 x d a) = [.dest d.toNat 1 1, .source a.toNat 1 1] := rfl
@[simp] theorem operands_fgredMaxF32 (x : Bool) (d a : RegIx) : operands (.fgredMaxF32 x d a) = [.dest d.toNat 1 1, .source a.toNat 1 1] := rfl
@[simp] theorem operands_frintF32 (x : Bool) (r : BitVec 2) (d a : RegIx) : operands (.frintF32 x r d a) = [.dest d.toNat 1 1, .source a.toNat 1 1] := rfl
@[simp] theorem operands_hadd (x : Bool) (f : BitVec 1) (d a b : RegIx) : operands (.hadd x f d a b) = [.dest d.toNat 1 1, .source a.toNat 1 1, .source b.toNat 1 1] := rfl
@[simp] theorem operands_hsub (x : Bool) (f : BitVec 1) (d a b : RegIx) : operands (.hsub x f d a b) = [.dest d.toNat 1 1, .source a.toNat 1 1, .source b.toNat 1 1] := rfl
@[simp] theorem operands_hmul (x : Bool) (f : BitVec 1) (d a b : RegIx) : operands (.hmul x f d a b) = [.dest d.toNat 1 1, .source a.toNat 1 1, .source b.toNat 1 1] := rfl
@[simp] theorem operands_hfma (x : Bool) (f : BitVec 1) (d a b : RegIx) : operands (.hfma x f d a b) = [.both d.toNat 1 1, .source a.toNat 1 1, .source b.toNat 1 1] := rfl
@[simp] theorem operands_hmin (x : Bool) (f : BitVec 1) (d a b : RegIx) : operands (.hmin x f d a b) = [.dest d.toNat 1 1, .source a.toNat 1 1, .source b.toNat 1 1] := rfl
@[simp] theorem operands_hmax (x : Bool) (f : BitVec 1) (d a b : RegIx) : operands (.hmax x f d a b) = [.dest d.toNat 1 1, .source a.toNat 1 1, .source b.toNat 1 1] := rfl
@[simp] theorem operands_hneg (x : Bool) (f : BitVec 1) (d a : RegIx) : operands (.hneg x f d a) = [.dest d.toNat 1 1, .source a.toNat 1 1] := rfl
@[simp] theorem operands_habs (x : Bool) (f : BitVec 1) (d a : RegIx) : operands (.habs x f d a) = [.dest d.toNat 1 1, .source a.toNat 1 1] := rfl
@[simp] theorem operands_rcpF32 (x : Bool) (d a : RegIx) (r : BitVec 2) : operands (.rcpF32 x d a r) = [.dest d.toNat 1 1, .source a.toNat 1 1] := rfl
@[simp] theorem operands_sqrtF32 (x : Bool) (d a : RegIx) (r : BitVec 2) : operands (.sqrtF32 x d a r) = [.dest d.toNat 1 1, .source a.toNat 1 1] := rfl
@[simp] theorem operands_rsqF32 (x : Bool) (d a : RegIx) (r : BitVec 2) : operands (.rsqF32 x d a r) = [.dest d.toNat 1 1, .source a.toNat 1 1] := rfl
@[simp] theorem operands_exp2F32 (x : Bool) (d a : RegIx) (r : BitVec 2) : operands (.exp2F32 x d a r) = [.dest d.toNat 1 1, .source a.toNat 1 1] := rfl
@[simp] theorem operands_log2F32 (x : Bool) (d a : RegIx) (r : BitVec 2) : operands (.log2F32 x d a r) = [.dest d.toNat 1 1, .source a.toNat 1 1] := rfl
@[simp] theorem operands_sinF32 (x : Bool) (d a : RegIx) (r : BitVec 2) : operands (.sinF32 x d a r) = [.dest d.toNat 1 1, .source a.toNat 1 1] := rfl
@[simp] theorem operands_cosF32 (x : Bool) (d a : RegIx) (r : BitVec 2) : operands (.cosF32 x d a r) = [.dest d.toNat 1 1, .source a.toNat 1 1] := rfl
@[simp] theorem operands_cvt (x : Bool) (d a : RegIx) (lit : Word) : operands (.cvt x d a lit) = cvtOperands d.toNat a.toNat lit := rfl
@[simp] theorem operands_packMx (x : Bool) (f : BitVec 3) (d a : RegIx) (lit : Word) : operands (.packMx x f d a lit) = [.dest d.toNat (mxRegs f) (mxRegs f), .source a.toNat 32 32, .both (sReg lit) 1 1] := rfl
@[simp] theorem operands_unpackMx (x : Bool) (f : BitVec 3) (d a : RegIx) (lit : Word) : operands (.unpackMx x f d a lit) = [.dest d.toNat 32 32, .source a.toNat (mxRegs f) (mxRegs f), .source (sReg lit) 1 1] := rfl
@[simp] theorem operands_packAq4 (x : Bool) (d a b : RegIx) (lit : Word) : operands (.packAq4 x d a b lit) = [.dest d.toNat 1 1, .source a.toNat 8 8, .source b.toNat 1 1, .both (sReg lit) 1 1] := rfl
@[simp] theorem operands_unpackAq4 (x : Bool) (d a b : RegIx) (lit : Word) : operands (.unpackAq4 x d a b lit) = [.dest d.toNat 8 8, .source a.toNat 1 1, .source b.toNat 1 1, .source (sReg lit) 1 1] := rfl
@[simp] theorem operands_tag (x : Bool) (d a : RegIx) (k : BitVec 4) : operands (.tag x d a k) = [.dest d.toNat 1 1, .source a.toNat 1 1] := rfl
@[simp] theorem operands_rdtag (x : Bool) (d a : RegIx) : operands (.rdtag x d a) = [.dest d.toNat 1 1, .source a.toNat 1 1] := rfl
@[simp] theorem operands_ld (x : Bool) (d a : RegIx) (z : BitVec 3) : operands (.ld x d a z) = [.dest d.toNat (zRegs z) (zRegs z), .address a.toNat 2 false] := rfl
@[simp] theorem operands_ldLit (x : Bool) (d a : RegIx) (p : BitVec 1) (m z : BitVec 3) (lit : Word) : operands (.ldLit x d a p m z lit) = [.dest d.toNat (zRegs z) (zRegs z), .address a.toNat 2 (p == 1#1)] := rfl
@[simp] theorem operands_ldSpec (x : Bool) (d a : RegIx) (z : BitVec 3) : operands (.ldSpec x d a z) = [.dest d.toNat (zRegs z) (zRegs z), .address a.toNat 2 false] := rfl
@[simp] theorem operands_ldSpecLit (x : Bool) (d a : RegIx) (p : BitVec 1) (m z : BitVec 3) (lit : Word) : operands (.ldSpecLit x d a p m z lit) = [.dest d.toNat (zRegs z) (zRegs z), .address a.toNat 2 (p == 1#1)] := rfl
@[simp] theorem operands_st (x : Bool) (d a : RegIx) (z : BitVec 3) : operands (.st x d a z) = [.source d.toNat (zRegs z) (zRegs z), .address a.toNat 2 false] := rfl
@[simp] theorem operands_stLit (x : Bool) (d a : RegIx) (p : BitVec 1) (m z : BitVec 3) (lit : Word) : operands (.stLit x d a p m z lit) = [.source d.toNat (zRegs z) (zRegs z), .address a.toNat 2 (p == 1#1)] := rfl
@[simp] theorem operands_ldFmt (x : Bool) (d a : RegIx) (k : BitVec 4) (z : BitVec 3) : operands (.ldFmt x d a k z) = [.dest d.toNat (zRegs z) (zRegs z), .address a.toNat 2 false] := rfl
@[simp] theorem operands_ldAcq (x : Bool) (d a : RegIx) (c : BitVec 4) (z : BitVec 3) : operands (.ldAcq x d a c z) = [.dest d.toNat (zRegs z) (zRegs z), .address a.toNat 2 false] := rfl
@[simp] theorem operands_stRel (x : Bool) (d a : RegIx) (c : BitVec 4) (z : BitVec 3) : operands (.stRel x d a c z) = [.source d.toNat (zRegs z) (zRegs z), .address a.toNat 2 false] := rfl
@[simp] theorem operands_lds (x : Bool) (d a : RegIx) (z : BitVec 3) : operands (.lds x d a z) = [.dest d.toNat (zRegs z) (zRegs z), .address a.toNat 1 false] := rfl
@[simp] theorem operands_ldsLit (x : Bool) (d a : RegIx) (p : BitVec 1) (m z : BitVec 3) (lit : Word) : operands (.ldsLit x d a p m z lit) = [.dest d.toNat (zRegs z) (zRegs z), .address a.toNat 1 (p == 1#1)] := rfl
@[simp] theorem operands_ldsWait (x : Bool) (d a : RegIx) (z : BitVec 3) : operands (.ldsWait x d a z) = [.dest d.toNat (zRegs z) (zRegs z), .address a.toNat 1 false] := rfl
@[simp] theorem operands_ldsWaitLit (x : Bool) (d a : RegIx) (p : BitVec 1) (m z : BitVec 3) (lit : Word) : operands (.ldsWaitLit x d a p m z lit) = [.dest d.toNat (zRegs z) (zRegs z), .address a.toNat 1 (p == 1#1)] := rfl
@[simp] theorem operands_ldsWaitClr (x : Bool) (d a : RegIx) (z : BitVec 3) : operands (.ldsWaitClr x d a z) = [.dest d.toNat (zRegs z) (zRegs z), .address a.toNat 1 false] := rfl
@[simp] theorem operands_ldsWaitClrLit (x : Bool) (d a : RegIx) (p : BitVec 1) (m z : BitVec 3) (lit : Word) : operands (.ldsWaitClrLit x d a p m z lit) = [.dest d.toNat (zRegs z) (zRegs z), .address a.toNat 1 (p == 1#1)] := rfl
@[simp] theorem operands_sts (x : Bool) (d a : RegIx) (z : BitVec 3) : operands (.sts x d a z) = [.source d.toNat (zRegs z) (zRegs z), .address a.toNat 1 false] := rfl
@[simp] theorem operands_stsLit (x : Bool) (d a : RegIx) (p : BitVec 1) (m z : BitVec 3) (lit : Word) : operands (.stsLit x d a p m z lit) = [.source d.toNat (zRegs z) (zRegs z), .address a.toNat 1 (p == 1#1)] := rfl
@[simp] theorem operands_stsSet (x : Bool) (d a : RegIx) (z : BitVec 3) : operands (.stsSet x d a z) = [.source d.toNat (zRegs z) (zRegs z), .address a.toNat 1 false] := rfl
@[simp] theorem operands_stsSetLit (x : Bool) (d a : RegIx) (p : BitVec 1) (m z : BitVec 3) (lit : Word) : operands (.stsSetLit x d a p m z lit) = [.source d.toNat (zRegs z) (zRegs z), .address a.toNat 1 (p == 1#1)] := rfl
@[simp] theorem operands_ldsFmt (x : Bool) (d a : RegIx) (k : BitVec 4) (z : BitVec 3) : operands (.ldsFmt x d a k z) = [.dest d.toNat (zRegs z) (zRegs z), .address a.toNat 1 false] := rfl
@[simp] theorem operands_ldsWaitFmt (x : Bool) (d a : RegIx) (k : BitVec 4) (z : BitVec 3) : operands (.ldsWaitFmt x d a k z) = [.dest d.toNat (zRegs z) (zRegs z), .address a.toNat 1 false] := rfl
@[simp] theorem operands_prefetch (x : Bool) (a : RegIx) : operands (.prefetch x a) = [.address a.toNat 2 false] := rfl
@[simp] theorem operands_prefetchLit (x : Bool) (a : RegIx) (p : BitVec 1) (m : BitVec 3) (lit : Word) : operands (.prefetchLit x a p m lit) = [.address a.toNat 2 (p == 1#1)] := rfl
@[simp] theorem operands_prefetchW (x : Bool) (a : RegIx) : operands (.prefetchW x a) = [.address a.toNat 2 false] := rfl
@[simp] theorem operands_prefetchWLit (x : Bool) (a : RegIx) (p : BitVec 1) (m : BitVec 3) (lit : Word) : operands (.prefetchWLit x a p m lit) = [.address a.toNat 2 (p == 1#1)] := rfl
@[simp] theorem operands_evict (x : Bool) (a : RegIx) : operands (.evict x a) = [.address a.toNat 2 false] := rfl
@[simp] theorem operands_tlbinvVa (x : Bool) (a : RegIx) : operands (.tlbinvVa x a) = [.address a.toNat 2 false] := rfl
@[simp] theorem operands_copyG2s (x : Bool) (d a b : RegIx) : operands (.copyG2s x d a b) = [.source d.toNat 1 1, .address a.toNat 2 false, .source b.toNat 1 1] := rfl
@[simp] theorem operands_copyS2g (x : Bool) (d a b : RegIx) : operands (.copyS2g x d a b) = [.address d.toNat 2 false, .source a.toNat 1 1, .source b.toNat 1 1] := rfl
@[simp] theorem operands_copyG2g (x : Bool) (d a b : RegIx) : operands (.copyG2g x d a b) = [.address d.toNat 2 false, .address a.toNat 2 false, .source b.toNat 1 1] := rfl
@[simp] theorem operands_gather (x : Bool) (d a b : RegIx) (lit : Word) : operands (.gather x d a b lit) = [.source d.toNat 1 1, .address a.toNat 2 false, .source b.toNat 1 1] := rfl
@[simp] theorem operands_scatter (x : Bool) (d a b : RegIx) (lit : Word) : operands (.scatter x d a b lit) = [.address d.toNat 2 false, .source a.toNat 1 1, .source b.toNat 1 1] := rfl
@[simp] theorem operands_modset (x : Bool) (n : BitVec 3) (a b : RegIx) : operands (.modset x n a b) = [.source a.toNat 1 1, .source b.toNat 1 1] := rfl
@[simp] theorem operands_modrd (x : Bool) (d : RegIx) (n : BitVec 3) : operands (.modrd x d n) = [.dest d.toNat 2 2] := rfl
@[simp] theorem operands_atom32 (x : Bool) (o : BitVec 4) (d a b : RegIx) : operands (.atom32 x o d a b) = [.dest d.toNat 1 1, .address a.toNat 2 false, .source b.toNat 1 1] := rfl
@[simp] theorem operands_atomCasB32 (x : Bool) (d a b : RegIx) : operands (.atomCasB32 x d a b) = [.dest d.toNat 1 1, .address a.toNat 2 false, .source b.toNat 2 2] := rfl
@[simp] theorem operands_atom64 (x : Bool) (o : BitVec 4) (d a b : RegIx) : operands (.atom64 x o d a b) = [.dest d.toNat 2 2, .address a.toNat 2 false, .source b.toNat 2 2] := rfl
@[simp] theorem operands_atomCasB64 (x : Bool) (d a b : RegIx) : operands (.atomCasB64 x d a b) = [.dest d.toNat 2 2, .address a.toNat 2 false, .source b.toNat 4 4] := rfl
@[simp] theorem operands_redAddS32 (x : Bool) (a b : RegIx) : operands (.redAddS32 x a b) = [.address a.toNat 2 false, .source b.toNat 1 1] := rfl
@[simp] theorem operands_redAddS64 (x : Bool) (a b : RegIx) : operands (.redAddS64 x a b) = [.address a.toNat 2 false, .source b.toNat 2 2] := rfl
@[simp] theorem operands_redAddF32 (x : Bool) (a b : RegIx) : operands (.redAddF32 x a b) = [.address a.toNat 2 false, .source b.toNat 1 1] := rfl
@[simp] theorem operands_redAddBf16x2 (x : Bool) (a b : RegIx) : operands (.redAddBf16x2 x a b) = [.address a.toNat 2 false, .source b.toNat 1 1] := rfl
@[simp] theorem operands_redAtomic (x : Bool) (o : BitVec 4) (a b : RegIx) : operands (.redAtomic x o a b) = [.address a.toNat 2 false, .source b.toNat 1 1] := rfl
@[simp] theorem operands_tryLane (x : Bool) (d : RegIx) (lit : Word) : operands (.tryLane x d lit) = [.named d.toNat 4 4] := rfl
@[simp] theorem operands_tryGroup (x : Bool) (d : RegIx) (lit : Word) : operands (.tryGroup x d lit) = [.named d.toNat 4 4] := rfl
@[simp] theorem operands_tstat (x : Bool) (d : RegIx) : operands (.tstat x d) = [.dest d.toNat 1 1] := rfl
@[simp] theorem operands_barArrive (x : Bool) (d : RegIx) (n : BitVec 3) : operands (.barArrive x d n) = [.dest d.toNat 1 1] := rfl
@[simp] theorem operands_barWait (x : Bool) (a : RegIx) (n : BitVec 3) : operands (.barWait x a n) = [.source a.toNat 1 1] := rfl
@[simp] theorem operands_cvsetMask (x : Bool) (a : RegIx) (n : BitVec 3) : operands (.cvsetMask x a n) = [.source a.toNat 1 1] := rfl
@[simp] theorem operands_cvrd (x : Bool) (d : RegIx) (n : BitVec 3) : operands (.cvrd x d n) = [.dest d.toNat 2 2] := rfl
@[simp] theorem operands_pipePut (x : Bool) (a : RegIx) (n : BitVec 2) : operands (.pipePut x a n) = [.source a.toNat 1 1] := rfl
@[simp] theorem operands_pipeGet (x : Bool) (d : RegIx) (n : BitVec 2) : operands (.pipeGet x d n) = [.dest d.toNat 1 1] := rfl
@[simp] theorem operands_qsig (x : Bool) (c : BitVec 3) (a b : RegIx) : operands (.qsig x c a b) = [.address a.toNat 2 false, .source b.toNat 2 2] := rfl
@[simp] theorem operands_qwait (x : Bool) (d a b : RegIx) : operands (.qwait x d a b) = [.dest d.toNat 1 1, .address a.toNat 2 false, .source b.toNat 2 2] := rfl
@[simp] theorem operands_mma (x : Bool) (d a b : RegIx) (lit : Word) : operands (.mma x d a b lit) = [.source d.toNat 32 32, .source a.toNat 2 2] := rfl
@[simp] theorem operands_mmaSp (x : Bool) (d a b : RegIx) (lit : Word) : operands (.mmaSp x d a b lit) = [.source d.toNat 32 32, .source a.toNat 2 2] := rfl
@[simp] theorem operands_mrsv (x : Bool) (d : RegIx) (n : BitVec 4) : operands (.mrsv x d n) = [.dest d.toNat 1 1] := rfl
@[simp] theorem operands_mrdF32 (x : Bool) (d : RegIx) (c : BitVec 3) (n : BitVec 4) : operands (.mrdF32 x d c n) = [.dest d.toNat 16 16] := rfl
@[simp] theorem operands_mrdS32 (x : Bool) (d : RegIx) (c : BitVec 3) (n : BitVec 4) : operands (.mrdS32 x d c n) = [.dest d.toNat 16 16] := rfl
@[simp] theorem operands_mwr (x : Bool) (a : RegIx) (c : BitVec 3) (n : BitVec 4) : operands (.mwr x a c n) = [.source a.toNat 16 16] := rfl
@[simp] theorem operands_trace (x : Bool) (d a b : RegIx) (lit : Word) : operands (.trace x d a b lit) = [.dest d.toNat 4 4, .address a.toNat 2 false, .source b.toNat 8 8] := rfl
@[simp] theorem operands_traceEmit (x : Bool) (d a b : RegIx) (lit : Word) : operands (.traceEmit x d a b lit) = [.source d.toNat 10 2, .address a.toNat 2 false, .source b.toNat 8 8] := rfl
@[simp] theorem operands_asbuild (x : Bool) (d a : RegIx) (n : BitVec 1) : operands (.asbuild x d a n) = [.dest d.toNat 1 1, .address a.toNat 2 false] := rfl
@[simp] theorem operands_asbuildUpdate (x : Bool) (d a : RegIx) (n : BitVec 1) : operands (.asbuildUpdate x d a n) = [.dest d.toNat 1 1, .address a.toNat 2 false] := rfl
@[simp] theorem operands_asrefit (x : Bool) (d a : RegIx) (n : BitVec 1) : operands (.asrefit x d a n) = [.dest d.toNat 1 1, .address a.toNat 2 false] := rfl
@[simp] theorem operands_asretire (x : Bool) (d a : RegIx) (n : BitVec 1) : operands (.asretire x d a n) = [.dest d.toNat 1 1, .address a.toNat 2 false] := rfl
@[simp] theorem operands_launch (x : Bool) (d a : RegIx) : operands (.launch x d a) = [.dest d.toNat 1 1, .address a.toNat 2 false] := rfl
@[simp] theorem operands_emit (x : Bool) (a b : RegIx) : operands (.emit x a b) = [.source a.toNat 2 2, .source b.toNat 12 4] := rfl
@[simp] theorem operands_brz (x : Bool) (a : RegIx) (lit : Word) : operands (.brz x a lit) = [.source a.toNat 1 1] := rfl
@[simp] theorem operands_brnz (x : Bool) (a : RegIx) (lit : Word) : operands (.brnz x a lit) = [.source a.toNat 1 1] := rfl
@[simp] theorem operands_call (x : Bool) (d : RegIx) (lit : Word) : operands (.call x d lit) = [.dest d.toNat 2 2] := rfl
@[simp] theorem operands_ret (x : Bool) (a : RegIx) : operands (.ret x a) = [.source a.toNat 2 2] := rfl
@[simp] theorem operands_callr (x : Bool) (d a : RegIx) : operands (.callr x d a) = [.dest d.toNat 2 2, .source a.toNat 2 2] := rfl
@[simp] theorem operands_rdsys (x : Bool) (d : RegIx) (i : BitVec 7) : operands (.rdsys x d i) = [.dest d.toNat (if i.toNat < 32 then 1 else 2) (if i.toNat < 32 then 1 else 2)] := rfl
@[simp] theorem operands_rett (x : Bool) (d a : RegIx) : operands (.rett x d a) = [.dest d.toNat 1 1, .source a.toNat 1 1] := rfl
@[simp] theorem operands_grd (x : Bool) (d a : RegIx) : operands (.grd x d a) = [.dest d.toNat 2 2, .source a.toNat 1 1] := rfl
@[simp] theorem operands_gwr (x : Bool) (d a : RegIx) : operands (.gwr x d a) = [.source d.toNat 1 1, .source a.toNat 2 2] := rfl
@[simp] theorem operands_evwait (x : Bool) (d : RegIx) : operands (.evwait x d) = [.dest d.toNat 1 1] := rfl

end Sys2Proof.Machine
end

