-- ==== Sys2Proof/Laws/State.lean ====
section
/-! SUPPORT.  The fields of the state after each named update: one lemma for each field and update, and the operations that write memory in its
canonical form. -/

namespace Sys2Proof.Machine

/-! ### takeFree -/

@[simp] theorem takeFree_variant (s : State) : (takeFree s).2.variant = s.variant := rfl
@[simp] theorem takeFree_trust (s : State) : (takeFree s).2.trust = s.trust := rfl
@[simp] theorem takeFree_platform (s : State) : (takeFree s).2.platform = s.platform := rfl
@[simp] theorem takeFree_mem (s : State) : (takeFree s).2.mem = s.mem := rfl
@[simp] theorem takeFree_coherence (s : State) : (takeFree s).2.coherence = s.coherence := rfl
@[simp] theorem takeFree_cores (s : State) : (takeFree s).2.cores = s.cores := rfl
@[simp] theorem takeFree_piers (s : State) : (takeFree s).2.piers = s.piers := rfl
@[simp] theorem takeFree_teams (s : State) : (takeFree s).2.teams = s.teams := rfl
@[simp] theorem takeFree_gangs (s : State) : (takeFree s).2.gangs = s.gangs := rfl
@[simp] theorem takeFree_launches (s : State) : (takeFree s).2.launches = s.launches := rfl
@[simp] theorem takeFree_placers (s : State) : (takeFree s).2.placers = s.placers := rfl
@[simp] theorem takeFree_queues (s : State) : (takeFree s).2.queues = s.queues := rfl
@[simp] theorem takeFree_cqs (s : State) : (takeFree s).2.cqs = s.cqs := rfl
@[simp] theorem takeFree_fns (s : State) : (takeFree s).2.fns = s.fns := rfl
@[simp] theorem takeFree_builds (s : State) : (takeFree s).2.builds = s.builds := rfl
@[simp] theorem takeFree_compacts (s : State) : (takeFree s).2.compacts = s.compacts := rfl
@[simp] theorem takeFree_rayCounts (s : State) : (takeFree s).2.rayCounts = s.rayCounts := rfl
@[simp] theorem takeFree_saved (s : State) : (takeFree s).2.saved = s.saved := rfl
@[simp] theorem takeFree_swaps (s : State) : (takeFree s).2.swaps = s.swaps := rfl
@[simp] theorem takeFree_debug (s : State) : (takeFree s).2.dbg = s.dbg := rfl
@[simp] theorem takeFree_out (s : State) : (takeFree s).2.out = s.out := rfl
@[simp] theorem takeFree_rootTable (s : State) : (takeFree s).2.rootTable = s.rootTable := rfl
@[simp] theorem takeFree_saveArea (s : State) : (takeFree s).2.saveArea = s.saveArea := rfl
@[simp] theorem takeFree_time (s : State) : (takeFree s).2.time = s.time := rfl
@[simp] theorem takeFree_agenda (s : State) : (takeFree s).2.agenda = s.agenda := rfl
@[simp] theorem takeFree_timers (s : State) : (takeFree s).2.timers = s.timers := rfl
@[simp] theorem takeFree_args (s : State) : (takeFree s).2.args = s.args := rfl
@[simp] theorem takeFree_iss (s : State) : (takeFree s).2.iss = s.iss := rfl
@[simp] theorem takeFree_ids (s : State) : (takeFree s).2.ids = s.ids := rfl
@[simp] theorem takeFree_free (s : State) : (takeFree s).2.free = s.free + 1 := rfl

/-! ### takeId -/

@[simp] theorem takeId_variant (s : State) : (takeId s).2.variant = s.variant := rfl
@[simp] theorem takeId_trust (s : State) : (takeId s).2.trust = s.trust := rfl
@[simp] theorem takeId_platform (s : State) : (takeId s).2.platform = s.platform := rfl
@[simp] theorem takeId_mem (s : State) : (takeId s).2.mem = s.mem := rfl
@[simp] theorem takeId_coherence (s : State) : (takeId s).2.coherence = s.coherence := rfl
@[simp] theorem takeId_cores (s : State) : (takeId s).2.cores = s.cores := rfl
@[simp] theorem takeId_piers (s : State) : (takeId s).2.piers = s.piers := rfl
@[simp] theorem takeId_teams (s : State) : (takeId s).2.teams = s.teams := rfl
@[simp] theorem takeId_gangs (s : State) : (takeId s).2.gangs = s.gangs := rfl
@[simp] theorem takeId_launches (s : State) : (takeId s).2.launches = s.launches := rfl
@[simp] theorem takeId_placers (s : State) : (takeId s).2.placers = s.placers := rfl
@[simp] theorem takeId_queues (s : State) : (takeId s).2.queues = s.queues := rfl
@[simp] theorem takeId_cqs (s : State) : (takeId s).2.cqs = s.cqs := rfl
@[simp] theorem takeId_fns (s : State) : (takeId s).2.fns = s.fns := rfl
@[simp] theorem takeId_builds (s : State) : (takeId s).2.builds = s.builds := rfl
@[simp] theorem takeId_compacts (s : State) : (takeId s).2.compacts = s.compacts := rfl
@[simp] theorem takeId_rayCounts (s : State) : (takeId s).2.rayCounts = s.rayCounts := rfl
@[simp] theorem takeId_saved (s : State) : (takeId s).2.saved = s.saved := rfl
@[simp] theorem takeId_swaps (s : State) : (takeId s).2.swaps = s.swaps := rfl
@[simp] theorem takeId_debug (s : State) : (takeId s).2.dbg = s.dbg := rfl
@[simp] theorem takeId_out (s : State) : (takeId s).2.out = s.out := rfl
@[simp] theorem takeId_rootTable (s : State) : (takeId s).2.rootTable = s.rootTable := rfl
@[simp] theorem takeId_saveArea (s : State) : (takeId s).2.saveArea = s.saveArea := rfl
@[simp] theorem takeId_time (s : State) : (takeId s).2.time = s.time := rfl
@[simp] theorem takeId_agenda (s : State) : (takeId s).2.agenda = s.agenda := rfl
@[simp] theorem takeId_timers (s : State) : (takeId s).2.timers = s.timers := rfl
@[simp] theorem takeId_args (s : State) : (takeId s).2.args = s.args := rfl
@[simp] theorem takeId_iss (s : State) : (takeId s).2.iss = s.iss := rfl
@[simp] theorem takeId_ids (s : State) : (takeId s).2.ids = s.ids + 1 := rfl
@[simp] theorem takeId_free (s : State) : (takeId s).2.free = s.free := rfl

/-! ### due -/

@[simp] theorem due_variant (s : State) (i : Instr) (a : StepArgs) : (due s i a).variant = s.variant := rfl
@[simp] theorem due_trust (s : State) (i : Instr) (a : StepArgs) : (due s i a).trust = s.trust := rfl
@[simp] theorem due_platform (s : State) (i : Instr) (a : StepArgs) : (due s i a).platform = s.platform := rfl
@[simp] theorem due_mem (s : State) (i : Instr) (a : StepArgs) : (due s i a).mem = s.mem := rfl
@[simp] theorem due_coherence (s : State) (i : Instr) (a : StepArgs) : (due s i a).coherence = s.coherence := rfl
@[simp] theorem due_cores (s : State) (i : Instr) (a : StepArgs) : (due s i a).cores = s.cores := rfl
@[simp] theorem due_piers (s : State) (i : Instr) (a : StepArgs) : (due s i a).piers = s.piers := rfl
@[simp] theorem due_teams (s : State) (i : Instr) (a : StepArgs) : (due s i a).teams = s.teams := rfl
@[simp] theorem due_gangs (s : State) (i : Instr) (a : StepArgs) : (due s i a).gangs = s.gangs := rfl
@[simp] theorem due_launches (s : State) (i : Instr) (a : StepArgs) : (due s i a).launches = s.launches := rfl
@[simp] theorem due_placers (s : State) (i : Instr) (a : StepArgs) : (due s i a).placers = s.placers := rfl
@[simp] theorem due_queues (s : State) (i : Instr) (a : StepArgs) : (due s i a).queues = s.queues := rfl
@[simp] theorem due_cqs (s : State) (i : Instr) (a : StepArgs) : (due s i a).cqs = s.cqs := rfl
@[simp] theorem due_fns (s : State) (i : Instr) (a : StepArgs) : (due s i a).fns = s.fns := rfl
@[simp] theorem due_builds (s : State) (i : Instr) (a : StepArgs) : (due s i a).builds = s.builds := rfl
@[simp] theorem due_compacts (s : State) (i : Instr) (a : StepArgs) : (due s i a).compacts = s.compacts := rfl
@[simp] theorem due_rayCounts (s : State) (i : Instr) (a : StepArgs) : (due s i a).rayCounts = s.rayCounts := rfl
@[simp] theorem due_saved (s : State) (i : Instr) (a : StepArgs) : (due s i a).saved = s.saved := rfl
@[simp] theorem due_swaps (s : State) (i : Instr) (a : StepArgs) : (due s i a).swaps = s.swaps := rfl
@[simp] theorem due_debug (s : State) (i : Instr) (a : StepArgs) : (due s i a).dbg = s.dbg := rfl
@[simp] theorem due_out (s : State) (i : Instr) (a : StepArgs) : (due s i a).out = s.out := rfl
@[simp] theorem due_rootTable (s : State) (i : Instr) (a : StepArgs) : (due s i a).rootTable = s.rootTable := rfl
@[simp] theorem due_saveArea (s : State) (i : Instr) (a : StepArgs) : (due s i a).saveArea = s.saveArea := rfl
@[simp] theorem due_time (s : State) (i : Instr) (a : StepArgs) : (due s i a).time = s.time := rfl
@[simp] theorem due_agenda (s : State) (i : Instr) (a : StepArgs) : (due s i a).agenda = s.agenda ++ [⟨i, a⟩] := rfl
@[simp] theorem due_timers (s : State) (i : Instr) (a : StepArgs) : (due s i a).timers = s.timers := rfl
@[simp] theorem due_args (s : State) (i : Instr) (a : StepArgs) : (due s i a).args = s.args := rfl
@[simp] theorem due_iss (s : State) (i : Instr) (a : StepArgs) : (due s i a).iss = s.iss := rfl
@[simp] theorem due_ids (s : State) (i : Instr) (a : StepArgs) : (due s i a).ids = s.ids := rfl
@[simp] theorem due_free (s : State) (i : Instr) (a : StepArgs) : (due s i a).free = s.free := rfl

/-! ### dueOnce -/

@[simp] theorem dueOnce_variant (s : State) (i : Instr) (a : StepArgs) : (dueOnce s i a).variant = s.variant := by unfold dueOnce; split <;> rfl
@[simp] theorem dueOnce_trust (s : State) (i : Instr) (a : StepArgs) : (dueOnce s i a).trust = s.trust := by unfold dueOnce; split <;> rfl
@[simp] theorem dueOnce_platform (s : State) (i : Instr) (a : StepArgs) : (dueOnce s i a).platform = s.platform := by unfold dueOnce; split <;> rfl
@[simp] theorem dueOnce_mem (s : State) (i : Instr) (a : StepArgs) : (dueOnce s i a).mem = s.mem := by unfold dueOnce; split <;> rfl
@[simp] theorem dueOnce_coherence (s : State) (i : Instr) (a : StepArgs) : (dueOnce s i a).coherence = s.coherence := by unfold dueOnce; split <;> rfl
@[simp] theorem dueOnce_cores (s : State) (i : Instr) (a : StepArgs) : (dueOnce s i a).cores = s.cores := by unfold dueOnce; split <;> rfl
@[simp] theorem dueOnce_piers (s : State) (i : Instr) (a : StepArgs) : (dueOnce s i a).piers = s.piers := by unfold dueOnce; split <;> rfl
@[simp] theorem dueOnce_teams (s : State) (i : Instr) (a : StepArgs) : (dueOnce s i a).teams = s.teams := by unfold dueOnce; split <;> rfl
@[simp] theorem dueOnce_gangs (s : State) (i : Instr) (a : StepArgs) : (dueOnce s i a).gangs = s.gangs := by unfold dueOnce; split <;> rfl
@[simp] theorem dueOnce_launches (s : State) (i : Instr) (a : StepArgs) : (dueOnce s i a).launches = s.launches := by unfold dueOnce; split <;> rfl
@[simp] theorem dueOnce_placers (s : State) (i : Instr) (a : StepArgs) : (dueOnce s i a).placers = s.placers := by unfold dueOnce; split <;> rfl
@[simp] theorem dueOnce_queues (s : State) (i : Instr) (a : StepArgs) : (dueOnce s i a).queues = s.queues := by unfold dueOnce; split <;> rfl
@[simp] theorem dueOnce_cqs (s : State) (i : Instr) (a : StepArgs) : (dueOnce s i a).cqs = s.cqs := by unfold dueOnce; split <;> rfl
@[simp] theorem dueOnce_fns (s : State) (i : Instr) (a : StepArgs) : (dueOnce s i a).fns = s.fns := by unfold dueOnce; split <;> rfl
@[simp] theorem dueOnce_builds (s : State) (i : Instr) (a : StepArgs) : (dueOnce s i a).builds = s.builds := by unfold dueOnce; split <;> rfl
@[simp] theorem dueOnce_compacts (s : State) (i : Instr) (a : StepArgs) : (dueOnce s i a).compacts = s.compacts := by unfold dueOnce; split <;> rfl
@[simp] theorem dueOnce_rayCounts (s : State) (i : Instr) (a : StepArgs) : (dueOnce s i a).rayCounts = s.rayCounts := by unfold dueOnce; split <;> rfl
@[simp] theorem dueOnce_saved (s : State) (i : Instr) (a : StepArgs) : (dueOnce s i a).saved = s.saved := by unfold dueOnce; split <;> rfl
@[simp] theorem dueOnce_swaps (s : State) (i : Instr) (a : StepArgs) : (dueOnce s i a).swaps = s.swaps := by unfold dueOnce; split <;> rfl
@[simp] theorem dueOnce_debug (s : State) (i : Instr) (a : StepArgs) : (dueOnce s i a).dbg = s.dbg := by unfold dueOnce; split <;> rfl
@[simp] theorem dueOnce_out (s : State) (i : Instr) (a : StepArgs) : (dueOnce s i a).out = s.out := by unfold dueOnce; split <;> rfl
@[simp] theorem dueOnce_rootTable (s : State) (i : Instr) (a : StepArgs) : (dueOnce s i a).rootTable = s.rootTable := by unfold dueOnce; split <;> rfl
@[simp] theorem dueOnce_saveArea (s : State) (i : Instr) (a : StepArgs) : (dueOnce s i a).saveArea = s.saveArea := by unfold dueOnce; split <;> rfl
@[simp] theorem dueOnce_time (s : State) (i : Instr) (a : StepArgs) : (dueOnce s i a).time = s.time := by unfold dueOnce; split <;> rfl
@[simp] theorem dueOnce_timers (s : State) (i : Instr) (a : StepArgs) : (dueOnce s i a).timers = s.timers := by unfold dueOnce; split <;> rfl
@[simp] theorem dueOnce_args (s : State) (i : Instr) (a : StepArgs) : (dueOnce s i a).args = s.args := by unfold dueOnce; split <;> rfl
@[simp] theorem dueOnce_iss (s : State) (i : Instr) (a : StepArgs) : (dueOnce s i a).iss = s.iss := by unfold dueOnce; split <;> rfl
@[simp] theorem dueOnce_ids (s : State) (i : Instr) (a : StepArgs) : (dueOnce s i a).ids = s.ids := by unfold dueOnce; split <;> rfl
@[simp] theorem dueOnce_free (s : State) (i : Instr) (a : StepArgs) : (dueOnce s i a).free = s.free := by unfold dueOnce; split <;> rfl

/-! ### later -/

@[simp] theorem later_variant (s : State) (n : Nat) (i : Instr) (a : StepArgs) : (later s n i a).variant = s.variant := rfl
@[simp] theorem later_trust (s : State) (n : Nat) (i : Instr) (a : StepArgs) : (later s n i a).trust = s.trust := rfl
@[simp] theorem later_platform (s : State) (n : Nat) (i : Instr) (a : StepArgs) : (later s n i a).platform = s.platform := rfl
@[simp] theorem later_mem (s : State) (n : Nat) (i : Instr) (a : StepArgs) : (later s n i a).mem = s.mem := rfl
@[simp] theorem later_coherence (s : State) (n : Nat) (i : Instr) (a : StepArgs) : (later s n i a).coherence = s.coherence := rfl
@[simp] theorem later_cores (s : State) (n : Nat) (i : Instr) (a : StepArgs) : (later s n i a).cores = s.cores := rfl
@[simp] theorem later_piers (s : State) (n : Nat) (i : Instr) (a : StepArgs) : (later s n i a).piers = s.piers := rfl
@[simp] theorem later_teams (s : State) (n : Nat) (i : Instr) (a : StepArgs) : (later s n i a).teams = s.teams := rfl
@[simp] theorem later_gangs (s : State) (n : Nat) (i : Instr) (a : StepArgs) : (later s n i a).gangs = s.gangs := rfl
@[simp] theorem later_launches (s : State) (n : Nat) (i : Instr) (a : StepArgs) : (later s n i a).launches = s.launches := rfl
@[simp] theorem later_placers (s : State) (n : Nat) (i : Instr) (a : StepArgs) : (later s n i a).placers = s.placers := rfl
@[simp] theorem later_queues (s : State) (n : Nat) (i : Instr) (a : StepArgs) : (later s n i a).queues = s.queues := rfl
@[simp] theorem later_cqs (s : State) (n : Nat) (i : Instr) (a : StepArgs) : (later s n i a).cqs = s.cqs := rfl
@[simp] theorem later_fns (s : State) (n : Nat) (i : Instr) (a : StepArgs) : (later s n i a).fns = s.fns := rfl
@[simp] theorem later_builds (s : State) (n : Nat) (i : Instr) (a : StepArgs) : (later s n i a).builds = s.builds := rfl
@[simp] theorem later_compacts (s : State) (n : Nat) (i : Instr) (a : StepArgs) : (later s n i a).compacts = s.compacts := rfl
@[simp] theorem later_rayCounts (s : State) (n : Nat) (i : Instr) (a : StepArgs) : (later s n i a).rayCounts = s.rayCounts := rfl
@[simp] theorem later_saved (s : State) (n : Nat) (i : Instr) (a : StepArgs) : (later s n i a).saved = s.saved := rfl
@[simp] theorem later_swaps (s : State) (n : Nat) (i : Instr) (a : StepArgs) : (later s n i a).swaps = s.swaps := rfl
@[simp] theorem later_debug (s : State) (n : Nat) (i : Instr) (a : StepArgs) : (later s n i a).dbg = s.dbg := rfl
@[simp] theorem later_out (s : State) (n : Nat) (i : Instr) (a : StepArgs) : (later s n i a).out = s.out := rfl
@[simp] theorem later_rootTable (s : State) (n : Nat) (i : Instr) (a : StepArgs) : (later s n i a).rootTable = s.rootTable := rfl
@[simp] theorem later_saveArea (s : State) (n : Nat) (i : Instr) (a : StepArgs) : (later s n i a).saveArea = s.saveArea := rfl
@[simp] theorem later_time (s : State) (n : Nat) (i : Instr) (a : StepArgs) : (later s n i a).time = s.time := rfl
@[simp] theorem later_agenda (s : State) (n : Nat) (i : Instr) (a : StepArgs) : (later s n i a).agenda = s.agenda := rfl
@[simp] theorem later_timers (s : State) (n : Nat) (i : Instr) (a : StepArgs) : (later s n i a).timers = s.timers ++ [⟨now s + n, ⟨i, a⟩⟩] := rfl
@[simp] theorem later_args (s : State) (n : Nat) (i : Instr) (a : StepArgs) : (later s n i a).args = s.args := rfl
@[simp] theorem later_iss (s : State) (n : Nat) (i : Instr) (a : StepArgs) : (later s n i a).iss = s.iss := rfl
@[simp] theorem later_ids (s : State) (n : Nat) (i : Instr) (a : StepArgs) : (later s n i a).ids = s.ids := rfl
@[simp] theorem later_free (s : State) (n : Nat) (i : Instr) (a : StepArgs) : (later s n i a).free = s.free := rfl

/-! ### withdraw -/

@[simp] theorem withdraw_variant (s : State) (p : Due → Bool) : (withdraw s p).variant = s.variant := rfl
@[simp] theorem withdraw_trust (s : State) (p : Due → Bool) : (withdraw s p).trust = s.trust := rfl
@[simp] theorem withdraw_platform (s : State) (p : Due → Bool) : (withdraw s p).platform = s.platform := rfl
@[simp] theorem withdraw_mem (s : State) (p : Due → Bool) : (withdraw s p).mem = s.mem := rfl
@[simp] theorem withdraw_coherence (s : State) (p : Due → Bool) : (withdraw s p).coherence = s.coherence := rfl
@[simp] theorem withdraw_cores (s : State) (p : Due → Bool) : (withdraw s p).cores = s.cores := rfl
@[simp] theorem withdraw_piers (s : State) (p : Due → Bool) : (withdraw s p).piers = s.piers := rfl
@[simp] theorem withdraw_teams (s : State) (p : Due → Bool) : (withdraw s p).teams = s.teams := rfl
@[simp] theorem withdraw_gangs (s : State) (p : Due → Bool) : (withdraw s p).gangs = s.gangs := rfl
@[simp] theorem withdraw_launches (s : State) (p : Due → Bool) : (withdraw s p).launches = s.launches := rfl
@[simp] theorem withdraw_placers (s : State) (p : Due → Bool) : (withdraw s p).placers = s.placers := rfl
@[simp] theorem withdraw_queues (s : State) (p : Due → Bool) : (withdraw s p).queues = s.queues := rfl
@[simp] theorem withdraw_cqs (s : State) (p : Due → Bool) : (withdraw s p).cqs = s.cqs := rfl
@[simp] theorem withdraw_fns (s : State) (p : Due → Bool) : (withdraw s p).fns = s.fns := rfl
@[simp] theorem withdraw_builds (s : State) (p : Due → Bool) : (withdraw s p).builds = s.builds := rfl
@[simp] theorem withdraw_compacts (s : State) (p : Due → Bool) : (withdraw s p).compacts = s.compacts := rfl
@[simp] theorem withdraw_rayCounts (s : State) (p : Due → Bool) : (withdraw s p).rayCounts = s.rayCounts := rfl
@[simp] theorem withdraw_saved (s : State) (p : Due → Bool) : (withdraw s p).saved = s.saved := rfl
@[simp] theorem withdraw_swaps (s : State) (p : Due → Bool) : (withdraw s p).swaps = s.swaps := rfl
@[simp] theorem withdraw_debug (s : State) (p : Due → Bool) : (withdraw s p).dbg = s.dbg := rfl
@[simp] theorem withdraw_out (s : State) (p : Due → Bool) : (withdraw s p).out = s.out := rfl
@[simp] theorem withdraw_rootTable (s : State) (p : Due → Bool) : (withdraw s p).rootTable = s.rootTable := rfl
@[simp] theorem withdraw_saveArea (s : State) (p : Due → Bool) : (withdraw s p).saveArea = s.saveArea := rfl
@[simp] theorem withdraw_time (s : State) (p : Due → Bool) : (withdraw s p).time = s.time := rfl
@[simp] theorem withdraw_agenda (s : State) (p : Due → Bool) : (withdraw s p).agenda = s.agenda.filter fun d => !(p d) := rfl
@[simp] theorem withdraw_timers (s : State) (p : Due → Bool) : (withdraw s p).timers = s.timers.filter fun t => !(p t.due) := rfl
@[simp] theorem withdraw_args (s : State) (p : Due → Bool) : (withdraw s p).args = s.args := rfl
@[simp] theorem withdraw_iss (s : State) (p : Due → Bool) : (withdraw s p).iss = s.iss := rfl
@[simp] theorem withdraw_ids (s : State) (p : Due → Bool) : (withdraw s p).ids = s.ids := rfl
@[simp] theorem withdraw_free (s : State) (p : Due → Bool) : (withdraw s p).free = s.free := rfl

/-! ### modCore -/

@[simp] theorem modCore_variant (s : State) (c : Nat) (f : Core → Core) : (modCore s c f).variant = s.variant := rfl
@[simp] theorem modCore_trust (s : State) (c : Nat) (f : Core → Core) : (modCore s c f).trust = s.trust := rfl
@[simp] theorem modCore_platform (s : State) (c : Nat) (f : Core → Core) : (modCore s c f).platform = s.platform := rfl
@[simp] theorem modCore_mem (s : State) (c : Nat) (f : Core → Core) : (modCore s c f).mem = s.mem := rfl
@[simp] theorem modCore_coherence (s : State) (c : Nat) (f : Core → Core) : (modCore s c f).coherence = s.coherence := rfl
@[simp] theorem modCore_cores (s : State) (c : Nat) (f : Core → Core) : (modCore s c f).cores = place s.cores c (f (coreOf s c)) := rfl
@[simp] theorem modCore_piers (s : State) (c : Nat) (f : Core → Core) : (modCore s c f).piers = s.piers := rfl
@[simp] theorem modCore_teams (s : State) (c : Nat) (f : Core → Core) : (modCore s c f).teams = s.teams := rfl
@[simp] theorem modCore_gangs (s : State) (c : Nat) (f : Core → Core) : (modCore s c f).gangs = s.gangs := rfl
@[simp] theorem modCore_launches (s : State) (c : Nat) (f : Core → Core) : (modCore s c f).launches = s.launches := rfl
@[simp] theorem modCore_placers (s : State) (c : Nat) (f : Core → Core) : (modCore s c f).placers = s.placers := rfl
@[simp] theorem modCore_queues (s : State) (c : Nat) (f : Core → Core) : (modCore s c f).queues = s.queues := rfl
@[simp] theorem modCore_cqs (s : State) (c : Nat) (f : Core → Core) : (modCore s c f).cqs = s.cqs := rfl
@[simp] theorem modCore_fns (s : State) (c : Nat) (f : Core → Core) : (modCore s c f).fns = s.fns := rfl
@[simp] theorem modCore_builds (s : State) (c : Nat) (f : Core → Core) : (modCore s c f).builds = s.builds := rfl
@[simp] theorem modCore_compacts (s : State) (c : Nat) (f : Core → Core) : (modCore s c f).compacts = s.compacts := rfl
@[simp] theorem modCore_rayCounts (s : State) (c : Nat) (f : Core → Core) : (modCore s c f).rayCounts = s.rayCounts := rfl
@[simp] theorem modCore_saved (s : State) (c : Nat) (f : Core → Core) : (modCore s c f).saved = s.saved := rfl
@[simp] theorem modCore_swaps (s : State) (c : Nat) (f : Core → Core) : (modCore s c f).swaps = s.swaps := rfl
@[simp] theorem modCore_debug (s : State) (c : Nat) (f : Core → Core) : (modCore s c f).dbg = s.dbg := rfl
@[simp] theorem modCore_out (s : State) (c : Nat) (f : Core → Core) : (modCore s c f).out = s.out := rfl
@[simp] theorem modCore_rootTable (s : State) (c : Nat) (f : Core → Core) : (modCore s c f).rootTable = s.rootTable := rfl
@[simp] theorem modCore_saveArea (s : State) (c : Nat) (f : Core → Core) : (modCore s c f).saveArea = s.saveArea := rfl
@[simp] theorem modCore_time (s : State) (c : Nat) (f : Core → Core) : (modCore s c f).time = s.time := rfl
@[simp] theorem modCore_agenda (s : State) (c : Nat) (f : Core → Core) : (modCore s c f).agenda = s.agenda := rfl
@[simp] theorem modCore_timers (s : State) (c : Nat) (f : Core → Core) : (modCore s c f).timers = s.timers := rfl
@[simp] theorem modCore_args (s : State) (c : Nat) (f : Core → Core) : (modCore s c f).args = s.args := rfl
@[simp] theorem modCore_iss (s : State) (c : Nat) (f : Core → Core) : (modCore s c f).iss = s.iss := rfl
@[simp] theorem modCore_ids (s : State) (c : Nat) (f : Core → Core) : (modCore s c f).ids = s.ids := rfl
@[simp] theorem modCore_free (s : State) (c : Nat) (f : Core → Core) : (modCore s c f).free = s.free := rfl

/-! ### setGroup -/

@[simp] theorem setGroup_variant (s : State) (c sl : Nat) (g : Group) : (setGroup s c sl g).variant = s.variant := rfl
@[simp] theorem setGroup_trust (s : State) (c sl : Nat) (g : Group) : (setGroup s c sl g).trust = s.trust := rfl
@[simp] theorem setGroup_platform (s : State) (c sl : Nat) (g : Group) : (setGroup s c sl g).platform = s.platform := rfl
@[simp] theorem setGroup_mem (s : State) (c sl : Nat) (g : Group) : (setGroup s c sl g).mem = s.mem := rfl
@[simp] theorem setGroup_coherence (s : State) (c sl : Nat) (g : Group) : (setGroup s c sl g).coherence = s.coherence := rfl
@[simp] theorem setGroup_piers (s : State) (c sl : Nat) (g : Group) : (setGroup s c sl g).piers = s.piers := rfl
@[simp] theorem setGroup_teams (s : State) (c sl : Nat) (g : Group) : (setGroup s c sl g).teams = s.teams := rfl
@[simp] theorem setGroup_gangs (s : State) (c sl : Nat) (g : Group) : (setGroup s c sl g).gangs = s.gangs := rfl
@[simp] theorem setGroup_launches (s : State) (c sl : Nat) (g : Group) : (setGroup s c sl g).launches = s.launches := rfl
@[simp] theorem setGroup_placers (s : State) (c sl : Nat) (g : Group) : (setGroup s c sl g).placers = s.placers := rfl
@[simp] theorem setGroup_queues (s : State) (c sl : Nat) (g : Group) : (setGroup s c sl g).queues = s.queues := rfl
@[simp] theorem setGroup_cqs (s : State) (c sl : Nat) (g : Group) : (setGroup s c sl g).cqs = s.cqs := rfl
@[simp] theorem setGroup_fns (s : State) (c sl : Nat) (g : Group) : (setGroup s c sl g).fns = s.fns := rfl
@[simp] theorem setGroup_builds (s : State) (c sl : Nat) (g : Group) : (setGroup s c sl g).builds = s.builds := rfl
@[simp] theorem setGroup_compacts (s : State) (c sl : Nat) (g : Group) : (setGroup s c sl g).compacts = s.compacts := rfl
@[simp] theorem setGroup_rayCounts (s : State) (c sl : Nat) (g : Group) : (setGroup s c sl g).rayCounts = s.rayCounts := rfl
@[simp] theorem setGroup_saved (s : State) (c sl : Nat) (g : Group) : (setGroup s c sl g).saved = s.saved := rfl
@[simp] theorem setGroup_swaps (s : State) (c sl : Nat) (g : Group) : (setGroup s c sl g).swaps = s.swaps := rfl
@[simp] theorem setGroup_debug (s : State) (c sl : Nat) (g : Group) : (setGroup s c sl g).dbg = s.dbg := rfl
@[simp] theorem setGroup_out (s : State) (c sl : Nat) (g : Group) : (setGroup s c sl g).out = s.out := rfl
@[simp] theorem setGroup_rootTable (s : State) (c sl : Nat) (g : Group) : (setGroup s c sl g).rootTable = s.rootTable := rfl
@[simp] theorem setGroup_saveArea (s : State) (c sl : Nat) (g : Group) : (setGroup s c sl g).saveArea = s.saveArea := rfl
@[simp] theorem setGroup_time (s : State) (c sl : Nat) (g : Group) : (setGroup s c sl g).time = s.time := rfl
@[simp] theorem setGroup_agenda (s : State) (c sl : Nat) (g : Group) : (setGroup s c sl g).agenda = s.agenda := rfl
@[simp] theorem setGroup_timers (s : State) (c sl : Nat) (g : Group) : (setGroup s c sl g).timers = s.timers := rfl
@[simp] theorem setGroup_args (s : State) (c sl : Nat) (g : Group) : (setGroup s c sl g).args = s.args := rfl
@[simp] theorem setGroup_iss (s : State) (c sl : Nat) (g : Group) : (setGroup s c sl g).iss = s.iss := rfl
@[simp] theorem setGroup_ids (s : State) (c sl : Nat) (g : Group) : (setGroup s c sl g).ids = s.ids := rfl
@[simp] theorem setGroup_free (s : State) (c sl : Nat) (g : Group) : (setGroup s c sl g).free = s.free := rfl

/-! ### modGroup -/

@[simp] theorem modGroup_variant (s : State) (c sl : Nat) (f : Group → Group) : (modGroup s c sl f).variant = s.variant := by unfold modGroup; split <;> rfl
@[simp] theorem modGroup_trust (s : State) (c sl : Nat) (f : Group → Group) : (modGroup s c sl f).trust = s.trust := by unfold modGroup; split <;> rfl
@[simp] theorem modGroup_platform (s : State) (c sl : Nat) (f : Group → Group) : (modGroup s c sl f).platform = s.platform := by unfold modGroup; split <;> rfl
@[simp] theorem modGroup_mem (s : State) (c sl : Nat) (f : Group → Group) : (modGroup s c sl f).mem = s.mem := by unfold modGroup; split <;> rfl
@[simp] theorem modGroup_coherence (s : State) (c sl : Nat) (f : Group → Group) : (modGroup s c sl f).coherence = s.coherence := by unfold modGroup; split <;> rfl
@[simp] theorem modGroup_piers (s : State) (c sl : Nat) (f : Group → Group) : (modGroup s c sl f).piers = s.piers := by unfold modGroup; split <;> rfl
@[simp] theorem modGroup_teams (s : State) (c sl : Nat) (f : Group → Group) : (modGroup s c sl f).teams = s.teams := by unfold modGroup; split <;> rfl
@[simp] theorem modGroup_gangs (s : State) (c sl : Nat) (f : Group → Group) : (modGroup s c sl f).gangs = s.gangs := by unfold modGroup; split <;> rfl
@[simp] theorem modGroup_launches (s : State) (c sl : Nat) (f : Group → Group) : (modGroup s c sl f).launches = s.launches := by unfold modGroup; split <;> rfl
@[simp] theorem modGroup_placers (s : State) (c sl : Nat) (f : Group → Group) : (modGroup s c sl f).placers = s.placers := by unfold modGroup; split <;> rfl
@[simp] theorem modGroup_queues (s : State) (c sl : Nat) (f : Group → Group) : (modGroup s c sl f).queues = s.queues := by unfold modGroup; split <;> rfl
@[simp] theorem modGroup_cqs (s : State) (c sl : Nat) (f : Group → Group) : (modGroup s c sl f).cqs = s.cqs := by unfold modGroup; split <;> rfl
@[simp] theorem modGroup_fns (s : State) (c sl : Nat) (f : Group → Group) : (modGroup s c sl f).fns = s.fns := by unfold modGroup; split <;> rfl
@[simp] theorem modGroup_builds (s : State) (c sl : Nat) (f : Group → Group) : (modGroup s c sl f).builds = s.builds := by unfold modGroup; split <;> rfl
@[simp] theorem modGroup_compacts (s : State) (c sl : Nat) (f : Group → Group) : (modGroup s c sl f).compacts = s.compacts := by unfold modGroup; split <;> rfl
@[simp] theorem modGroup_rayCounts (s : State) (c sl : Nat) (f : Group → Group) : (modGroup s c sl f).rayCounts = s.rayCounts := by unfold modGroup; split <;> rfl
@[simp] theorem modGroup_saved (s : State) (c sl : Nat) (f : Group → Group) : (modGroup s c sl f).saved = s.saved := by unfold modGroup; split <;> rfl
@[simp] theorem modGroup_swaps (s : State) (c sl : Nat) (f : Group → Group) : (modGroup s c sl f).swaps = s.swaps := by unfold modGroup; split <;> rfl
@[simp] theorem modGroup_debug (s : State) (c sl : Nat) (f : Group → Group) : (modGroup s c sl f).dbg = s.dbg := by unfold modGroup; split <;> rfl
@[simp] theorem modGroup_out (s : State) (c sl : Nat) (f : Group → Group) : (modGroup s c sl f).out = s.out := by unfold modGroup; split <;> rfl
@[simp] theorem modGroup_rootTable (s : State) (c sl : Nat) (f : Group → Group) : (modGroup s c sl f).rootTable = s.rootTable := by unfold modGroup; split <;> rfl
@[simp] theorem modGroup_saveArea (s : State) (c sl : Nat) (f : Group → Group) : (modGroup s c sl f).saveArea = s.saveArea := by unfold modGroup; split <;> rfl
@[simp] theorem modGroup_time (s : State) (c sl : Nat) (f : Group → Group) : (modGroup s c sl f).time = s.time := by unfold modGroup; split <;> rfl
@[simp] theorem modGroup_agenda (s : State) (c sl : Nat) (f : Group → Group) : (modGroup s c sl f).agenda = s.agenda := by unfold modGroup; split <;> rfl
@[simp] theorem modGroup_timers (s : State) (c sl : Nat) (f : Group → Group) : (modGroup s c sl f).timers = s.timers := by unfold modGroup; split <;> rfl
@[simp] theorem modGroup_args (s : State) (c sl : Nat) (f : Group → Group) : (modGroup s c sl f).args = s.args := by unfold modGroup; split <;> rfl
@[simp] theorem modGroup_iss (s : State) (c sl : Nat) (f : Group → Group) : (modGroup s c sl f).iss = s.iss := by unfold modGroup; split <;> rfl
@[simp] theorem modGroup_ids (s : State) (c sl : Nat) (f : Group → Group) : (modGroup s c sl f).ids = s.ids := by unfold modGroup; split <;> rfl
@[simp] theorem modGroup_free (s : State) (c sl : Nat) (f : Group → Group) : (modGroup s c sl f).free = s.free := by unfold modGroup; split <;> rfl

/-! ### onGroup -/

@[simp] theorem onGroup_variant (s : State) (f : Group → Group) : (onGroup s f).variant = s.variant := modGroup_variant s _ _ f
@[simp] theorem onGroup_trust (s : State) (f : Group → Group) : (onGroup s f).trust = s.trust := modGroup_trust s _ _ f
@[simp] theorem onGroup_platform (s : State) (f : Group → Group) : (onGroup s f).platform = s.platform := modGroup_platform s _ _ f
@[simp] theorem onGroup_mem (s : State) (f : Group → Group) : (onGroup s f).mem = s.mem := modGroup_mem s _ _ f
@[simp] theorem onGroup_coherence (s : State) (f : Group → Group) : (onGroup s f).coherence = s.coherence := modGroup_coherence s _ _ f
@[simp] theorem onGroup_piers (s : State) (f : Group → Group) : (onGroup s f).piers = s.piers := modGroup_piers s _ _ f
@[simp] theorem onGroup_teams (s : State) (f : Group → Group) : (onGroup s f).teams = s.teams := modGroup_teams s _ _ f
@[simp] theorem onGroup_gangs (s : State) (f : Group → Group) : (onGroup s f).gangs = s.gangs := modGroup_gangs s _ _ f
@[simp] theorem onGroup_launches (s : State) (f : Group → Group) : (onGroup s f).launches = s.launches := modGroup_launches s _ _ f
@[simp] theorem onGroup_placers (s : State) (f : Group → Group) : (onGroup s f).placers = s.placers := modGroup_placers s _ _ f
@[simp] theorem onGroup_queues (s : State) (f : Group → Group) : (onGroup s f).queues = s.queues := modGroup_queues s _ _ f
@[simp] theorem onGroup_cqs (s : State) (f : Group → Group) : (onGroup s f).cqs = s.cqs := modGroup_cqs s _ _ f
@[simp] theorem onGroup_fns (s : State) (f : Group → Group) : (onGroup s f).fns = s.fns := modGroup_fns s _ _ f
@[simp] theorem onGroup_builds (s : State) (f : Group → Group) : (onGroup s f).builds = s.builds := modGroup_builds s _ _ f
@[simp] theorem onGroup_compacts (s : State) (f : Group → Group) : (onGroup s f).compacts = s.compacts := modGroup_compacts s _ _ f
@[simp] theorem onGroup_rayCounts (s : State) (f : Group → Group) : (onGroup s f).rayCounts = s.rayCounts := modGroup_rayCounts s _ _ f
@[simp] theorem onGroup_saved (s : State) (f : Group → Group) : (onGroup s f).saved = s.saved := modGroup_saved s _ _ f
@[simp] theorem onGroup_swaps (s : State) (f : Group → Group) : (onGroup s f).swaps = s.swaps := modGroup_swaps s _ _ f
@[simp] theorem onGroup_debug (s : State) (f : Group → Group) : (onGroup s f).dbg = s.dbg := modGroup_debug s _ _ f
@[simp] theorem onGroup_out (s : State) (f : Group → Group) : (onGroup s f).out = s.out := modGroup_out s _ _ f
@[simp] theorem onGroup_rootTable (s : State) (f : Group → Group) : (onGroup s f).rootTable = s.rootTable := modGroup_rootTable s _ _ f
@[simp] theorem onGroup_saveArea (s : State) (f : Group → Group) : (onGroup s f).saveArea = s.saveArea := modGroup_saveArea s _ _ f
@[simp] theorem onGroup_time (s : State) (f : Group → Group) : (onGroup s f).time = s.time := modGroup_time s _ _ f
@[simp] theorem onGroup_agenda (s : State) (f : Group → Group) : (onGroup s f).agenda = s.agenda := modGroup_agenda s _ _ f
@[simp] theorem onGroup_timers (s : State) (f : Group → Group) : (onGroup s f).timers = s.timers := modGroup_timers s _ _ f
@[simp] theorem onGroup_args (s : State) (f : Group → Group) : (onGroup s f).args = s.args := modGroup_args s _ _ f
@[simp] theorem onGroup_iss (s : State) (f : Group → Group) : (onGroup s f).iss = s.iss := modGroup_iss s _ _ f
@[simp] theorem onGroup_ids (s : State) (f : Group → Group) : (onGroup s f).ids = s.ids := modGroup_ids s _ _ f
@[simp] theorem onGroup_free (s : State) (f : Group → Group) : (onGroup s f).free = s.free := modGroup_free s _ _ f

/-! ### modPier -/

@[simp] theorem modPier_variant (s : State) (p : Nat) (f : Pier → Pier) : (modPier s p f).variant = s.variant := rfl
@[simp] theorem modPier_trust (s : State) (p : Nat) (f : Pier → Pier) : (modPier s p f).trust = s.trust := rfl
@[simp] theorem modPier_platform (s : State) (p : Nat) (f : Pier → Pier) : (modPier s p f).platform = s.platform := rfl
@[simp] theorem modPier_mem (s : State) (p : Nat) (f : Pier → Pier) : (modPier s p f).mem = s.mem := rfl
@[simp] theorem modPier_coherence (s : State) (p : Nat) (f : Pier → Pier) : (modPier s p f).coherence = s.coherence := rfl
@[simp] theorem modPier_cores (s : State) (p : Nat) (f : Pier → Pier) : (modPier s p f).cores = s.cores := rfl
@[simp] theorem modPier_piers (s : State) (p : Nat) (f : Pier → Pier) : (modPier s p f).piers = place s.piers p (f (pierOf s p)) := rfl
@[simp] theorem modPier_teams (s : State) (p : Nat) (f : Pier → Pier) : (modPier s p f).teams = s.teams := rfl
@[simp] theorem modPier_gangs (s : State) (p : Nat) (f : Pier → Pier) : (modPier s p f).gangs = s.gangs := rfl
@[simp] theorem modPier_launches (s : State) (p : Nat) (f : Pier → Pier) : (modPier s p f).launches = s.launches := rfl
@[simp] theorem modPier_placers (s : State) (p : Nat) (f : Pier → Pier) : (modPier s p f).placers = s.placers := rfl
@[simp] theorem modPier_queues (s : State) (p : Nat) (f : Pier → Pier) : (modPier s p f).queues = s.queues := rfl
@[simp] theorem modPier_cqs (s : State) (p : Nat) (f : Pier → Pier) : (modPier s p f).cqs = s.cqs := rfl
@[simp] theorem modPier_fns (s : State) (p : Nat) (f : Pier → Pier) : (modPier s p f).fns = s.fns := rfl
@[simp] theorem modPier_builds (s : State) (p : Nat) (f : Pier → Pier) : (modPier s p f).builds = s.builds := rfl
@[simp] theorem modPier_compacts (s : State) (p : Nat) (f : Pier → Pier) : (modPier s p f).compacts = s.compacts := rfl
@[simp] theorem modPier_rayCounts (s : State) (p : Nat) (f : Pier → Pier) : (modPier s p f).rayCounts = s.rayCounts := rfl
@[simp] theorem modPier_saved (s : State) (p : Nat) (f : Pier → Pier) : (modPier s p f).saved = s.saved := rfl
@[simp] theorem modPier_swaps (s : State) (p : Nat) (f : Pier → Pier) : (modPier s p f).swaps = s.swaps := rfl
@[simp] theorem modPier_debug (s : State) (p : Nat) (f : Pier → Pier) : (modPier s p f).dbg = s.dbg := rfl
@[simp] theorem modPier_out (s : State) (p : Nat) (f : Pier → Pier) : (modPier s p f).out = s.out := rfl
@[simp] theorem modPier_rootTable (s : State) (p : Nat) (f : Pier → Pier) : (modPier s p f).rootTable = s.rootTable := rfl
@[simp] theorem modPier_saveArea (s : State) (p : Nat) (f : Pier → Pier) : (modPier s p f).saveArea = s.saveArea := rfl
@[simp] theorem modPier_time (s : State) (p : Nat) (f : Pier → Pier) : (modPier s p f).time = s.time := rfl
@[simp] theorem modPier_agenda (s : State) (p : Nat) (f : Pier → Pier) : (modPier s p f).agenda = s.agenda := rfl
@[simp] theorem modPier_timers (s : State) (p : Nat) (f : Pier → Pier) : (modPier s p f).timers = s.timers := rfl
@[simp] theorem modPier_args (s : State) (p : Nat) (f : Pier → Pier) : (modPier s p f).args = s.args := rfl
@[simp] theorem modPier_iss (s : State) (p : Nat) (f : Pier → Pier) : (modPier s p f).iss = s.iss := rfl
@[simp] theorem modPier_ids (s : State) (p : Nat) (f : Pier → Pier) : (modPier s p f).ids = s.ids := rfl
@[simp] theorem modPier_free (s : State) (p : Nat) (f : Pier → Pier) : (modPier s p f).free = s.free := rfl

/-! ### modTeam -/

@[simp] theorem modTeam_variant (s : State) (n : Nat) (f : Team → Team) : (modTeam s n f).variant = s.variant := by unfold modTeam; split <;> rfl
@[simp] theorem modTeam_trust (s : State) (n : Nat) (f : Team → Team) : (modTeam s n f).trust = s.trust := by unfold modTeam; split <;> rfl
@[simp] theorem modTeam_platform (s : State) (n : Nat) (f : Team → Team) : (modTeam s n f).platform = s.platform := by unfold modTeam; split <;> rfl
@[simp] theorem modTeam_mem (s : State) (n : Nat) (f : Team → Team) : (modTeam s n f).mem = s.mem := by unfold modTeam; split <;> rfl
@[simp] theorem modTeam_coherence (s : State) (n : Nat) (f : Team → Team) : (modTeam s n f).coherence = s.coherence := by unfold modTeam; split <;> rfl
@[simp] theorem modTeam_cores (s : State) (n : Nat) (f : Team → Team) : (modTeam s n f).cores = s.cores := by unfold modTeam; split <;> rfl
@[simp] theorem modTeam_piers (s : State) (n : Nat) (f : Team → Team) : (modTeam s n f).piers = s.piers := by unfold modTeam; split <;> rfl
@[simp] theorem modTeam_gangs (s : State) (n : Nat) (f : Team → Team) : (modTeam s n f).gangs = s.gangs := by unfold modTeam; split <;> rfl
@[simp] theorem modTeam_launches (s : State) (n : Nat) (f : Team → Team) : (modTeam s n f).launches = s.launches := by unfold modTeam; split <;> rfl
@[simp] theorem modTeam_placers (s : State) (n : Nat) (f : Team → Team) : (modTeam s n f).placers = s.placers := by unfold modTeam; split <;> rfl
@[simp] theorem modTeam_queues (s : State) (n : Nat) (f : Team → Team) : (modTeam s n f).queues = s.queues := by unfold modTeam; split <;> rfl
@[simp] theorem modTeam_cqs (s : State) (n : Nat) (f : Team → Team) : (modTeam s n f).cqs = s.cqs := by unfold modTeam; split <;> rfl
@[simp] theorem modTeam_fns (s : State) (n : Nat) (f : Team → Team) : (modTeam s n f).fns = s.fns := by unfold modTeam; split <;> rfl
@[simp] theorem modTeam_builds (s : State) (n : Nat) (f : Team → Team) : (modTeam s n f).builds = s.builds := by unfold modTeam; split <;> rfl
@[simp] theorem modTeam_compacts (s : State) (n : Nat) (f : Team → Team) : (modTeam s n f).compacts = s.compacts := by unfold modTeam; split <;> rfl
@[simp] theorem modTeam_rayCounts (s : State) (n : Nat) (f : Team → Team) : (modTeam s n f).rayCounts = s.rayCounts := by unfold modTeam; split <;> rfl
@[simp] theorem modTeam_saved (s : State) (n : Nat) (f : Team → Team) : (modTeam s n f).saved = s.saved := by unfold modTeam; split <;> rfl
@[simp] theorem modTeam_swaps (s : State) (n : Nat) (f : Team → Team) : (modTeam s n f).swaps = s.swaps := by unfold modTeam; split <;> rfl
@[simp] theorem modTeam_debug (s : State) (n : Nat) (f : Team → Team) : (modTeam s n f).dbg = s.dbg := by unfold modTeam; split <;> rfl
@[simp] theorem modTeam_out (s : State) (n : Nat) (f : Team → Team) : (modTeam s n f).out = s.out := by unfold modTeam; split <;> rfl
@[simp] theorem modTeam_rootTable (s : State) (n : Nat) (f : Team → Team) : (modTeam s n f).rootTable = s.rootTable := by unfold modTeam; split <;> rfl
@[simp] theorem modTeam_saveArea (s : State) (n : Nat) (f : Team → Team) : (modTeam s n f).saveArea = s.saveArea := by unfold modTeam; split <;> rfl
@[simp] theorem modTeam_time (s : State) (n : Nat) (f : Team → Team) : (modTeam s n f).time = s.time := by unfold modTeam; split <;> rfl
@[simp] theorem modTeam_agenda (s : State) (n : Nat) (f : Team → Team) : (modTeam s n f).agenda = s.agenda := by unfold modTeam; split <;> rfl
@[simp] theorem modTeam_timers (s : State) (n : Nat) (f : Team → Team) : (modTeam s n f).timers = s.timers := by unfold modTeam; split <;> rfl
@[simp] theorem modTeam_args (s : State) (n : Nat) (f : Team → Team) : (modTeam s n f).args = s.args := by unfold modTeam; split <;> rfl
@[simp] theorem modTeam_iss (s : State) (n : Nat) (f : Team → Team) : (modTeam s n f).iss = s.iss := by unfold modTeam; split <;> rfl
@[simp] theorem modTeam_ids (s : State) (n : Nat) (f : Team → Team) : (modTeam s n f).ids = s.ids := by unfold modTeam; split <;> rfl
@[simp] theorem modTeam_free (s : State) (n : Nat) (f : Team → Team) : (modTeam s n f).free = s.free := by unfold modTeam; split <;> rfl

/-! ### modLaunch -/

@[simp] theorem modLaunch_variant (s : State) (n : Nat) (f : Launch → Launch) : (modLaunch s n f).variant = s.variant := by unfold modLaunch; split <;> rfl
@[simp] theorem modLaunch_trust (s : State) (n : Nat) (f : Launch → Launch) : (modLaunch s n f).trust = s.trust := by unfold modLaunch; split <;> rfl
@[simp] theorem modLaunch_platform (s : State) (n : Nat) (f : Launch → Launch) : (modLaunch s n f).platform = s.platform := by unfold modLaunch; split <;> rfl
@[simp] theorem modLaunch_mem (s : State) (n : Nat) (f : Launch → Launch) : (modLaunch s n f).mem = s.mem := by unfold modLaunch; split <;> rfl
@[simp] theorem modLaunch_coherence (s : State) (n : Nat) (f : Launch → Launch) : (modLaunch s n f).coherence = s.coherence := by unfold modLaunch; split <;> rfl
@[simp] theorem modLaunch_cores (s : State) (n : Nat) (f : Launch → Launch) : (modLaunch s n f).cores = s.cores := by unfold modLaunch; split <;> rfl
@[simp] theorem modLaunch_piers (s : State) (n : Nat) (f : Launch → Launch) : (modLaunch s n f).piers = s.piers := by unfold modLaunch; split <;> rfl
@[simp] theorem modLaunch_teams (s : State) (n : Nat) (f : Launch → Launch) : (modLaunch s n f).teams = s.teams := by unfold modLaunch; split <;> rfl
@[simp] theorem modLaunch_gangs (s : State) (n : Nat) (f : Launch → Launch) : (modLaunch s n f).gangs = s.gangs := by unfold modLaunch; split <;> rfl
@[simp] theorem modLaunch_placers (s : State) (n : Nat) (f : Launch → Launch) : (modLaunch s n f).placers = s.placers := by unfold modLaunch; split <;> rfl
@[simp] theorem modLaunch_queues (s : State) (n : Nat) (f : Launch → Launch) : (modLaunch s n f).queues = s.queues := by unfold modLaunch; split <;> rfl
@[simp] theorem modLaunch_cqs (s : State) (n : Nat) (f : Launch → Launch) : (modLaunch s n f).cqs = s.cqs := by unfold modLaunch; split <;> rfl
@[simp] theorem modLaunch_fns (s : State) (n : Nat) (f : Launch → Launch) : (modLaunch s n f).fns = s.fns := by unfold modLaunch; split <;> rfl
@[simp] theorem modLaunch_builds (s : State) (n : Nat) (f : Launch → Launch) : (modLaunch s n f).builds = s.builds := by unfold modLaunch; split <;> rfl
@[simp] theorem modLaunch_compacts (s : State) (n : Nat) (f : Launch → Launch) : (modLaunch s n f).compacts = s.compacts := by unfold modLaunch; split <;> rfl
@[simp] theorem modLaunch_rayCounts (s : State) (n : Nat) (f : Launch → Launch) : (modLaunch s n f).rayCounts = s.rayCounts := by unfold modLaunch; split <;> rfl
@[simp] theorem modLaunch_saved (s : State) (n : Nat) (f : Launch → Launch) : (modLaunch s n f).saved = s.saved := by unfold modLaunch; split <;> rfl
@[simp] theorem modLaunch_swaps (s : State) (n : Nat) (f : Launch → Launch) : (modLaunch s n f).swaps = s.swaps := by unfold modLaunch; split <;> rfl
@[simp] theorem modLaunch_debug (s : State) (n : Nat) (f : Launch → Launch) : (modLaunch s n f).dbg = s.dbg := by unfold modLaunch; split <;> rfl
@[simp] theorem modLaunch_out (s : State) (n : Nat) (f : Launch → Launch) : (modLaunch s n f).out = s.out := by unfold modLaunch; split <;> rfl
@[simp] theorem modLaunch_rootTable (s : State) (n : Nat) (f : Launch → Launch) : (modLaunch s n f).rootTable = s.rootTable := by unfold modLaunch; split <;> rfl
@[simp] theorem modLaunch_saveArea (s : State) (n : Nat) (f : Launch → Launch) : (modLaunch s n f).saveArea = s.saveArea := by unfold modLaunch; split <;> rfl
@[simp] theorem modLaunch_time (s : State) (n : Nat) (f : Launch → Launch) : (modLaunch s n f).time = s.time := by unfold modLaunch; split <;> rfl
@[simp] theorem modLaunch_agenda (s : State) (n : Nat) (f : Launch → Launch) : (modLaunch s n f).agenda = s.agenda := by unfold modLaunch; split <;> rfl
@[simp] theorem modLaunch_timers (s : State) (n : Nat) (f : Launch → Launch) : (modLaunch s n f).timers = s.timers := by unfold modLaunch; split <;> rfl
@[simp] theorem modLaunch_args (s : State) (n : Nat) (f : Launch → Launch) : (modLaunch s n f).args = s.args := by unfold modLaunch; split <;> rfl
@[simp] theorem modLaunch_iss (s : State) (n : Nat) (f : Launch → Launch) : (modLaunch s n f).iss = s.iss := by unfold modLaunch; split <;> rfl
@[simp] theorem modLaunch_ids (s : State) (n : Nat) (f : Launch → Launch) : (modLaunch s n f).ids = s.ids := by unfold modLaunch; split <;> rfl
@[simp] theorem modLaunch_free (s : State) (n : Nat) (f : Launch → Launch) : (modLaunch s n f).free = s.free := by unfold modLaunch; split <;> rfl

/-! ### modCounters -/

@[simp] theorem modCounters_variant (s : State) (c : Nat × Nat) (f : Queue → Queue) : (modCounters s c f).variant = s.variant := by unfold modCounters; split <;> (try split) <;> rfl
@[simp] theorem modCounters_trust (s : State) (c : Nat × Nat) (f : Queue → Queue) : (modCounters s c f).trust = s.trust := by unfold modCounters; split <;> (try split) <;> rfl
@[simp] theorem modCounters_platform (s : State) (c : Nat × Nat) (f : Queue → Queue) : (modCounters s c f).platform = s.platform := by unfold modCounters; split <;> (try split) <;> rfl
@[simp] theorem modCounters_mem (s : State) (c : Nat × Nat) (f : Queue → Queue) : (modCounters s c f).mem = s.mem := by unfold modCounters; split <;> (try split) <;> rfl
@[simp] theorem modCounters_coherence (s : State) (c : Nat × Nat) (f : Queue → Queue) : (modCounters s c f).coherence = s.coherence := by unfold modCounters; split <;> (try split) <;> rfl
@[simp] theorem modCounters_cores (s : State) (c : Nat × Nat) (f : Queue → Queue) : (modCounters s c f).cores = s.cores := by unfold modCounters; split <;> (try split) <;> rfl
@[simp] theorem modCounters_piers (s : State) (c : Nat × Nat) (f : Queue → Queue) : (modCounters s c f).piers = s.piers := by unfold modCounters; split <;> (try split) <;> rfl
@[simp] theorem modCounters_teams (s : State) (c : Nat × Nat) (f : Queue → Queue) : (modCounters s c f).teams = s.teams := by unfold modCounters; split <;> (try split) <;> rfl
@[simp] theorem modCounters_gangs (s : State) (c : Nat × Nat) (f : Queue → Queue) : (modCounters s c f).gangs = s.gangs := by unfold modCounters; split <;> (try split) <;> rfl
@[simp] theorem modCounters_launches (s : State) (c : Nat × Nat) (f : Queue → Queue) : (modCounters s c f).launches = s.launches := by unfold modCounters; split <;> (try split) <;> rfl
@[simp] theorem modCounters_placers (s : State) (c : Nat × Nat) (f : Queue → Queue) : (modCounters s c f).placers = s.placers := by unfold modCounters; split <;> (try split) <;> rfl
@[simp] theorem modCounters_cqs (s : State) (c : Nat × Nat) (f : Queue → Queue) : (modCounters s c f).cqs = s.cqs := by unfold modCounters; split <;> (try split) <;> rfl
@[simp] theorem modCounters_fns (s : State) (c : Nat × Nat) (f : Queue → Queue) : (modCounters s c f).fns = s.fns := by unfold modCounters; split <;> (try split) <;> rfl
@[simp] theorem modCounters_builds (s : State) (c : Nat × Nat) (f : Queue → Queue) : (modCounters s c f).builds = s.builds := by unfold modCounters; split <;> (try split) <;> rfl
@[simp] theorem modCounters_compacts (s : State) (c : Nat × Nat) (f : Queue → Queue) : (modCounters s c f).compacts = s.compacts := by unfold modCounters; split <;> (try split) <;> rfl
@[simp] theorem modCounters_rayCounts (s : State) (c : Nat × Nat) (f : Queue → Queue) : (modCounters s c f).rayCounts = s.rayCounts := by unfold modCounters; split <;> (try split) <;> rfl
@[simp] theorem modCounters_saved (s : State) (c : Nat × Nat) (f : Queue → Queue) : (modCounters s c f).saved = s.saved := by unfold modCounters; split <;> (try split) <;> rfl
@[simp] theorem modCounters_swaps (s : State) (c : Nat × Nat) (f : Queue → Queue) : (modCounters s c f).swaps = s.swaps := by unfold modCounters; split <;> (try split) <;> rfl
@[simp] theorem modCounters_debug (s : State) (c : Nat × Nat) (f : Queue → Queue) : (modCounters s c f).dbg = s.dbg := by unfold modCounters; split <;> (try split) <;> rfl
@[simp] theorem modCounters_out (s : State) (c : Nat × Nat) (f : Queue → Queue) : (modCounters s c f).out = s.out := by unfold modCounters; split <;> (try split) <;> rfl
@[simp] theorem modCounters_rootTable (s : State) (c : Nat × Nat) (f : Queue → Queue) : (modCounters s c f).rootTable = s.rootTable := by unfold modCounters; split <;> (try split) <;> rfl
@[simp] theorem modCounters_saveArea (s : State) (c : Nat × Nat) (f : Queue → Queue) : (modCounters s c f).saveArea = s.saveArea := by unfold modCounters; split <;> (try split) <;> rfl
@[simp] theorem modCounters_time (s : State) (c : Nat × Nat) (f : Queue → Queue) : (modCounters s c f).time = s.time := by unfold modCounters; split <;> (try split) <;> rfl
@[simp] theorem modCounters_agenda (s : State) (c : Nat × Nat) (f : Queue → Queue) : (modCounters s c f).agenda = s.agenda := by unfold modCounters; split <;> (try split) <;> rfl
@[simp] theorem modCounters_timers (s : State) (c : Nat × Nat) (f : Queue → Queue) : (modCounters s c f).timers = s.timers := by unfold modCounters; split <;> (try split) <;> rfl
@[simp] theorem modCounters_args (s : State) (c : Nat × Nat) (f : Queue → Queue) : (modCounters s c f).args = s.args := by unfold modCounters; split <;> (try split) <;> rfl
@[simp] theorem modCounters_iss (s : State) (c : Nat × Nat) (f : Queue → Queue) : (modCounters s c f).iss = s.iss := by unfold modCounters; split <;> (try split) <;> rfl
@[simp] theorem modCounters_ids (s : State) (c : Nat × Nat) (f : Queue → Queue) : (modCounters s c f).ids = s.ids := by unfold modCounters; split <;> (try split) <;> rfl
@[simp] theorem modCounters_free (s : State) (c : Nat × Nat) (f : Queue → Queue) : (modCounters s c f).free = s.free := by unfold modCounters; split <;> (try split) <;> rfl

/-! ### raiseEvent -/

@[simp] theorem raiseEvent_variant (s : State) (c : Nat) (w : Word) : (raiseEvent s c w).variant = s.variant := rfl
@[simp] theorem raiseEvent_trust (s : State) (c : Nat) (w : Word) : (raiseEvent s c w).trust = s.trust := rfl
@[simp] theorem raiseEvent_platform (s : State) (c : Nat) (w : Word) : (raiseEvent s c w).platform = s.platform := rfl
@[simp] theorem raiseEvent_mem (s : State) (c : Nat) (w : Word) : (raiseEvent s c w).mem = s.mem := rfl
@[simp] theorem raiseEvent_coherence (s : State) (c : Nat) (w : Word) : (raiseEvent s c w).coherence = s.coherence := rfl
@[simp] theorem raiseEvent_piers (s : State) (c : Nat) (w : Word) : (raiseEvent s c w).piers = s.piers := rfl
@[simp] theorem raiseEvent_teams (s : State) (c : Nat) (w : Word) : (raiseEvent s c w).teams = s.teams := rfl
@[simp] theorem raiseEvent_gangs (s : State) (c : Nat) (w : Word) : (raiseEvent s c w).gangs = s.gangs := rfl
@[simp] theorem raiseEvent_launches (s : State) (c : Nat) (w : Word) : (raiseEvent s c w).launches = s.launches := rfl
@[simp] theorem raiseEvent_placers (s : State) (c : Nat) (w : Word) : (raiseEvent s c w).placers = s.placers := rfl
@[simp] theorem raiseEvent_queues (s : State) (c : Nat) (w : Word) : (raiseEvent s c w).queues = s.queues := rfl
@[simp] theorem raiseEvent_cqs (s : State) (c : Nat) (w : Word) : (raiseEvent s c w).cqs = s.cqs := rfl
@[simp] theorem raiseEvent_fns (s : State) (c : Nat) (w : Word) : (raiseEvent s c w).fns = s.fns := rfl
@[simp] theorem raiseEvent_builds (s : State) (c : Nat) (w : Word) : (raiseEvent s c w).builds = s.builds := rfl
@[simp] theorem raiseEvent_compacts (s : State) (c : Nat) (w : Word) : (raiseEvent s c w).compacts = s.compacts := rfl
@[simp] theorem raiseEvent_rayCounts (s : State) (c : Nat) (w : Word) : (raiseEvent s c w).rayCounts = s.rayCounts := rfl
@[simp] theorem raiseEvent_saved (s : State) (c : Nat) (w : Word) : (raiseEvent s c w).saved = s.saved := rfl
@[simp] theorem raiseEvent_swaps (s : State) (c : Nat) (w : Word) : (raiseEvent s c w).swaps = s.swaps := rfl
@[simp] theorem raiseEvent_debug (s : State) (c : Nat) (w : Word) : (raiseEvent s c w).dbg = s.dbg := rfl
@[simp] theorem raiseEvent_out (s : State) (c : Nat) (w : Word) : (raiseEvent s c w).out = s.out := rfl
@[simp] theorem raiseEvent_rootTable (s : State) (c : Nat) (w : Word) : (raiseEvent s c w).rootTable = s.rootTable := rfl
@[simp] theorem raiseEvent_saveArea (s : State) (c : Nat) (w : Word) : (raiseEvent s c w).saveArea = s.saveArea := rfl
@[simp] theorem raiseEvent_time (s : State) (c : Nat) (w : Word) : (raiseEvent s c w).time = s.time := rfl
@[simp] theorem raiseEvent_agenda (s : State) (c : Nat) (w : Word) : (raiseEvent s c w).agenda = s.agenda := rfl
@[simp] theorem raiseEvent_timers (s : State) (c : Nat) (w : Word) : (raiseEvent s c w).timers = s.timers := rfl
@[simp] theorem raiseEvent_args (s : State) (c : Nat) (w : Word) : (raiseEvent s c w).args = s.args := rfl
@[simp] theorem raiseEvent_iss (s : State) (c : Nat) (w : Word) : (raiseEvent s c w).iss = s.iss := rfl
@[simp] theorem raiseEvent_ids (s : State) (c : Nat) (w : Word) : (raiseEvent s c w).ids = s.ids := rfl
@[simp] theorem raiseEvent_free (s : State) (c : Nat) (w : Word) : (raiseEvent s c w).free = s.free := rfl

/-! ### leaveActive -/

@[simp] theorem leaveActive_variant (s : State) (c sl : Nat) : (leaveActive s c sl).variant = s.variant := by unfold leaveActive; simp
@[simp] theorem leaveActive_trust (s : State) (c sl : Nat) : (leaveActive s c sl).trust = s.trust := by unfold leaveActive; simp
@[simp] theorem leaveActive_platform (s : State) (c sl : Nat) : (leaveActive s c sl).platform = s.platform := by unfold leaveActive; simp
@[simp] theorem leaveActive_mem (s : State) (c sl : Nat) : (leaveActive s c sl).mem = s.mem := by unfold leaveActive; simp
@[simp] theorem leaveActive_coherence (s : State) (c sl : Nat) : (leaveActive s c sl).coherence = s.coherence := by unfold leaveActive; simp
@[simp] theorem leaveActive_piers (s : State) (c sl : Nat) : (leaveActive s c sl).piers = s.piers := by unfold leaveActive; simp
@[simp] theorem leaveActive_teams (s : State) (c sl : Nat) : (leaveActive s c sl).teams = s.teams := by unfold leaveActive; simp
@[simp] theorem leaveActive_gangs (s : State) (c sl : Nat) : (leaveActive s c sl).gangs = s.gangs := by unfold leaveActive; simp
@[simp] theorem leaveActive_launches (s : State) (c sl : Nat) : (leaveActive s c sl).launches = s.launches := by unfold leaveActive; simp
@[simp] theorem leaveActive_placers (s : State) (c sl : Nat) : (leaveActive s c sl).placers = s.placers := by unfold leaveActive; simp
@[simp] theorem leaveActive_queues (s : State) (c sl : Nat) : (leaveActive s c sl).queues = s.queues := by unfold leaveActive; simp
@[simp] theorem leaveActive_cqs (s : State) (c sl : Nat) : (leaveActive s c sl).cqs = s.cqs := by unfold leaveActive; simp
@[simp] theorem leaveActive_fns (s : State) (c sl : Nat) : (leaveActive s c sl).fns = s.fns := by unfold leaveActive; simp
@[simp] theorem leaveActive_builds (s : State) (c sl : Nat) : (leaveActive s c sl).builds = s.builds := by unfold leaveActive; simp
@[simp] theorem leaveActive_compacts (s : State) (c sl : Nat) : (leaveActive s c sl).compacts = s.compacts := by unfold leaveActive; simp
@[simp] theorem leaveActive_rayCounts (s : State) (c sl : Nat) : (leaveActive s c sl).rayCounts = s.rayCounts := by unfold leaveActive; simp
@[simp] theorem leaveActive_saved (s : State) (c sl : Nat) : (leaveActive s c sl).saved = s.saved := by unfold leaveActive; simp
@[simp] theorem leaveActive_swaps (s : State) (c sl : Nat) : (leaveActive s c sl).swaps = s.swaps := by unfold leaveActive; simp
@[simp] theorem leaveActive_debug (s : State) (c sl : Nat) : (leaveActive s c sl).dbg = s.dbg := by unfold leaveActive; simp
@[simp] theorem leaveActive_out (s : State) (c sl : Nat) : (leaveActive s c sl).out = s.out := by unfold leaveActive; simp
@[simp] theorem leaveActive_rootTable (s : State) (c sl : Nat) : (leaveActive s c sl).rootTable = s.rootTable := by unfold leaveActive; simp
@[simp] theorem leaveActive_saveArea (s : State) (c sl : Nat) : (leaveActive s c sl).saveArea = s.saveArea := by unfold leaveActive; simp
@[simp] theorem leaveActive_time (s : State) (c sl : Nat) : (leaveActive s c sl).time = s.time := by unfold leaveActive; simp
@[simp] theorem leaveActive_agenda (s : State) (c sl : Nat) : (leaveActive s c sl).agenda = s.agenda := by unfold leaveActive; simp
@[simp] theorem leaveActive_timers (s : State) (c sl : Nat) : (leaveActive s c sl).timers = s.timers := by unfold leaveActive; simp
@[simp] theorem leaveActive_args (s : State) (c sl : Nat) : (leaveActive s c sl).args = s.args := by unfold leaveActive; simp
@[simp] theorem leaveActive_iss (s : State) (c sl : Nat) : (leaveActive s c sl).iss = s.iss := by unfold leaveActive; simp
@[simp] theorem leaveActive_ids (s : State) (c sl : Nat) : (leaveActive s c sl).ids = s.ids := by unfold leaveActive; simp
@[simp] theorem leaveActive_free (s : State) (c sl : Nat) : (leaveActive s c sl).free = s.free := by unfold leaveActive; simp

/-! ### modPlacer -/

@[simp] theorem modPlacer_variant (s : State) (d : Nat) (f : Placer → Placer) : (modPlacer s d f).variant = s.variant := rfl
@[simp] theorem modPlacer_trust (s : State) (d : Nat) (f : Placer → Placer) : (modPlacer s d f).trust = s.trust := rfl
@[simp] theorem modPlacer_platform (s : State) (d : Nat) (f : Placer → Placer) : (modPlacer s d f).platform = s.platform := rfl
@[simp] theorem modPlacer_mem (s : State) (d : Nat) (f : Placer → Placer) : (modPlacer s d f).mem = s.mem := rfl
@[simp] theorem modPlacer_coherence (s : State) (d : Nat) (f : Placer → Placer) : (modPlacer s d f).coherence = s.coherence := rfl
@[simp] theorem modPlacer_cores (s : State) (d : Nat) (f : Placer → Placer) : (modPlacer s d f).cores = s.cores := rfl
@[simp] theorem modPlacer_piers (s : State) (d : Nat) (f : Placer → Placer) : (modPlacer s d f).piers = s.piers := rfl
@[simp] theorem modPlacer_teams (s : State) (d : Nat) (f : Placer → Placer) : (modPlacer s d f).teams = s.teams := rfl
@[simp] theorem modPlacer_gangs (s : State) (d : Nat) (f : Placer → Placer) : (modPlacer s d f).gangs = s.gangs := rfl
@[simp] theorem modPlacer_launches (s : State) (d : Nat) (f : Placer → Placer) : (modPlacer s d f).launches = s.launches := rfl
@[simp] theorem modPlacer_queues (s : State) (d : Nat) (f : Placer → Placer) : (modPlacer s d f).queues = s.queues := rfl
@[simp] theorem modPlacer_cqs (s : State) (d : Nat) (f : Placer → Placer) : (modPlacer s d f).cqs = s.cqs := rfl
@[simp] theorem modPlacer_fns (s : State) (d : Nat) (f : Placer → Placer) : (modPlacer s d f).fns = s.fns := rfl
@[simp] theorem modPlacer_builds (s : State) (d : Nat) (f : Placer → Placer) : (modPlacer s d f).builds = s.builds := rfl
@[simp] theorem modPlacer_compacts (s : State) (d : Nat) (f : Placer → Placer) : (modPlacer s d f).compacts = s.compacts := rfl
@[simp] theorem modPlacer_rayCounts (s : State) (d : Nat) (f : Placer → Placer) : (modPlacer s d f).rayCounts = s.rayCounts := rfl
@[simp] theorem modPlacer_saved (s : State) (d : Nat) (f : Placer → Placer) : (modPlacer s d f).saved = s.saved := rfl
@[simp] theorem modPlacer_swaps (s : State) (d : Nat) (f : Placer → Placer) : (modPlacer s d f).swaps = s.swaps := rfl
@[simp] theorem modPlacer_debug (s : State) (d : Nat) (f : Placer → Placer) : (modPlacer s d f).dbg = s.dbg := rfl
@[simp] theorem modPlacer_out (s : State) (d : Nat) (f : Placer → Placer) : (modPlacer s d f).out = s.out := rfl
@[simp] theorem modPlacer_rootTable (s : State) (d : Nat) (f : Placer → Placer) : (modPlacer s d f).rootTable = s.rootTable := rfl
@[simp] theorem modPlacer_saveArea (s : State) (d : Nat) (f : Placer → Placer) : (modPlacer s d f).saveArea = s.saveArea := rfl
@[simp] theorem modPlacer_time (s : State) (d : Nat) (f : Placer → Placer) : (modPlacer s d f).time = s.time := rfl
@[simp] theorem modPlacer_agenda (s : State) (d : Nat) (f : Placer → Placer) : (modPlacer s d f).agenda = s.agenda := rfl
@[simp] theorem modPlacer_timers (s : State) (d : Nat) (f : Placer → Placer) : (modPlacer s d f).timers = s.timers := rfl
@[simp] theorem modPlacer_args (s : State) (d : Nat) (f : Placer → Placer) : (modPlacer s d f).args = s.args := rfl
@[simp] theorem modPlacer_iss (s : State) (d : Nat) (f : Placer → Placer) : (modPlacer s d f).iss = s.iss := rfl
@[simp] theorem modPlacer_ids (s : State) (d : Nat) (f : Placer → Placer) : (modPlacer s d f).ids = s.ids := rfl
@[simp] theorem modPlacer_free (s : State) (d : Nat) (f : Placer → Placer) : (modPlacer s d f).free = s.free := rfl

/-! ### modQueue -/

@[simp] theorem modQueue_variant (s : State) (n q : Nat) (f : Queue → Queue) : (modQueue s n q f).variant = s.variant := rfl
@[simp] theorem modQueue_trust (s : State) (n q : Nat) (f : Queue → Queue) : (modQueue s n q f).trust = s.trust := rfl
@[simp] theorem modQueue_platform (s : State) (n q : Nat) (f : Queue → Queue) : (modQueue s n q f).platform = s.platform := rfl
@[simp] theorem modQueue_mem (s : State) (n q : Nat) (f : Queue → Queue) : (modQueue s n q f).mem = s.mem := rfl
@[simp] theorem modQueue_coherence (s : State) (n q : Nat) (f : Queue → Queue) : (modQueue s n q f).coherence = s.coherence := rfl
@[simp] theorem modQueue_cores (s : State) (n q : Nat) (f : Queue → Queue) : (modQueue s n q f).cores = s.cores := rfl
@[simp] theorem modQueue_piers (s : State) (n q : Nat) (f : Queue → Queue) : (modQueue s n q f).piers = s.piers := rfl
@[simp] theorem modQueue_teams (s : State) (n q : Nat) (f : Queue → Queue) : (modQueue s n q f).teams = s.teams := rfl
@[simp] theorem modQueue_gangs (s : State) (n q : Nat) (f : Queue → Queue) : (modQueue s n q f).gangs = s.gangs := rfl
@[simp] theorem modQueue_launches (s : State) (n q : Nat) (f : Queue → Queue) : (modQueue s n q f).launches = s.launches := rfl
@[simp] theorem modQueue_placers (s : State) (n q : Nat) (f : Queue → Queue) : (modQueue s n q f).placers = s.placers := rfl
@[simp] theorem modQueue_cqs (s : State) (n q : Nat) (f : Queue → Queue) : (modQueue s n q f).cqs = s.cqs := rfl
@[simp] theorem modQueue_fns (s : State) (n q : Nat) (f : Queue → Queue) : (modQueue s n q f).fns = s.fns := rfl
@[simp] theorem modQueue_builds (s : State) (n q : Nat) (f : Queue → Queue) : (modQueue s n q f).builds = s.builds := rfl
@[simp] theorem modQueue_compacts (s : State) (n q : Nat) (f : Queue → Queue) : (modQueue s n q f).compacts = s.compacts := rfl
@[simp] theorem modQueue_rayCounts (s : State) (n q : Nat) (f : Queue → Queue) : (modQueue s n q f).rayCounts = s.rayCounts := rfl
@[simp] theorem modQueue_saved (s : State) (n q : Nat) (f : Queue → Queue) : (modQueue s n q f).saved = s.saved := rfl
@[simp] theorem modQueue_swaps (s : State) (n q : Nat) (f : Queue → Queue) : (modQueue s n q f).swaps = s.swaps := rfl
@[simp] theorem modQueue_debug (s : State) (n q : Nat) (f : Queue → Queue) : (modQueue s n q f).dbg = s.dbg := rfl
@[simp] theorem modQueue_out (s : State) (n q : Nat) (f : Queue → Queue) : (modQueue s n q f).out = s.out := rfl
@[simp] theorem modQueue_rootTable (s : State) (n q : Nat) (f : Queue → Queue) : (modQueue s n q f).rootTable = s.rootTable := rfl
@[simp] theorem modQueue_saveArea (s : State) (n q : Nat) (f : Queue → Queue) : (modQueue s n q f).saveArea = s.saveArea := rfl
@[simp] theorem modQueue_time (s : State) (n q : Nat) (f : Queue → Queue) : (modQueue s n q f).time = s.time := rfl
@[simp] theorem modQueue_agenda (s : State) (n q : Nat) (f : Queue → Queue) : (modQueue s n q f).agenda = s.agenda := rfl
@[simp] theorem modQueue_timers (s : State) (n q : Nat) (f : Queue → Queue) : (modQueue s n q f).timers = s.timers := rfl
@[simp] theorem modQueue_args (s : State) (n q : Nat) (f : Queue → Queue) : (modQueue s n q f).args = s.args := rfl
@[simp] theorem modQueue_iss (s : State) (n q : Nat) (f : Queue → Queue) : (modQueue s n q f).iss = s.iss := rfl
@[simp] theorem modQueue_ids (s : State) (n q : Nat) (f : Queue → Queue) : (modQueue s n q f).ids = s.ids := rfl
@[simp] theorem modQueue_free (s : State) (n q : Nat) (f : Queue → Queue) : (modQueue s n q f).free = s.free := rfl

/-! ### modCq -/

@[simp] theorem modCq_variant (s : State) (n c : Nat) (f : Cq → Cq) : (modCq s n c f).variant = s.variant := rfl
@[simp] theorem modCq_trust (s : State) (n c : Nat) (f : Cq → Cq) : (modCq s n c f).trust = s.trust := rfl
@[simp] theorem modCq_platform (s : State) (n c : Nat) (f : Cq → Cq) : (modCq s n c f).platform = s.platform := rfl
@[simp] theorem modCq_mem (s : State) (n c : Nat) (f : Cq → Cq) : (modCq s n c f).mem = s.mem := rfl
@[simp] theorem modCq_coherence (s : State) (n c : Nat) (f : Cq → Cq) : (modCq s n c f).coherence = s.coherence := rfl
@[simp] theorem modCq_cores (s : State) (n c : Nat) (f : Cq → Cq) : (modCq s n c f).cores = s.cores := rfl
@[simp] theorem modCq_piers (s : State) (n c : Nat) (f : Cq → Cq) : (modCq s n c f).piers = s.piers := rfl
@[simp] theorem modCq_teams (s : State) (n c : Nat) (f : Cq → Cq) : (modCq s n c f).teams = s.teams := rfl
@[simp] theorem modCq_gangs (s : State) (n c : Nat) (f : Cq → Cq) : (modCq s n c f).gangs = s.gangs := rfl
@[simp] theorem modCq_launches (s : State) (n c : Nat) (f : Cq → Cq) : (modCq s n c f).launches = s.launches := rfl
@[simp] theorem modCq_placers (s : State) (n c : Nat) (f : Cq → Cq) : (modCq s n c f).placers = s.placers := rfl
@[simp] theorem modCq_queues (s : State) (n c : Nat) (f : Cq → Cq) : (modCq s n c f).queues = s.queues := rfl
@[simp] theorem modCq_fns (s : State) (n c : Nat) (f : Cq → Cq) : (modCq s n c f).fns = s.fns := rfl
@[simp] theorem modCq_builds (s : State) (n c : Nat) (f : Cq → Cq) : (modCq s n c f).builds = s.builds := rfl
@[simp] theorem modCq_compacts (s : State) (n c : Nat) (f : Cq → Cq) : (modCq s n c f).compacts = s.compacts := rfl
@[simp] theorem modCq_rayCounts (s : State) (n c : Nat) (f : Cq → Cq) : (modCq s n c f).rayCounts = s.rayCounts := rfl
@[simp] theorem modCq_saved (s : State) (n c : Nat) (f : Cq → Cq) : (modCq s n c f).saved = s.saved := rfl
@[simp] theorem modCq_swaps (s : State) (n c : Nat) (f : Cq → Cq) : (modCq s n c f).swaps = s.swaps := rfl
@[simp] theorem modCq_debug (s : State) (n c : Nat) (f : Cq → Cq) : (modCq s n c f).dbg = s.dbg := rfl
@[simp] theorem modCq_out (s : State) (n c : Nat) (f : Cq → Cq) : (modCq s n c f).out = s.out := rfl
@[simp] theorem modCq_rootTable (s : State) (n c : Nat) (f : Cq → Cq) : (modCq s n c f).rootTable = s.rootTable := rfl
@[simp] theorem modCq_saveArea (s : State) (n c : Nat) (f : Cq → Cq) : (modCq s n c f).saveArea = s.saveArea := rfl
@[simp] theorem modCq_time (s : State) (n c : Nat) (f : Cq → Cq) : (modCq s n c f).time = s.time := rfl
@[simp] theorem modCq_agenda (s : State) (n c : Nat) (f : Cq → Cq) : (modCq s n c f).agenda = s.agenda := rfl
@[simp] theorem modCq_timers (s : State) (n c : Nat) (f : Cq → Cq) : (modCq s n c f).timers = s.timers := rfl
@[simp] theorem modCq_args (s : State) (n c : Nat) (f : Cq → Cq) : (modCq s n c f).args = s.args := rfl
@[simp] theorem modCq_iss (s : State) (n c : Nat) (f : Cq → Cq) : (modCq s n c f).iss = s.iss := rfl
@[simp] theorem modCq_ids (s : State) (n c : Nat) (f : Cq → Cq) : (modCq s n c f).ids = s.ids := rfl
@[simp] theorem modCq_free (s : State) (n c : Nat) (f : Cq → Cq) : (modCq s n c f).free = s.free := rfl

/-! ### modFn -/

@[simp] theorem modFn_variant (s : State) (n : Nat) (f : Fn → Fn) : (modFn s n f).variant = s.variant := rfl
@[simp] theorem modFn_trust (s : State) (n : Nat) (f : Fn → Fn) : (modFn s n f).trust = s.trust := rfl
@[simp] theorem modFn_platform (s : State) (n : Nat) (f : Fn → Fn) : (modFn s n f).platform = s.platform := rfl
@[simp] theorem modFn_mem (s : State) (n : Nat) (f : Fn → Fn) : (modFn s n f).mem = s.mem := rfl
@[simp] theorem modFn_coherence (s : State) (n : Nat) (f : Fn → Fn) : (modFn s n f).coherence = s.coherence := rfl
@[simp] theorem modFn_cores (s : State) (n : Nat) (f : Fn → Fn) : (modFn s n f).cores = s.cores := rfl
@[simp] theorem modFn_piers (s : State) (n : Nat) (f : Fn → Fn) : (modFn s n f).piers = s.piers := rfl
@[simp] theorem modFn_teams (s : State) (n : Nat) (f : Fn → Fn) : (modFn s n f).teams = s.teams := rfl
@[simp] theorem modFn_gangs (s : State) (n : Nat) (f : Fn → Fn) : (modFn s n f).gangs = s.gangs := rfl
@[simp] theorem modFn_launches (s : State) (n : Nat) (f : Fn → Fn) : (modFn s n f).launches = s.launches := rfl
@[simp] theorem modFn_placers (s : State) (n : Nat) (f : Fn → Fn) : (modFn s n f).placers = s.placers := rfl
@[simp] theorem modFn_queues (s : State) (n : Nat) (f : Fn → Fn) : (modFn s n f).queues = s.queues := rfl
@[simp] theorem modFn_cqs (s : State) (n : Nat) (f : Fn → Fn) : (modFn s n f).cqs = s.cqs := rfl
@[simp] theorem modFn_builds (s : State) (n : Nat) (f : Fn → Fn) : (modFn s n f).builds = s.builds := rfl
@[simp] theorem modFn_compacts (s : State) (n : Nat) (f : Fn → Fn) : (modFn s n f).compacts = s.compacts := rfl
@[simp] theorem modFn_rayCounts (s : State) (n : Nat) (f : Fn → Fn) : (modFn s n f).rayCounts = s.rayCounts := rfl
@[simp] theorem modFn_saved (s : State) (n : Nat) (f : Fn → Fn) : (modFn s n f).saved = s.saved := rfl
@[simp] theorem modFn_swaps (s : State) (n : Nat) (f : Fn → Fn) : (modFn s n f).swaps = s.swaps := rfl
@[simp] theorem modFn_debug (s : State) (n : Nat) (f : Fn → Fn) : (modFn s n f).dbg = s.dbg := rfl
@[simp] theorem modFn_out (s : State) (n : Nat) (f : Fn → Fn) : (modFn s n f).out = s.out := rfl
@[simp] theorem modFn_rootTable (s : State) (n : Nat) (f : Fn → Fn) : (modFn s n f).rootTable = s.rootTable := rfl
@[simp] theorem modFn_saveArea (s : State) (n : Nat) (f : Fn → Fn) : (modFn s n f).saveArea = s.saveArea := rfl
@[simp] theorem modFn_time (s : State) (n : Nat) (f : Fn → Fn) : (modFn s n f).time = s.time := rfl
@[simp] theorem modFn_agenda (s : State) (n : Nat) (f : Fn → Fn) : (modFn s n f).agenda = s.agenda := rfl
@[simp] theorem modFn_timers (s : State) (n : Nat) (f : Fn → Fn) : (modFn s n f).timers = s.timers := rfl
@[simp] theorem modFn_args (s : State) (n : Nat) (f : Fn → Fn) : (modFn s n f).args = s.args := rfl
@[simp] theorem modFn_iss (s : State) (n : Nat) (f : Fn → Fn) : (modFn s n f).iss = s.iss := rfl
@[simp] theorem modFn_ids (s : State) (n : Nat) (f : Fn → Fn) : (modFn s n f).ids = s.ids := rfl
@[simp] theorem modFn_free (s : State) (n : Nat) (f : Fn → Fn) : (modFn s n f).free = s.free := rfl

/-! ### modSwap -/

@[simp] theorem modSwap_variant (s : State) (d : Nat) (f : Swap → Swap) : (modSwap s d f).variant = s.variant := rfl
@[simp] theorem modSwap_trust (s : State) (d : Nat) (f : Swap → Swap) : (modSwap s d f).trust = s.trust := rfl
@[simp] theorem modSwap_platform (s : State) (d : Nat) (f : Swap → Swap) : (modSwap s d f).platform = s.platform := rfl
@[simp] theorem modSwap_mem (s : State) (d : Nat) (f : Swap → Swap) : (modSwap s d f).mem = s.mem := rfl
@[simp] theorem modSwap_coherence (s : State) (d : Nat) (f : Swap → Swap) : (modSwap s d f).coherence = s.coherence := rfl
@[simp] theorem modSwap_cores (s : State) (d : Nat) (f : Swap → Swap) : (modSwap s d f).cores = s.cores := rfl
@[simp] theorem modSwap_piers (s : State) (d : Nat) (f : Swap → Swap) : (modSwap s d f).piers = s.piers := rfl
@[simp] theorem modSwap_teams (s : State) (d : Nat) (f : Swap → Swap) : (modSwap s d f).teams = s.teams := rfl
@[simp] theorem modSwap_gangs (s : State) (d : Nat) (f : Swap → Swap) : (modSwap s d f).gangs = s.gangs := rfl
@[simp] theorem modSwap_launches (s : State) (d : Nat) (f : Swap → Swap) : (modSwap s d f).launches = s.launches := rfl
@[simp] theorem modSwap_placers (s : State) (d : Nat) (f : Swap → Swap) : (modSwap s d f).placers = s.placers := rfl
@[simp] theorem modSwap_queues (s : State) (d : Nat) (f : Swap → Swap) : (modSwap s d f).queues = s.queues := rfl
@[simp] theorem modSwap_cqs (s : State) (d : Nat) (f : Swap → Swap) : (modSwap s d f).cqs = s.cqs := rfl
@[simp] theorem modSwap_fns (s : State) (d : Nat) (f : Swap → Swap) : (modSwap s d f).fns = s.fns := rfl
@[simp] theorem modSwap_builds (s : State) (d : Nat) (f : Swap → Swap) : (modSwap s d f).builds = s.builds := rfl
@[simp] theorem modSwap_compacts (s : State) (d : Nat) (f : Swap → Swap) : (modSwap s d f).compacts = s.compacts := rfl
@[simp] theorem modSwap_rayCounts (s : State) (d : Nat) (f : Swap → Swap) : (modSwap s d f).rayCounts = s.rayCounts := rfl
@[simp] theorem modSwap_saved (s : State) (d : Nat) (f : Swap → Swap) : (modSwap s d f).saved = s.saved := rfl
@[simp] theorem modSwap_debug (s : State) (d : Nat) (f : Swap → Swap) : (modSwap s d f).dbg = s.dbg := rfl
@[simp] theorem modSwap_out (s : State) (d : Nat) (f : Swap → Swap) : (modSwap s d f).out = s.out := rfl
@[simp] theorem modSwap_rootTable (s : State) (d : Nat) (f : Swap → Swap) : (modSwap s d f).rootTable = s.rootTable := rfl
@[simp] theorem modSwap_saveArea (s : State) (d : Nat) (f : Swap → Swap) : (modSwap s d f).saveArea = s.saveArea := rfl
@[simp] theorem modSwap_time (s : State) (d : Nat) (f : Swap → Swap) : (modSwap s d f).time = s.time := rfl
@[simp] theorem modSwap_agenda (s : State) (d : Nat) (f : Swap → Swap) : (modSwap s d f).agenda = s.agenda := rfl
@[simp] theorem modSwap_timers (s : State) (d : Nat) (f : Swap → Swap) : (modSwap s d f).timers = s.timers := rfl
@[simp] theorem modSwap_args (s : State) (d : Nat) (f : Swap → Swap) : (modSwap s d f).args = s.args := rfl
@[simp] theorem modSwap_iss (s : State) (d : Nat) (f : Swap → Swap) : (modSwap s d f).iss = s.iss := rfl
@[simp] theorem modSwap_ids (s : State) (d : Nat) (f : Swap → Swap) : (modSwap s d f).ids = s.ids := rfl
@[simp] theorem modSwap_free (s : State) (d : Nat) (f : Swap → Swap) : (modSwap s d f).free = s.free := rfl

/-! ### setLine -/

@[simp] theorem setLine_variant (s : State) (n : Nat) (r : LineRec) : (setLine s n r).variant = s.variant := rfl
@[simp] theorem setLine_trust (s : State) (n : Nat) (r : LineRec) : (setLine s n r).trust = s.trust := rfl
@[simp] theorem setLine_platform (s : State) (n : Nat) (r : LineRec) : (setLine s n r).platform = s.platform := rfl
@[simp] theorem setLine_mem (s : State) (n : Nat) (r : LineRec) : (setLine s n r).mem = s.mem := rfl
@[simp] theorem setLine_cores (s : State) (n : Nat) (r : LineRec) : (setLine s n r).cores = s.cores := rfl
@[simp] theorem setLine_piers (s : State) (n : Nat) (r : LineRec) : (setLine s n r).piers = s.piers := rfl
@[simp] theorem setLine_teams (s : State) (n : Nat) (r : LineRec) : (setLine s n r).teams = s.teams := rfl
@[simp] theorem setLine_gangs (s : State) (n : Nat) (r : LineRec) : (setLine s n r).gangs = s.gangs := rfl
@[simp] theorem setLine_launches (s : State) (n : Nat) (r : LineRec) : (setLine s n r).launches = s.launches := rfl
@[simp] theorem setLine_placers (s : State) (n : Nat) (r : LineRec) : (setLine s n r).placers = s.placers := rfl
@[simp] theorem setLine_queues (s : State) (n : Nat) (r : LineRec) : (setLine s n r).queues = s.queues := rfl
@[simp] theorem setLine_cqs (s : State) (n : Nat) (r : LineRec) : (setLine s n r).cqs = s.cqs := rfl
@[simp] theorem setLine_fns (s : State) (n : Nat) (r : LineRec) : (setLine s n r).fns = s.fns := rfl
@[simp] theorem setLine_builds (s : State) (n : Nat) (r : LineRec) : (setLine s n r).builds = s.builds := rfl
@[simp] theorem setLine_compacts (s : State) (n : Nat) (r : LineRec) : (setLine s n r).compacts = s.compacts := rfl
@[simp] theorem setLine_rayCounts (s : State) (n : Nat) (r : LineRec) : (setLine s n r).rayCounts = s.rayCounts := rfl
@[simp] theorem setLine_saved (s : State) (n : Nat) (r : LineRec) : (setLine s n r).saved = s.saved := rfl
@[simp] theorem setLine_swaps (s : State) (n : Nat) (r : LineRec) : (setLine s n r).swaps = s.swaps := rfl
@[simp] theorem setLine_debug (s : State) (n : Nat) (r : LineRec) : (setLine s n r).dbg = s.dbg := rfl
@[simp] theorem setLine_out (s : State) (n : Nat) (r : LineRec) : (setLine s n r).out = s.out := rfl
@[simp] theorem setLine_rootTable (s : State) (n : Nat) (r : LineRec) : (setLine s n r).rootTable = s.rootTable := rfl
@[simp] theorem setLine_saveArea (s : State) (n : Nat) (r : LineRec) : (setLine s n r).saveArea = s.saveArea := rfl
@[simp] theorem setLine_time (s : State) (n : Nat) (r : LineRec) : (setLine s n r).time = s.time := rfl
@[simp] theorem setLine_agenda (s : State) (n : Nat) (r : LineRec) : (setLine s n r).agenda = s.agenda := rfl
@[simp] theorem setLine_timers (s : State) (n : Nat) (r : LineRec) : (setLine s n r).timers = s.timers := rfl
@[simp] theorem setLine_args (s : State) (n : Nat) (r : LineRec) : (setLine s n r).args = s.args := rfl
@[simp] theorem setLine_iss (s : State) (n : Nat) (r : LineRec) : (setLine s n r).iss = s.iss := rfl
@[simp] theorem setLine_ids (s : State) (n : Nat) (r : LineRec) : (setLine s n r).ids = s.ids := rfl
@[simp] theorem setLine_free (s : State) (n : Nat) (r : LineRec) : (setLine s n r).free = s.free := rfl

/-! ### setTable -/

@[simp] theorem setTable_variant (s : State) (d : Nat) (t : List PReq) : (setTable s d t).variant = s.variant := rfl
@[simp] theorem setTable_trust (s : State) (d : Nat) (t : List PReq) : (setTable s d t).trust = s.trust := rfl
@[simp] theorem setTable_platform (s : State) (d : Nat) (t : List PReq) : (setTable s d t).platform = s.platform := rfl
@[simp] theorem setTable_mem (s : State) (d : Nat) (t : List PReq) : (setTable s d t).mem = s.mem := rfl
@[simp] theorem setTable_cores (s : State) (d : Nat) (t : List PReq) : (setTable s d t).cores = s.cores := rfl
@[simp] theorem setTable_piers (s : State) (d : Nat) (t : List PReq) : (setTable s d t).piers = s.piers := rfl
@[simp] theorem setTable_teams (s : State) (d : Nat) (t : List PReq) : (setTable s d t).teams = s.teams := rfl
@[simp] theorem setTable_gangs (s : State) (d : Nat) (t : List PReq) : (setTable s d t).gangs = s.gangs := rfl
@[simp] theorem setTable_launches (s : State) (d : Nat) (t : List PReq) : (setTable s d t).launches = s.launches := rfl
@[simp] theorem setTable_placers (s : State) (d : Nat) (t : List PReq) : (setTable s d t).placers = s.placers := rfl
@[simp] theorem setTable_queues (s : State) (d : Nat) (t : List PReq) : (setTable s d t).queues = s.queues := rfl
@[simp] theorem setTable_cqs (s : State) (d : Nat) (t : List PReq) : (setTable s d t).cqs = s.cqs := rfl
@[simp] theorem setTable_fns (s : State) (d : Nat) (t : List PReq) : (setTable s d t).fns = s.fns := rfl
@[simp] theorem setTable_builds (s : State) (d : Nat) (t : List PReq) : (setTable s d t).builds = s.builds := rfl
@[simp] theorem setTable_compacts (s : State) (d : Nat) (t : List PReq) : (setTable s d t).compacts = s.compacts := rfl
@[simp] theorem setTable_rayCounts (s : State) (d : Nat) (t : List PReq) : (setTable s d t).rayCounts = s.rayCounts := rfl
@[simp] theorem setTable_saved (s : State) (d : Nat) (t : List PReq) : (setTable s d t).saved = s.saved := rfl
@[simp] theorem setTable_swaps (s : State) (d : Nat) (t : List PReq) : (setTable s d t).swaps = s.swaps := rfl
@[simp] theorem setTable_debug (s : State) (d : Nat) (t : List PReq) : (setTable s d t).dbg = s.dbg := rfl
@[simp] theorem setTable_out (s : State) (d : Nat) (t : List PReq) : (setTable s d t).out = s.out := rfl
@[simp] theorem setTable_rootTable (s : State) (d : Nat) (t : List PReq) : (setTable s d t).rootTable = s.rootTable := rfl
@[simp] theorem setTable_saveArea (s : State) (d : Nat) (t : List PReq) : (setTable s d t).saveArea = s.saveArea := rfl
@[simp] theorem setTable_time (s : State) (d : Nat) (t : List PReq) : (setTable s d t).time = s.time := rfl
@[simp] theorem setTable_agenda (s : State) (d : Nat) (t : List PReq) : (setTable s d t).agenda = s.agenda := rfl
@[simp] theorem setTable_timers (s : State) (d : Nat) (t : List PReq) : (setTable s d t).timers = s.timers := rfl
@[simp] theorem setTable_args (s : State) (d : Nat) (t : List PReq) : (setTable s d t).args = s.args := rfl
@[simp] theorem setTable_iss (s : State) (d : Nat) (t : List PReq) : (setTable s d t).iss = s.iss := rfl
@[simp] theorem setTable_ids (s : State) (d : Nat) (t : List PReq) : (setTable s d t).ids = s.ids := rfl
@[simp] theorem setTable_free (s : State) (d : Nat) (t : List PReq) : (setTable s d t).free = s.free := rfl

/-! ### setBuild -/

@[simp] theorem setBuild_variant (s : State) (n : Nat) (b : Build) : (setBuild s n b).variant = s.variant := rfl
@[simp] theorem setBuild_trust (s : State) (n : Nat) (b : Build) : (setBuild s n b).trust = s.trust := rfl
@[simp] theorem setBuild_platform (s : State) (n : Nat) (b : Build) : (setBuild s n b).platform = s.platform := rfl
@[simp] theorem setBuild_mem (s : State) (n : Nat) (b : Build) : (setBuild s n b).mem = s.mem := rfl
@[simp] theorem setBuild_coherence (s : State) (n : Nat) (b : Build) : (setBuild s n b).coherence = s.coherence := rfl
@[simp] theorem setBuild_cores (s : State) (n : Nat) (b : Build) : (setBuild s n b).cores = s.cores := rfl
@[simp] theorem setBuild_piers (s : State) (n : Nat) (b : Build) : (setBuild s n b).piers = s.piers := rfl
@[simp] theorem setBuild_teams (s : State) (n : Nat) (b : Build) : (setBuild s n b).teams = s.teams := rfl
@[simp] theorem setBuild_gangs (s : State) (n : Nat) (b : Build) : (setBuild s n b).gangs = s.gangs := rfl
@[simp] theorem setBuild_launches (s : State) (n : Nat) (b : Build) : (setBuild s n b).launches = s.launches := rfl
@[simp] theorem setBuild_placers (s : State) (n : Nat) (b : Build) : (setBuild s n b).placers = s.placers := rfl
@[simp] theorem setBuild_queues (s : State) (n : Nat) (b : Build) : (setBuild s n b).queues = s.queues := rfl
@[simp] theorem setBuild_cqs (s : State) (n : Nat) (b : Build) : (setBuild s n b).cqs = s.cqs := rfl
@[simp] theorem setBuild_fns (s : State) (n : Nat) (b : Build) : (setBuild s n b).fns = s.fns := rfl
@[simp] theorem setBuild_compacts (s : State) (n : Nat) (b : Build) : (setBuild s n b).compacts = s.compacts := rfl
@[simp] theorem setBuild_rayCounts (s : State) (n : Nat) (b : Build) : (setBuild s n b).rayCounts = s.rayCounts := rfl
@[simp] theorem setBuild_saved (s : State) (n : Nat) (b : Build) : (setBuild s n b).saved = s.saved := rfl
@[simp] theorem setBuild_swaps (s : State) (n : Nat) (b : Build) : (setBuild s n b).swaps = s.swaps := rfl
@[simp] theorem setBuild_debug (s : State) (n : Nat) (b : Build) : (setBuild s n b).dbg = s.dbg := rfl
@[simp] theorem setBuild_out (s : State) (n : Nat) (b : Build) : (setBuild s n b).out = s.out := rfl
@[simp] theorem setBuild_rootTable (s : State) (n : Nat) (b : Build) : (setBuild s n b).rootTable = s.rootTable := rfl
@[simp] theorem setBuild_saveArea (s : State) (n : Nat) (b : Build) : (setBuild s n b).saveArea = s.saveArea := rfl
@[simp] theorem setBuild_time (s : State) (n : Nat) (b : Build) : (setBuild s n b).time = s.time := rfl
@[simp] theorem setBuild_agenda (s : State) (n : Nat) (b : Build) : (setBuild s n b).agenda = s.agenda := rfl
@[simp] theorem setBuild_timers (s : State) (n : Nat) (b : Build) : (setBuild s n b).timers = s.timers := rfl
@[simp] theorem setBuild_args (s : State) (n : Nat) (b : Build) : (setBuild s n b).args = s.args := rfl
@[simp] theorem setBuild_iss (s : State) (n : Nat) (b : Build) : (setBuild s n b).iss = s.iss := rfl
@[simp] theorem setBuild_ids (s : State) (n : Nat) (b : Build) : (setBuild s n b).ids = s.ids := rfl
@[simp] theorem setBuild_free (s : State) (n : Nat) (b : Build) : (setBuild s n b).free = s.free := rfl

/-! ### Memory -/

theorem wf_filter {m : Memory} (p : Host.Cell → Bool) (h : Memory.wf m = true) : Memory.wf (m.filter p) = true := by
  obtain ⟨h1, h2⟩ := (wf_iff m).mp h
  exact (wf_iff _).mpr ⟨rising_filter _ h1, fun c hc => h2 c (List.mem_filter.mp hc).1⟩

/-- Writes taken one after the other keep the canonical form if each does. -/
theorem wf_foldl {α : Type} (f : Memory → α → Memory) (hf : ∀ m x, Memory.wf m = true → Memory.wf (f m x) = true) (l : List α) :
    ∀ m : Memory, Memory.wf m = true → Memory.wf (l.foldl f m) = true := by
  induction l with
  | nil => exact fun _ h => h
  | cons x r ih => exact fun m h => ih _ (hf m x h)

theorem wf_writeFields {m : Memory} (base : Nat) (fs : List (Nat × Nat × Nat)) (h : Memory.wf m = true) :
    Memory.wf (writeFields m base fs) = true :=
  wf_foldl _ (fun _ _ hm => wf_writeNat _ _ _ hm) _ m h

theorem wf_putBytes {m : Memory} (base : Nat) (b : List (Nat × Byte)) (h : Memory.wf m = true) : Memory.wf (putBytes base m b) = true :=
  wf_foldl _ (fun _ _ hm => wf_writeByte _ _ hm) _ m h

/-- Turning a waiting command into a replay entry leaves memory as it is (R438). -/
@[simp] theorem queueCommand_mem (s : State) (g : Group) : (queueCommand s g).1.mem = s.mem := by
  unfold queueCommand
  dsimp only
  split
  · rfl
  · split <;> rfl

/-- Taking instructions back from engines leaves memory as it is (R492). -/
@[simp] theorem takeBack_mem (s : State) (c sl : Nat) (g : Group) : (takeBack s c sl g).1.mem = s.mem := by
  unfold takeBack
  dsimp only
  split <;> rfl

/-- A stop writes the frame of the group and nothing else of memory, and keeps its canonical form (R150). -/
theorem wf_stopGroup (s : State) (c sl : Nat) (st : Stop) (h : Memory.wf s.mem = true) : Memory.wf (stopGroup s c sl st).mem = true := by
  unfold stopGroup
  split
  · exact h
  · dsimp only
    split
    · exact wf_writeFields _ _ (wf_blank _ _ h)
    · simp only [raiseEvent_mem, leaveActive_mem]
      refine wf_writeFields _ _ (wf_blank _ _ ?_)
      simpa using h

/-- The step answers a memory in canonical form at reset. -/
theorem wf_reset : Memory.wf State.reset.mem = true := rfl

end Sys2Proof.Machine
end

