-- ==== Sys2Proof/Tests/Bench.lean ====
section
/-! SUPPORT.  The small states that the tests and the witnesses use, and Boolean forms of the hypotheses of the statements, so that the kernel
decides that a state meets them. -/

namespace Sys2Proof.Tests

open Sys2Proof Sys2Proof.Machine

/-! ## One group on core 0 -/

/-- A leaf that lets everyone read, write and execute, whose lines are performed at their home (R172). -/
def homeLeaf : Dword := 0x1033F#64

/-- A translation of 2 MiB from virtual 0 to physical 0 for address space 1 of function 0. -/
def homeEntry : TlbEntry := ⟨1, 0, false, 0, 2097152, homeLeaf, 0, []⟩

/-- A group of 16 granules at the probe address, all lanes live; `regs` holds (lane, register, value, tag). -/
def benchGroup (regs : List (Nat × Nat × Word × BitVec 4)) : Group :=
  let g := newGroup 1 0 16 1 ((List.range 32).map fun _ => Thread.start 0x1004#64) []
  { regs.foldl (fun g r => setReg g r.1 r.2.1 ⟨r.2.2.1, r.2.2.2⟩) g with active := true, supervisor := true }

/-- The issue of the given lanes at 0x1004, under a header at 0x1000. -/
def benchIssue (e : Lanes) : Issue := { Issue.none with lanes := e, pc := 0x1004#64, header := 0x1000#64, headerWord := 0x1E001FE0#32 }

/-- The group `g` resident in slot 0 of core 0, under issue in the lanes `e`; the L2 TLB of its pier holds the translation above, every line is at
its home, and the module is OPERATIONAL. -/
def bench (e : Lanes) (g : Group) : State :=
  { State.reset with
    trust := { Trust.reset with life := .operational }
    cores := [(0, { Core.reset with groups := [(0, g)] })]
    piers := [(0, { Pier.reset with tlb := [homeEntry] })]
    teams := [(1, probeTeam)]
    launches := [(1, probeLaunch true)]
    iss := benchIssue e }

/-- The group of a bench. -/
def groupAt (s : State) (c k : Nat) : Group := (groupOf s c k).getD (benchGroup [])

/-! ## Boolean forms -/

/-- What Ready asks, as a Boolean. -/
def readyB (i : Instr) (s : State) (g : Group) : Bool :=
  decide (issGroup s = some g) && decide (g.threads.length = 32) && decide (g.granules ≤ 16) && decide (g.stop = none) &&
  decide (groupHeld g = false) &&
  decide (s.iss.lanes ≠ 0#32) && (s.iss.replay || (lanesOf s.iss.lanes).all fun t => decide ((threadOf g t).pc = s.iss.pc)) &&
  encodingLegal i && (!privileged i || g.supervisor) && (!needsRays i || decide (s.variant ≠ .k960c)) &&
  ((namedRegs i).all fun v => decide (v < 8 * g.granules)) && (!forbidden i || decide (regionLanes g s.iss.lanes = 0#32)) &&
  decide (logFull g i s.iss.lanes = 0#32)

theorem mem_lanes {e : Lanes} {t : Nat} (h : e.getLsbD t = true) : t ∈ lanesOf e := by
  refine List.mem_filter.mpr ⟨List.mem_range.mpr ?_, h⟩
  exact Nat.lt_of_not_le fun hl => by rw [BitVec.getLsbD_of_ge _ _ hl] at h; cases h

theorem ready_of {i : Instr} {s : State} {g : Group} (h : readyB i s g = true) : Ready i s g := by
  simp only [readyB, Bool.and_eq_true, Bool.or_eq_true, Bool.not_eq_true', List.all_eq_true, decide_eq_true_eq] at h
  obtain ⟨⟨⟨⟨⟨⟨⟨⟨⟨⟨⟨⟨h1, h2⟩, h3⟩, h4⟩, hu⟩, h5⟩, h6⟩, h7⟩, h8⟩, h9⟩, h10⟩, h11⟩, h12⟩ := h
  exact ⟨h1, h2, h3, h4, hu, h5, h6.imp id fun h t ht => h t (mem_lanes ht), h7, fun p => h8.resolve_left (by simp [p]),
    fun p => h9.resolve_left (by simp [p]), h10, fun p => h11.resolve_left (by simp [p]), h12⟩

/-- A property of every lane of E, from a check of the lanes. -/
theorem active_of {s : State} {p : Nat → Prop} (h : ∀ t ∈ lanesOf s.iss.lanes, p t) : ∀ t, Active s t → p t :=
  fun t ht => h t (mem_lanes ht.2)

/-- What TokensHome asks, as a Boolean. -/
def homeB (s : State) (line : Nat) : Bool :=
  decide ((lineOf s line).home = 1024) && decide ((lineOf s line).isPart = false) && decide ((lineOf s line).hostState = 0) &&
  s.coherence.net.all fun m => decide (m.line ≠ line)

theorem home_of {s : State} {line : Nat} (h : homeB s line = true) : TokensHome s line := by
  simp only [homeB, Bool.and_eq_true, decide_eq_true_eq, List.all_eq_true] at h
  exact ⟨h.1.1.1, h.1.1.2, h.1.2, h.2⟩

/-- What FreeLine asks, as a Boolean. -/
def freeLineB (s : State) (a line : Nat) : Bool :=
  decide (hostLine s line = false) && homeB s line && decide ((lineOf s line).holders = []) && decide ((lineOf s line).homeKey = true) &&
  decide ((tokenOutRivals s line).length < 7) && decide (s.coherence.census.contains line = false) && decide (calledAway s a line = false)

theorem free_line_of {s : State} {a line : Nat} (h : freeLineB s a line = true) : FreeLine s a line := by
  simp only [freeLineB, Bool.and_eq_true, decide_eq_true_eq] at h
  obtain ⟨⟨⟨⟨⟨⟨h1, h2⟩, h3⟩, h4⟩, h5⟩, h6⟩, h7⟩ := h
  exact ⟨h1, home_of h2, h3, h4, h5, h6, h7⟩

/-- What NoStoppedReader asks, as a Boolean. -/
def noStoppedReaderB (s : State) (a line : Nat) : Bool :=
  match l1Core a with
  | none => true
  | some cid => (coreOf s cid).groups.all fun p => decide (p.2.stop = none) || p.2.threads.all fun th =>
      match th.region with | none => true | some r => decide (line ∉ r.loads)

theorem no_stopped_reader_of {s : State} {a line : Nat} (h : noStoppedReaderB s a line = true) : NoStoppedReader s a line := by
  intro cid hc p hp hs th ht r hr
  simp only [noStoppedReaderB, hc, List.all_eq_true, Bool.or_eq_true, decide_eq_true_eq] at h
  have := (h p hp).resolve_left hs th ht
  simpa [hr] using this

/-- What AtHand asks, as a Boolean. -/
def atHandB (s : State) (p asid fn : Nat) (k : AccKind) (sup : Bool) (va n pa : Nat) : Bool :=
  decide (va + n ≤ 2 ^ 57) && (List.range n).all fun j =>
    (match (pierOf s p).tlb.filter fun e => e.serves asid fn (va + j) with
     | [e] => ((pierOf s p).tlb.filter fun x => tlbSet x == tlbSet e).length ≤ 8 && permitted e.leaf k sup && pteHome e.leaf == 3 &&
        !(pteMig e.leaf) && e.pa (va + j) == pa + j
     | _ => false) &&
    (decide (tierOf s (pa + j) = some 0) || decide (tierOf s (pa + j) = some 1)) && !(hostLine s ((pa + j) / 128)) && homeB s ((pa + j) / 128) &&
    !(poisoned s ((pa + j) / 128))

theorem at_hand_of {s : State} {p asid fn : Nat} {k : AccKind} {sup : Bool} {va n pa : Nat} (h : atHandB s p asid fn k sup va n pa = true) :
    AtHand s p asid fn k sup va n pa := by
  simp only [atHandB, Bool.and_eq_true, List.all_eq_true, decide_eq_true_eq, Bool.or_eq_true, Bool.not_eq_true'] at h
  refine ⟨h.1, fun j hj => ?_⟩
  obtain ⟨⟨⟨⟨h1, h2⟩, h3⟩, h4⟩, h5⟩ := h.2 j (List.mem_range.mpr hj)
  refine ⟨?_, h2, h3, home_of h4, h5⟩
  split at h1
  · rename_i e he
    simp only [Bool.and_eq_true, beq_iff_eq, Bool.not_eq_true', decide_eq_true_eq] at h1
    have hm : ∀ x, x ∈ (pierOf s p).tlb ∧ x.serves asid fn (va + j) = true ↔ x = e := by
      intro x
      have hx : x ∈ (pierOf s p).tlb.filter (fun (e : TlbEntry) => e.serves asid fn (va + j)) ↔ _ := List.mem_filter
      rw [he, List.mem_singleton] at hx
      exact hx.symm
    exact ⟨e, ((hm e).mpr rfl).1, ((hm e).mpr rfl).2, fun x hx hs => (hm x).mp ⟨hx, hs⟩, h1.1.1.1.1, h1.1.1.1.2, h1.1.1.2, h1.1.2, h1.2⟩
  · cases h1

/-- Addresses of the home page are at hand where the pier knows that page alone and every token is at home. -/
theorem at_hand_home {s : State} {p fn : Nat} {k : AccKind} {sup : Bool} {va n : Nat} (ht : (pierOf s p).tlb = [homeEntry])
    (hc : s.coherence = Coherence.reset) (hk : permitted homeLeaf k sup = true) (hn : va + n ≤ 2097152) :
    AtHand s p 1 fn k sup va n va := by
  refine ⟨by omega, fun j hj => ?_⟩
  have hp : va + j < 0x1000000000 := by omega
  have hq : 128 * ((va + j) / 128) < 0x1000000000 := by omega
  refine ⟨⟨homeEntry, by simp [ht], ?_, by simp [ht], ?_, hk, by decide, by decide, ?_⟩, Or.inl (if_pos hp), ?_, ?_, ?_⟩
  · simp [TlbEntry.serves, homeEntry]; omega
  · simp [ht]
  · simp [TlbEntry.pa, homeEntry]
  · simp [hostLine, tierOf, hq]
  · simp [TokensHome, lineOf, hc, Coherence.reset, look, find?, LineRec.atHome]
  · have hw : wrongSymbols s ((va + j) / 128) = 0 := by simp [wrongSymbols, look, find?, hc, Coherence.reset]
    have hu : uncorrectable s ((va + j) / 128) = false := by unfold uncorrectable; rw [hw]; decide
    simp [poisoned, hu, hc, Coherence.reset, find?]

/-- Ready for every instruction of a list, from a check of the list. -/
theorem ready_all {l : List Instr} {s : State} {g : Group} (h : (l.all fun i => readyB i s g) = true) : ∀ i ∈ l, Ready i s g :=
  fun i hi => ready_of (List.all_eq_true.mp h i hi)

theorem tagged_of {want : List (Nat × BitVec 4)} {s : State} {g : Group}
    (h : ((lanesOf s.iss.lanes).all fun t => want.all fun w => decide ((srcReg s.iss g t w.1).tag = w.2)) = true) : Tagged want s g :=
  fun t ht w hw => of_decide_eq_true (List.all_eq_true.mp (List.all_eq_true.mp h t (mem_lanes ht.2)) w hw)

/-- No lane of E is in a region. -/
theorem region_free {i : Instr} {s : State} {g : Group} {ea : Nat → Dword} (h : ((lanesOf s.iss.lanes).all fun t => !(inRegion g t)) = true) :
    RegionAllows i s g ea :=
  fun a _ t ht hr => by
    have := List.all_eq_true.mp h t (mem_lanes ht.2)
    simp [hr] at this

end Sys2Proof.Tests
end

