-- ==== Sys2Proof/Tests/WitnessIssue.lean ====
section
/-! SUPPORT.  Witnesses: states and operands that meet the hypotheses of the statements about instructions, one theorem for each claim; the first
part, for the instructions that act at issue.  Lanes 0 and 31 execute them. -/

namespace Sys2Proof.Tests

set_option Elab.async false

open Sys2Proof Sys2Proof.Machine

/-- A group with nothing in its registers. -/
def g0 : Group := benchGroup []

/-- That group under issue in lanes 0 and 31. -/
def b0 : State := bench 0x80000001#32 g0

theorem witness_IntegerBinary : ∀ i ∈ ([
   .iaddS32 false 120#7 8#7 16#7, .isubS32 false 120#7 8#7 16#7, .imulS32 false 120#7 8#7 16#7, .imulhiS32 false 120#7 8#7 16#7,
    .imulhiN32 false 120#7 8#7 16#7, .iaddS32Sat false 120#7 8#7 16#7, .isubS32Sat false 120#7 8#7 16#7, .iminS32 false 120#7 8#7 16#7,
    .imaxS32 false 120#7 8#7 16#7, .iminN32 false 120#7 8#7 16#7, .imaxN32 false 120#7 8#7 16#7, .andB32 false 120#7 8#7 16#7,
    .orB32 false 120#7 8#7 16#7, .xorB32 false 120#7 8#7 16#7, .andnB32 false 120#7 8#7 16#7, .shlB32 false 120#7 8#7 16#7,
    .shrN32 false 120#7 8#7 16#7, .shrS32 false 120#7 8#7 16#7] : List Instr), Ready i b0 g0 :=
  ready_all (by decide +kernel)

theorem witness_IntegerUnary : ∀ i ∈ ([
   .inegS32 false 120#7 8#7, .iabsS32 false 120#7 8#7, .notB32 false 120#7 8#7, .iaddS32Imm false 120#7 8#7 127#7,
    .shlB32Imm false 120#7 8#7 127#7, .shrN32Imm false 120#7 8#7 127#7, .shrS32Imm false 120#7 8#7 127#7,
    .iaddS32Lit false 120#7 8#7 0xFFFFFFF8#32, .imulS32Lit false 120#7 8#7 0xFFFFFFF8#32, .andB32Lit false 120#7 8#7 0xFFFFFFF8#32,
    .orB32Lit false 120#7 8#7 0xFFFFFFF8#32, .xorB32Lit false 120#7 8#7 0xFFFFFFF8#32, .imadS32 false 120#7 8#7 16#7] : List Instr), Ready i b0 g0 :=
  ready_all (by decide +kernel)

theorem witness_Integer64 : ∀ i ∈ ([
   .iaddS64 false 120#7 8#7 16#7, .isubS64 false 120#7 8#7 16#7, .iaddS64Lit false 120#7 8#7 0xFFFFFFF8#32, .shlB64 false 120#7 8#7 127#7,
    .shrN64 false 120#7 8#7 127#7, .shrS64 false 120#7 8#7 127#7, .imulwS32 false 120#7 8#7 16#7, .imulwN32 false 120#7 8#7 16#7,
    .leaS32 false 120#7 8#7 16#7 7#32, .leaN32 false 120#7 8#7 16#7 0#32] : List Instr), Ready i b0 g0 :=
  ready_all (by decide +kernel)

theorem witness_BitFields : ∀ i ∈ ([
   .bfxN32 false 120#7 8#7 0x2000#32, .bfxS32 false 120#7 8#7 0x011F#32, .bfiB32 false 120#7 8#7 0x0310#32,
    .bfiB32 false 127#7 127#7 0x2000#32] : List Instr), Ready i b0 g0 :=
  ready_all (by decide +kernel)

theorem witness_BitCounts : ∀ i ∈ ([
   .popcB32 false 120#7 8#7, .clzB32 false 120#7 8#7, .brevB32 false 120#7 8#7] : List Instr), Ready i b0 g0 :=
  ready_all (by decide +kernel)

theorem witness_Moves : ∀ i ∈ ([
   .movB32 false 120#7 8#7, .movB64 false 120#7 8#7, .movB32Lit false 120#7 0xFFFFFFF8#32, .movS64Lit false 120#7 0xFFFFFFF8#32,
    .selB32 false 120#7 8#7 16#7, .selB64 false 120#7 8#7 16#7, .tag false 120#7 8#7 15#4, .rdtag false 120#7 8#7] : List Instr), Ready i b0 g0 :=
  ready_all (by decide +kernel)

theorem witness_Compares : ∀ i ∈ ([
   .icmpS32 false 5#3 120#7 8#7 16#7, .icmpN32 false 5#3 120#7 8#7 16#7, .icmpS32Lit false 5#3 120#7 8#7 0xFFFFFFF8#32,
    .icmpEqB64 false 120#7 8#7 16#7, .icmpLtS64 false 120#7 8#7 16#7, .icmpLtN64 false 120#7 8#7 16#7] : List Instr), Ready i b0 g0 :=
  ready_all (by decide +kernel)

theorem witness_VotesAndShuffles : ∀ i ∈ ([
   .voteBallot false 120#7 8#7, .voteAny false 120#7 8#7, .voteAll false 120#7 8#7, .shflIdx false 120#7 8#7 16#7,
    .shflUp false 120#7 8#7 16#7, .shflDown false 120#7 8#7 16#7, .shflXor false 120#7 8#7 16#7, .shflDownImm false 120#7 8#7 31#5,
    .shflXorImm false 120#7 8#7 31#5, .matchB32 false 120#7 8#7] : List Instr), Ready i b0 g0 :=
  ready_all (by decide +kernel)

theorem witness_GroupReductions : ∀ i ∈ ([
   .gred false 120#7 8#7 7#3] : List Instr), Ready i b0 g0 :=
  ready_all (by decide +kernel)

theorem witness_FloatArithmetic : ∀ i ∈ ([
   .faddF32 false 3#2 120#7 8#7 16#7, .fsubF32 false 3#2 120#7 8#7 16#7, .fmulF32 false 3#2 120#7 8#7 16#7,
    .ffmaF32 false 3#2 120#7 8#7 16#7, .faddF32Lit false 120#7 8#7 0xFFFFFFF8#32, .fmulF32Lit false 120#7 8#7 0xFFFFFFF8#32,
    .fnegF32 false 120#7 8#7, .fabsF32 false 120#7 8#7, .frintF32 false 3#2 120#7 8#7] : List Instr), Ready i b0 g0 :=
  ready_all (by decide +kernel)

theorem witness_FloatComparesAndClasses : ∀ i ∈ ([
   .fminF32 false 120#7 8#7 16#7, .fmaxF32 false 120#7 8#7 16#7, .fcmpF32 false 9#4 120#7 8#7 16#7, .fcmpUnordF32 false 120#7 8#7 16#7,
    .fclassF32 false 120#7 8#7] : List Instr), Ready i b0 g0 :=
  ready_all (by decide +kernel)

theorem witness_FloatGroupReductions : ∀ i ∈ ([
   .fgredAddF32 false 120#7 8#7, .fgredMinF32 false 120#7 8#7, .fgredMaxF32 false 120#7 8#7] : List Instr), Ready i b0 g0 :=
  ready_all (by decide +kernel)

theorem witness_PackedHalves : ∀ i ∈ ([
   .hadd false 1#1 120#7 8#7 16#7, .hsub false 1#1 120#7 8#7 16#7, .hmul false 1#1 120#7 8#7 16#7, .hmin false 1#1 120#7 8#7 16#7,
    .hmax false 1#1 120#7 8#7 16#7, .hfma false 1#1 120#7 8#7 16#7, .hneg false 1#1 120#7 8#7, .habs false 1#1 120#7 8#7] : List Instr), Ready i b0 g0 :=
  ready_all (by decide +kernel)

theorem witness_RoundedFunctions : ∀ i ∈ ([
   .rcpF32 false 120#7 8#7 3#2, .sqrtF32 false 120#7 8#7 3#2, .rsqF32 false 120#7 8#7 3#2, .exp2F32 false 120#7 8#7 3#2,
    .log2F32 false 120#7 8#7 3#2, .sinF32 false 120#7 8#7 3#2, .cosF32 false 120#7 8#7 3#2] : List Instr), Ready i b0 g0 :=
  ready_all (by decide +kernel)

theorem witness_NopYieldExit : ∀ i ∈ ([
   .nopFill false, .yield false, .exit false] : List Instr), Ready i b0 g0 :=
  ready_all (by decide +kernel)

/-- A field literal of R369 at each end: 32 bits from 0, and 1 bit at 31. -/
theorem witness_FieldLiteral : fieldLiteralOk 0x2000#32 = true ∧ fieldLiteralOk 0x011F#32 = true := by decide

/-- An infinity of each sign and a NaN, and the operands the tables of R315 name. -/
theorem witness_SpecialOperands : f32 0x7F800000#32 = .inf false ∧ f32 0xFF800000#32 = .inf true ∧ f32 0x7FC00000#32 = .nan ∧
    (0x80000000#32 < 0x80000001#32 ∧ 0x80000001#32 ≤ 0xFF800000#32) := by decide

theorem witness_IndexedMoves :
    (∀ i ∈ ([.movxRd false 120#7 8#7, .movxWr false 8#7 120#7, .movxRdB64 false 120#7 8#7, .movxWrB64 false 8#7 120#7] : List Instr), Ready i b0 g0) ∧
    (∀ t, Active b0 t → (srcVal b0.iss g0 t 8).toNat % 2 = 0 ∧ (srcVal b0.iss g0 t 8).toNat < 8 * g0.granules) ∧
    indexLogFull false g0 b0.iss.lanes (fun t => (srcVal b0.iss g0 t 8).toNat) = 0#32 ∧
    indexLogFull true g0 b0.iss.lanes (fun t => (srcVal b0.iss g0 t 8).toNat) = 0#32 :=
  ⟨ready_all (by decide +kernel), active_of (by decide +kernel), by decide +kernel, by decide +kernel⟩

/-- Registers 8 to 15 of lane 0 tagged FP8 E5M2. -/
def gE5 : Group := benchGroup ((List.range 8).map fun k => (0, 8 + k, 0x3C3C3C3C#32, 5#4))

theorem witness_Conversions : Ready (.cvt false 120#7 8#7 0x15#32) (bench 1#32 gE5) gE5 ∧
    Tagged ((List.range 1).map fun k => (8 + k, BitVec.ofNat 4 5)) (bench 1#32 gE5) gE5 :=
  ⟨ready_of (by decide +kernel), tagged_of (by decide +kernel)⟩

theorem witness_NarrowValues : elemVal 5 false 0x3C ≠ .nan ∧ elemVal 5 false 0x7F = .nan ∧ elemVal 11 false 15 ≠ .nan ∧ 15 < 2 ^ 4 ∧ 0x7F < 2 ^ 8 := by
  decide +kernel

/-- Registers 64 to 95 of lane 0 tagged FP32. -/
def gFp : Group := benchGroup ((List.range 33).map fun k => (0, 64 + k, 0x3F800000#32, 1#4))

/-- Registers 64 to 71 of lane 0 with the elements of format `k`, and scales with tag `z` in register 40; register 96 holds 1.0. -/
def gMx (k z : BitVec 4) : Group :=
  benchGroup ((0, 40, 0x7F7F7F7F#32, z) :: (0, 96, 0x3F800000#32, 1#4) :: (List.range 8).map fun j => (0, 64 + j, 0x11111111#32, k))

theorem witness_BlockPacking :
    (Ready (.packMx false 0#3 32#7 64#7 0x28#32) (bench 1#32 gFp) gFp ∧
      Tagged ((List.range 32).map fun k => (64 + k, 1#4)) (bench 1#32 gFp) gFp) ∧
    (let g := gMx (BitVec.ofNat 4 (mxTag 0#3)) 13#4
     Ready (.unpackMx false 0#3 0#7 64#7 0x28#32) (bench 1#32 g) g ∧
      Tagged (((List.range 8).map fun k => (64 + k, BitVec.ofNat 4 (mxTag 0#3))) ++ [(40, 13#4)]) (bench 1#32 g) g) ∧
    (Ready (.packAq4 false 4#7 64#7 96#7 0x28#32) (bench 1#32 gFp) gFp ∧
      Tagged (((List.range 8).map fun k => (64 + k, 1#4)) ++ [(96, 1#4)]) (bench 1#32 gFp) gFp) ∧
    (let g := gMx 9#4 14#4
     Ready (.unpackAq4 false 0#7 64#7 96#7 0x28#32) (bench 1#32 g) g ∧ Tagged [(64, 9#4), (96, 1#4), (40, 14#4)] (bench 1#32 g) g) ∧
    [Val.nan].any notFinite = true ∧ (3 < 4 ∧ 0 < 4) :=
  ⟨⟨ready_of (by decide +kernel), tagged_of (by decide +kernel)⟩, ⟨ready_of (by decide +kernel), tagged_of (by decide +kernel)⟩,
    ⟨ready_of (by decide +kernel), tagged_of (by decide +kernel)⟩, ⟨ready_of (by decide +kernel), tagged_of (by decide +kernel)⟩,
    by decide, by decide⟩

theorem witness_ControlTransfer :
    (∀ i ∈ ([
   .bra false 0xFFFFFFF8#32, .brz false 8#7 0xFFFFFFF8#32, .brnz false 8#7 0xFFFFFFF8#32, .call false 120#7 0xFFFFFFF8#32, .ret false 8#7,
    .callr false 120#7 8#7] : List Instr), Ready i b0 g0) ∧
    ∀ t, Active b0 t → (srcPair b0.iss g0 t 8).toNat % 4 = 0 :=
  ⟨ready_all (by decide +kernel), active_of (by decide +kernel)⟩

theorem witness_SystemValues :
    (∀ i ∈ ([.rdsys false 127#7 23#7, .rdsys false 120#7 33#7, .rdsys false 120#7 34#7] : List Instr), Ready i b0 g0) ∧
    teamOf b0 g0.team = some probeTeam ∧ launchOf b0 probeTeam.launch = some (probeLaunch true) ∧ (probeLaunch true).kind ≠ .pool :=
  ⟨ready_all (by decide +kernel), by decide +kernel⟩

/-- Every thread of the group has exited but the two that issue. -/
def gLast : Group := { g0 with threads := (List.range 32).map fun t => { Thread.start 0x1004#64 with exited := decide (t ≠ 0 ∧ t ≠ 31) } }

theorem witness_LastExit : Ready (.exit true) (bench 0x80000001#32 gLast) gLast ∧ gLast.exitedWhole = false :=
  ⟨ready_of (by decide +kernel), rfl⟩

theorem witness_TrapsAreTaken :
    (∀ i ∈ ([.trap false 127#7, .bkpt false, .unallocatedOpcode 0x7FE00000#32] : List Instr), Ready i b0 g0) ∧ regionLanes g0 b0.iss.lanes = 0#32 :=
  ⟨ready_all (by decide +kernel), by decide +kernel⟩

/-- A user group of one granule. -/
def gUser : Group := { g0 with supervisor := false, granules := 1 }

/-- The three traps of R351 steps 5 to 7: privileged in user mode, a unit the K960-C lacks, and a register past the bound. -/
theorem witness_IssueTraps :
    (let s := bench 1#32 gUser
     issGroup s = some gUser ∧ gUser.threads.length = 32 ∧ gUser.stop = none ∧ groupHeld gUser = false ∧ s.iss.lanes ≠ 0#32 ∧ regionLanes gUser s.iss.lanes = 0#32 ∧
     (∀ t ∈ lanesOf s.iss.lanes, (threadOf gUser t).pc = s.iss.pc) ∧ isEvent (.rett false 0#7 1#7) = false ∧
     privileged (.rett false 0#7 1#7) = true ∧ gUser.supervisor = false) ∧
    (let s := { bench 1#32 g0 with variant := .k960c }
     issGroup s = some g0 ∧ g0.threads.length = 32 ∧ g0.stop = none ∧ groupHeld g0 = false ∧ s.iss.lanes ≠ 0#32 ∧ regionLanes g0 s.iss.lanes = 0#32 ∧
     (∀ t ∈ lanesOf s.iss.lanes, (threadOf g0 t).pc = s.iss.pc) ∧ privileged (.asbuild false 0#7 2#7 1#1) = false ∧
     needsRays (.asbuild false 0#7 2#7 1#1) = true ∧ s.variant = .k960c) ∧
    (let i := Instr.movB32 false 0#7 8#7
     let s := bench 1#32 gUser
     isEvent i = false ∧ privileged i = false ∧ needsRays i = false ∧ s.variant ≠ .k960c ∧ (namedRegs i).contains 8 = true ∧ 8 * gUser.granules ≤ 8) := by
  decide +kernel

/-- A pair that is 2 in lane 31 and 0 in lane 0. -/
def gOdd : Group := benchGroup [(31, 8, 2#32, 0#4)]

theorem witness_MisalignedTargetTraps : Ready (.ret false 8#7) (bench 0x80000001#32 gOdd) gOdd ∧
    Ready (.callr false 120#7 8#7) (bench 0x80000001#32 gOdd) gOdd ∧
    (let s := bench 0x80000001#32 gOdd
     regionLanes gOdd s.iss.lanes = 0#32 ∧ Active s 31 ∧ (srcPair s.iss gOdd 31 8).toNat % 4 ≠ 0 ∧
     ∀ v, v < 31 → Active s v → (srcPair s.iss gOdd v 8).toNat % 4 = 0) :=
  ⟨ready_of (by decide +kernel), ready_of (by decide +kernel), by unfold Active; decide +kernel⟩

end Sys2Proof.Tests
end

