-- ==== Sys2Proof/Tests/WitnessMemory.lean ====
section
/-! SUPPORT.  Witnesses, second part: traps and the firmware group, memory and scratchpad. -/

namespace Sys2Proof.Tests

set_option Elab.async false

open Sys2Proof Sys2Proof.Machine

/-- The state a step answers. -/
def after (x : Out) : State := match x with | .next s => s | _ => State.reset

/-! ## Traps and the firmware group -/

/-- Slot 1 stopped by a software trap; the firmware group `g` in slot 0 issues in lane 0. -/
def firmwareBench (g : Group) : State :=
  let s := bench 1#32 g
  let s1 := { s with cores := [(0, { Core.reset with groups := [(0, g), (1, { g0 with index := 1 })] })] }
  stopGroup s1 0 1 (trapStop 0x11 0 0 0 1#32)

/-- Register 8 of lane 0 names slot 1, register 0, lane 0. -/
def gFirm : Group := benchGroup [(0, 8, 1#32, 0#4)]

theorem witness_ReturnFromTrap :
    Ready (.rett false 127#7 8#7) (firmwareBench gFirm) gFirm ∧ resumeStatus (firmwareBench gFirm) 0 1 = 0 ∧
    (groupOf (firmwareBench gFirm) 0 1).isSome = true ∧ ((groupOf (firmwareBench gFirm) 0 1).bind (·.stop)).isSome = true ∧
    (groupOf (firmwareBench gFirm) 0 15) = none ∧
    (let s := stopGroup (bench 1#32 g0) 0 0 { trapStop 0 1 1 0x5000 1#32 with causes := 2, faults := [7] }
     ((groupOf s 0 0).bind (·.stop)).map (·.faults) = some [7]) :=
  ⟨ready_of (by decide +kernel), by decide +kernel⟩

theorem witness_RegistersOfStoppedGroups :
    Ready (.grd false 126#7 8#7) (firmwareBench gFirm) gFirm ∧ Ready (.gwr false 8#7 126#7) (firmwareBench gFirm) gFirm ∧
    (let s := firmwareBench gFirm
     let w := srcVal s.iss gFirm (lowestLane s.iss.lanes) 8
     w &&& 0xFFE080F0#32 = 0#32 ∧ (w.extractLsb' 0 4).toNat = 1 ∧ (groupOf s 0 1).isSome = true ∧
     ((groupOf s 0 1).bind (·.stop)).isSome = true ∧ (w.extractLsb' 8 7).toNat < 8 * ((groupOf s 0 1).getD g0).granules) :=
  ⟨ready_of (by decide +kernel), ready_of (by decide +kernel), by decide +kernel⟩

/-- The bench with an event word. -/
def eventBench (w : Word) : State := let s := b0; { s with cores := [(0, { Core.reset with groups := [(0, g0)], event := w })] }

theorem witness_EventWait : ∀ w ∈ [0#32, 0x80001#32],
    Ready (.evwait false 127#7) (eventBench w) g0 ∧ rising (coreOf (eventBench w) 0).groups = true ∧
    (∀ p ∈ (coreOf (eventBench w) 0).groups, p.2.ops = []) ∧ g0.ops = [] := by
  intro w hw
  simp only [List.mem_cons, List.not_mem_nil, or_false] at hw
  rcases hw with rfl | rfl <;> exact ⟨ready_of (by decide +kernel), by decide +kernel, by decide +kernel, rfl⟩

/-- A group of 4 granules. -/
def gSmall : Group := { g0 with granules := 4 }

theorem witness_RegisterGrowth :
    Ready (.reggrow false 31#7 4#5) (bench 1#32 gSmall) gSmall ∧ Ready (.regshrink false 31#7 4#5) (bench 1#32 gSmall) gSmall ∧
    (Ready (.reggrow false 31#7 16#5) (bench 1#32 gSmall) gSmall ∧
      (let s := bench 1#32 gSmall
       gSmall.granules < 16 ∧ s.iss.slot < 15 ∧ gSmall.exitedWhole = false ∧ rising (coreOf s s.iss.cid).groups = true ∧
       (∀ o ∈ gSmall.ops, o.id ≠ s.ids) ∧ (∀ p ∈ (coreOf s s.iss.cid).groups, blockedGrow p.2 = false) ∧
       16 - gSmall.granules ≤ 240 - (((coreOf s s.iss.cid).groups.filter fun p => decide (p.1 < 15)).map fun p => p.2.granules).sum)) ∧
    (Ready (.regshrink false 7#7 1#5) (bench 1#32 gSmall) gSmall ∧ 1 < gSmall.granules ∧ 7 < 8 * 1 ∧
      ∀ p ∈ (coreOf (bench 1#32 gSmall) 0).groups, blockedGrow p.2 = false) :=
  ⟨ready_of (by decide +kernel), ready_of (by decide +kernel), ⟨ready_of (by decide +kernel), by decide +kernel⟩,
    ready_of (by decide +kernel), by decide +kernel⟩

/-- All 32 threads have arrived at a REORDER of key register 8 into register 9. -/
def reorderBench : State :=
  let s := after (exec (.reorder false 9#7 8#7) (bench 0xFFFFFFFF#32 g0))
  { s with args := { n0 := 1 } }

theorem witness_Reordering :
    (Ready (.reorder false 127#7 8#7) (bench 1#32 g0) g0 ∧ teamOf (bench 1#32 g0) g0.team = some probeTeam ∧ probeTeam.cid = 0 ∧ g0.ops = []) ∧
    (let s := reorderBench
     let g := groupAt s 0 0
     teamOf s s.args.n0 = some probeTeam ∧ rising (coreOf s 0).groups = true ∧ groupOf s 0 0 = some g ∧ g.index = 0 ∧ g.team = s.args.n0 ∧
     (∀ p ∈ (coreOf s 0).groups, p.2.team = s.args.n0 → p.1 = 0) ∧ g.stop = none ∧ g.storesOut = [] ∧ (∀ f, f < 12 → flagSet g f = false) ∧
     (∀ v ∈ g.cv, v.signed = 0#32) ∧ liveLanes g ≠ 0#32 ∧ rising g.regs = true ∧ (∀ u, u < 32 → (threadOf g u).wait = .reorder) ∧
     (∀ o ∈ g.ops, o.instr = .reorder false 9#7 8#7) ∧ (∀ u, u < 32 → (threadOf g u).exited = false ∧ (reorderOf g u).isSome = true)) :=
  ⟨⟨ready_of (by decide +kernel), by decide +kernel, rfl, rfl⟩, by decide +kernel⟩

/-! ## Memory as instructions issue -/

/-- What LoadIssues asks. -/
def LoadHyps (i : Instr) (size : Nat) (ea : State → Group → Nat → Dword) (s : State) (g : Group) : Prop :=
  Ready i s g ∧ (∀ t, Active s t → (ea s g t).toNat % size = 0) ∧ RegionAllows i s g (ea s g)

theorem load_hyps {i : Instr} {size : Nat} {ea : State → Group → Nat → Dword} {s : State} {g : Group}
    (h : (readyB i s g && (lanesOf s.iss.lanes).all fun t => decide ((ea s g t).toNat % size = 0) && !(inRegion g t)) = true) :
    LoadHyps i size ea s g := by
  rw [Bool.and_eq_true] at h
  have h2 := fun t ht => Bool.and_eq_true_iff.mp (List.all_eq_true.mp h.2 t ht)
  exact ⟨ready_of h.1, fun t ht => of_decide_eq_true (h2 t (mem_lanes ht.2)).1, region_free (List.all_eq_true.mpr fun t ht => (h2 t ht).2)⟩

/-- The pair 8 names 0x2000 in lane 0 and 0x20F0 in lane 31; register 4 names scratchpad offset 16 in lane 0 and 16368 in lane 31. -/
def gAddr : Group := benchGroup [(0, 8, 0x2000#32, 0#4), (31, 8, 0x20F0#32, 0#4), (0, 4, 16#32, 0#4), (31, 4, 16368#32, 0#4)]

/-- That group under issue in both lanes. -/
def bA : State := bench 0x80000001#32 gAddr

theorem witness_GlobalLoadsIssue :
    LoadHyps (.ld false 120#7 8#7 4#3) 16 (pairAddr 8#7) bA gAddr ∧
    LoadHyps (.ldLit false 120#7 8#7 0#1 0#3 4#3 0xFFFFFFF0#32) 16 (pairOff 8#7 0#1 0xFFFFFFF0#32) bA gAddr ∧
    LoadHyps (.ldLit false 120#7 8#7 1#1 0#3 4#3 0x0007FFF0#32) 16 (pairOff 8#7 1#1 0x0007FFF0#32) bA gAddr ∧
    LoadHyps (.ldSpec false 120#7 8#7 4#3) 16 (pairAddr 8#7) bA gAddr ∧
    LoadHyps (.ldSpecLit false 120#7 8#7 0#1 0#3 4#3 0xFFFFFFF0#32) 16 (pairOff 8#7 0#1 0xFFFFFFF0#32) bA gAddr ∧
    LoadHyps (.ldSpecLit false 120#7 8#7 1#1 0#3 4#3 0x0007FFF0#32) 16 (pairOff 8#7 1#1 0x0007FFF0#32) bA gAddr ∧
    LoadHyps (.ldFmt false 120#7 8#7 1#4 4#3) 16 (pairAddr 8#7) bA gAddr ∧
    LoadHyps (.ldAcq false 120#7 8#7 3#4 3#3) 8 (pairAddr 8#7) bA gAddr ∧
    LoadHyps (.qwait false 120#7 8#7 16#7) 16 (pairAddr 8#7) bA gAddr :=
  ⟨load_hyps (by decide +kernel),
    load_hyps (by decide +kernel),
    load_hyps (by decide +kernel),
    load_hyps (by decide +kernel),
    load_hyps (by decide +kernel),
    load_hyps (by decide +kernel),
    load_hyps (by decide +kernel),
    load_hyps (by decide +kernel),
    load_hyps (by decide +kernel)⟩

theorem witness_AtomicsIssue :
    LoadHyps (.atom32 false 8#4 120#7 8#7 16#7) 4 (pairAddr 8#7) bA gAddr ∧
    LoadHyps (.atom64 false 8#4 120#7 8#7 16#7) 8 (pairAddr 8#7) bA gAddr ∧
    LoadHyps (.atomCasB32 false 120#7 8#7 16#7) 4 (pairAddr 8#7) bA gAddr ∧
    LoadHyps (.atomCasB64 false 120#7 8#7 16#7) 8 (pairAddr 8#7) bA gAddr ∧
    LoadHyps (.redAddS32 false 8#7 16#7) 4 (pairAddr 8#7) bA gAddr ∧
    LoadHyps (.redAddS64 false 8#7 16#7) 8 (pairAddr 8#7) bA gAddr ∧
    LoadHyps (.redAddF32 false 8#7 16#7) 4 (pairAddr 8#7) bA gAddr ∧
    LoadHyps (.redAddBf16x2 false 8#7 16#7) 4 (pairAddr 8#7) bA gAddr ∧
    LoadHyps (.redAtomic false 8#4 8#7 16#7) 4 (pairAddr 8#7) bA gAddr :=
  ⟨load_hyps (by decide +kernel),
    load_hyps (by decide +kernel),
    load_hyps (by decide +kernel),
    load_hyps (by decide +kernel),
    load_hyps (by decide +kernel),
    load_hyps (by decide +kernel),
    load_hyps (by decide +kernel),
    load_hyps (by decide +kernel),
    load_hyps (by decide +kernel)⟩

theorem witness_GlobalStoresIssue :
    LoadHyps (.st false 120#7 8#7 4#3) 16 (pairAddr 8#7) bA gAddr ∧
    LoadHyps (.stLit false 120#7 8#7 0#1 0#3 4#3 0xFFFFFFF0#32) 16 (pairOff 8#7 0#1 0xFFFFFFF0#32) bA gAddr ∧
    LoadHyps (.stLit false 120#7 8#7 1#1 0#3 4#3 0x0007FFF0#32) 16 (pairOff 8#7 1#1 0x0007FFF0#32) bA gAddr ∧
    LoadHyps (.stRel false 120#7 8#7 3#4 3#3) 8 (pairAddr 8#7) bA gAddr ∧
    LoadHyps (.qsig false 2#3 8#7 16#7) 16 (pairAddr 8#7) bA gAddr ∧
    regionLanes gAddr bA.iss.lanes = 0#32 ∧ gAddr.ops = [] ∧
    (∀ t ∈ lanesOf bA.iss.lanes, ∀ ea ∈ [pairAddr 8#7, pairOff 8#7 0#1 0xFFFFFFF0#32],
      lookTlb bA bA.iss.cid (asidOf bA gAddr) (contextOf bA gAddr).1 (ea bA gAddr t).toNat .write gAddr.supervisor = .miss) :=
  ⟨load_hyps (by decide +kernel),
    load_hyps (by decide +kernel),
    load_hyps (by decide +kernel),
    load_hyps (by decide +kernel),
    load_hyps (by decide +kernel),
    by decide +kernel, rfl, by decide +kernel⟩

/-- What ScratchLoad and ScratchStore ask. -/
def ScratchHyps (i : Instr) (size : Nat) (ea : State → Group → Nat → Nat) (s : State) (g : Group) : Prop :=
  Ready i s g ∧ teamOf s g.team = some probeTeam ∧ (∀ t, Active s t → InScratch probeTeam size (ea s g t)) ∧
  RegionAllows i s g (fun t => BitVec.ofNat 64 (ea s g t)) ∧ regionLanes g s.iss.lanes = 0#32

theorem scratch_hyps {i : Instr} {size : Nat} {ea : State → Group → Nat → Nat} {s : State} {g : Group}
    (h : (readyB i s g && decide (teamOf s g.team = some probeTeam) && decide (regionLanes g s.iss.lanes = 0#32) &&
      (lanesOf s.iss.lanes).all fun t =>
        decide (ea s g t < 2 ^ 19 ∧ ea s g t + size ≤ 4096 * probeTeam.units ∧ ea s g t % size = 0) && !(inRegion g t)) = true) :
    ScratchHyps i size ea s g := by
  simp only [Bool.and_eq_true] at h
  obtain ⟨⟨⟨h1, h3⟩, h4⟩, h2⟩ := h
  have h2 := fun t ht => Bool.and_eq_true_iff.mp (List.all_eq_true.mp h2 t ht)
  exact ⟨ready_of h1, of_decide_eq_true h3, fun t ht => let p : _ ∧ _ ∧ _ := of_decide_eq_true (h2 t (mem_lanes ht.2)).1; p,
    region_free (List.all_eq_true.mpr fun t ht => (h2 t ht).2), of_decide_eq_true h4⟩

theorem witness_ScratchpadLoadsIssue :
    ScratchHyps (.lds false 120#7 4#7 4#3) 16 (offAddr 4#7 0#32) bA gAddr ∧
    ScratchHyps (.ldsLit false 120#7 4#7 0#1 0#3 4#3 0xFFFFFFF0#32) 16 (offAddr 4#7 0xFFFFFFF0#32) bA gAddr ∧
    ScratchHyps (.ldsLit false 120#7 4#7 1#1 7#3 4#3 0x8007FFF0#32) 16 (offAddr 4#7 0#32) bA gAddr ∧
    ScratchHyps (.ldsWait false 120#7 4#7 4#3) 16 (offAddr 4#7 0#32) bA gAddr ∧
    ScratchHyps (.ldsWaitLit false 120#7 4#7 0#1 0#3 4#3 0xFFFFFFF0#32) 16 (offAddr 4#7 0xFFFFFFF0#32) bA gAddr ∧
    ScratchHyps (.ldsWaitLit false 120#7 4#7 1#1 7#3 4#3 0x8007FFF0#32) 16 (offAddr 4#7 0#32) bA gAddr ∧
    ScratchHyps (.ldsWaitClr false 120#7 4#7 4#3) 16 (offAddr 4#7 0#32) bA gAddr ∧
    ScratchHyps (.ldsWaitClrLit false 120#7 4#7 0#1 0#3 4#3 0xFFFFFFF0#32) 16 (offAddr 4#7 0xFFFFFFF0#32) bA gAddr ∧
    ScratchHyps (.ldsWaitClrLit false 120#7 4#7 1#1 7#3 4#3 0x8007FFF0#32) 16 (offAddr 4#7 0#32) bA gAddr ∧
    ScratchHyps (.ldsFmt false 120#7 4#7 1#4 4#3) 16 (offAddr 4#7 0#32) bA gAddr ∧
    ScratchHyps (.ldsWaitFmt false 120#7 4#7 1#4 4#3) 16 (offAddr 4#7 0#32) bA gAddr :=
  ⟨scratch_hyps (by decide +kernel), scratch_hyps (by decide +kernel), scratch_hyps (by decide +kernel), scratch_hyps (by decide +kernel), scratch_hyps (by decide +kernel), scratch_hyps (by decide +kernel), scratch_hyps (by decide +kernel), scratch_hyps (by decide +kernel), scratch_hyps (by decide +kernel), scratch_hyps (by decide +kernel), scratch_hyps (by decide +kernel)⟩

theorem witness_ScratchpadStores :
    ScratchHyps (.sts false 120#7 4#7 4#3) 16 (offAddr 4#7 0#32) bA gAddr ∧
    ScratchHyps (.stsLit false 120#7 4#7 0#1 0#3 4#3 0xFFFFFFF0#32) 16 (offAddr 4#7 0xFFFFFFF0#32) bA gAddr ∧
    ScratchHyps (.stsLit false 120#7 4#7 1#1 7#3 4#3 0x8007FFF0#32) 16 (offAddr 4#7 0#32) bA gAddr ∧
    ScratchHyps (.stsSet false 120#7 4#7 4#3) 16 (offAddr 4#7 0#32) bA gAddr ∧
    ScratchHyps (.stsSetLit false 120#7 4#7 0#1 0#3 4#3 0xFFFFFFF0#32) 16 (offAddr 4#7 0xFFFFFFF0#32) bA gAddr ∧
    ScratchHyps (.stsSetLit false 120#7 4#7 1#1 7#3 4#3 0x8007FFF0#32) 16 (offAddr 4#7 0#32) bA gAddr :=
  ⟨scratch_hyps (by decide +kernel), scratch_hyps (by decide +kernel), scratch_hyps (by decide +kernel), scratch_hyps (by decide +kernel), scratch_hyps (by decide +kernel), scratch_hyps (by decide +kernel)⟩

/-- A pair that is 0x2004 in lane 31 and 0x2000 in lane 0. -/
def gMis : Group := benchGroup [(0, 8, 0x2000#32, 0#4), (31, 8, 0x2004#32, 0#4)]

theorem witness_MisalignedAccessTraps :
    (∀ i ∈ ([.ld false 120#7 8#7 4#3, .st false 120#7 8#7 3#3, .atom32 false 0#4 120#7 8#7 16#7] : List Instr),
      Ready i (bench 0x80000001#32 gMis) gMis) ∧
    (let s := bench 0x80000001#32 gMis
     regionLanes gMis s.iss.lanes = 0#32 ∧ Active s 31 ∧ (srcPair s.iss gMis 31 8).toNat % 16 ≠ 0 ∧ (srcPair s.iss gMis 31 8).toNat % 8 ≠ 0 ∧
     ∀ v, v < 31 → Active s v → (srcPair s.iss gMis v 8).toNat % 16 = 0) :=
  ⟨ready_all (by decide +kernel), by unfold Active; decide +kernel⟩

theorem witness_HintsComplete : ∀ i ∈ ([
   .prefetch false 8#7, .prefetchW false 8#7, .evict false 8#7, .tlbinvVa false 8#7, .tlbinvAll false,
    .prefetchLit false 8#7 1#1 0#3 0x10#32, .prefetchWLit false 8#7 1#1 0#3 0x10#32] : List Instr), Ready i bA gAddr :=
  ready_all (by decide +kernel)

theorem witness_ModuloRegisters :
    Ready (.modset false 7#3 8#7 16#7) (bench 1#32 (benchGroup [(0, 8, 0x7FFFF#32, 0#4), (0, 16, 1#32, 0#4)]))
      (benchGroup [(0, 8, 0x7FFFF#32, 0#4), (0, 16, 1#32, 0#4)]) ∧
    (0x7FFFF < 2 ^ 19 ∧ 1 < 2 ^ 19 ∧ 0x7FFFF + 1 ≤ 2 ^ 19) ∧ g0.modulo.length = 8 ∧ Ready (.modrd false 126#7 7#3) b0 g0 :=
  ⟨ready_of (by decide +kernel), by decide, by decide +kernel, ready_of (by decide +kernel)⟩

end Sys2Proof.Tests
end

