-- ==== Sys2Proof/Tests/WitnessTokens.lean ====
section
/-! SUPPORT.  Witnesses, third part: accesses as they are performed, walks, and token coherence. -/

namespace Sys2Proof.Tests

set_option Elab.async false

open Sys2Proof Sys2Proof.Machine

/-! ## Accesses as they are performed -/

/-- A translation of the page at 0x2000 onto itself, cacheable, for address space 1. -/
def ownEntryAt : TlbEntry := ⟨1, 0, false, 0x2000, 4096, 0x2003F#64, 0x2000, []⟩

/-- Line 64 (address 0x2000) with every token, and its data, at the L1 of core 0. -/
def ownLine : LineRec := { LineRec.atHome with home := 0, homeKey := false, holders := [⟨0, 1024, true, true, false, none⟩] }

/-- Group `g` in slot 0 of core 0, with the translation in the L1 TLB, all tokens of line 64 and the address space of the probe. -/
def coreBench (e : Lanes) (g : Group) : State :=
  let s := bench e g
  { s with
    cores := [(0, { Core.reset with groups := [(0, g)], tlb := [ownEntryAt] })]
    coherence := { Coherence.reset with lines := [(64, ownLine)] }
    mem := writeNat [] 0x2000 8 0x1122334455667788 }

/-- `i` issued in lane 0 over the pair 8 that names 0x2000; its access in lane 0 is the step under way. -/
def performing (i : Instr) : State :=
  let s := after (exec i (coreBench 1#32 gAddr))
  { s with args := { n0 := 0, n1 := 0, n2 := 1, n3 := 0 } }

/-- The unfinished instruction of that issue. -/
def opAt (s : State) : Op := (opOf (groupAt s 0 0) s.args.n2).getD ⟨0, .exit true, 0#32, 0#32, 0#64, 0#32, 0#32, 0, [], [], 0#32, 0#32, false, false, 0#32, 0, 0⟩

theorem witness_LoadCompletes :
    let s := performing (.ld false 112#7 8#7 4#3)
    let g := groupAt s 0 0
    let o := opAt s
    let a : Access := { size := 16, kind := .read, reg := 112 }
    let e := ownEntryAt
    groupOf s 0 0 = some g ∧ opOf g s.args.n2 = some o ∧ accessOf o.instr = some a ∧ a.scratch = false ∧ o.todo.getLsbD 0 = true ∧
    o.instr = .ld false 112#7 8#7 4#3 ∧ s.dbg.logEn = false ∧
    lookTlb s 0 (asidOf s g) (contextOf s g).1 (nth 0#64 o.addrs 0).toNat .read g.supervisor = .hit e ∧
    mayPerform (touchTlb s 0 e) 0 g o 0 = true ∧ pteMig e.leaf = false ∧ uncached e = false ∧
    (let pa := e.frame + ((nth 0#64 o.addrs 0).toNat - e.base)
     pa = 0x2000 ∧ mayRead (touchTlb s 0 e) (l1Agent 0) (pa / 128) = true ∧ poisoned s (pa / 128) = false ∧ a.size ≤ 128 ∧ a.reg + a.size / 4 ≤ 128 ∧
     (coreOf s 0).sb = [] ∧ (threadOf g 0).region = none) := by decide +kernel

/-- A scratchpad load of lane 0 at offset 16, under way; its granule is 1. -/
def loadingScratch (i : Instr) (full : List Nat) : State :=
  let s := performing i
  modCore s 0 fun c => { c with full := full }

theorem witness_ScratchLoadCompletes :
    ∀ x ∈ [(Instr.lds false 112#7 4#7 4#3, false, []), (.ldsWaitClr false 112#7 4#7 4#3, true, [1]), (.ldsWait false 112#7 4#7 4#3, true, [])],
      let s := loadingScratch x.1 x.2.2
      let g := groupAt s 0 0
      let o := opAt s
      groupOf s 0 0 = some g ∧ opOf g s.args.n2 = some o ∧ (accessOf o.instr).map (·.scratch) = some true ∧ (accessOf o.instr).map (·.waits) = some x.2.1 ∧
      teamOf s g.team = some probeTeam ∧ o.todo.getLsbD 0 = true ∧ mayPerform s 0 g o 0 = true ∧ (accessOf o.instr).map (·.size) = some 16 ∧
      (accessOf o.instr).map (·.reg) = some 112 ∧ (threadOf g 0).region = none ∧ (4096 * probeTeam.unitBase + (nth 0#64 o.addrs 0).toNat) / 16 = 1 := by
  decide +kernel

theorem witness_AtomicsComplete :
    let s := performing (.atom32 false 8#4 112#7 8#7 16#7)
    let g := groupAt s 0 0
    let o := opAt s
    let a : Access := { size := 4, kind := .atomic, reg := 112, tag := 12#4 }
    let e := ownEntryAt
    groupOf s 0 0 = some g ∧ opOf g s.args.n2 = some o ∧ (accessOf o.instr).map (fun x => (x.kind, x.size, x.reg)) = some (a.kind, a.size, a.reg) ∧
    redFormat o.instr = 0 ∧ o.todo.getLsbD 0 = true ∧ o.inTry = 0#32 ∧ s.dbg.logEn = false ∧ a.reg + a.size / 4 ≤ 128 ∧
    lookTlb s 0 (asidOf s g) (contextOf s g).1 (nth 0#64 o.addrs 0).toNat .atomic g.supervisor = .hit e ∧ mayPerform (touchTlb s 0 e) 0 g o 0 = true ∧
    pteMig e.leaf = false ∧ uncached e = false ∧ mayWrite (touchTlb s 0 e) (l1Agent 0) 64 = true ∧ poisoned s 64 = false ∧ (coreOf s 0).sb = [] ∧
    (∀ p ∈ (coreOf s 0).groups, ∀ th ∈ p.2.threads, th.region = none) := by decide +kernel

/-- A store of four bytes at 0x2000 in the store buffer of core 0. -/
def storeBench (lines : List (Nat × LineRec)) : State :=
  let s := coreBench 1#32 gAddr
  { s with
    cores := [(0, { Core.reset with groups := [(0, gAddr)], sb := [⟨5, 1, 0, 0, 0x2000, [1#8, 2#8, 3#8, 4#8], none, [], []⟩] })]
    coherence := { Coherence.reset with lines := lines }
    args := { n0 := 0, n1 := 5 } }

theorem witness_StorePerforms :
    let s := storeBench [(64, ownLine)]
    let e : SbEntry := ⟨5, 1, 0, 0, 0x2000, [1#8, 2#8, 3#8, 4#8], none, [], []⟩
    ((coreOf s 0).sb.find? fun x => x.id == s.args.n1) = some e ∧ (∀ d ∈ s.coherence.drains, d.2.2.1 ≠ e.id) ∧ entryReady s 0 e = true ∧
    mayWrite s (l1Agent 0) (e.addr / 128) = true ∧ noStoppedReaderB s (l1Agent 0) (e.addr / 128) = true := by decide +kernel

/-- A load of lane 0 at 0x2000 whose translation the L1 TLB lacks; the L2 TLB holds `tlb`, and the fault ring is enabled. -/
def walking (tlb : List TlbEntry) (i : Instr) : State :=
  let s := bench 1#32 gAddr
  let s1 := after (exec i { s with piers := [(0, { Pier.reset with tlb := tlb })], fns := [(0, { Fn.resetPf with frEnabled := true })] })
  { s1 with args := { n0 := 0, n1 := 0, n2 := 1, n3 := 0 } }

theorem witness_WalksAndRereads :
    (let s := walking [homeEntry] (.ld false 112#7 8#7 4#3)
     let g := groupAt s 0 0
     let o := opAt s
     groupOf s 0 0 = some g ∧ opOf g s.args.n2 = some o ∧ (accessOf o.instr).map (fun a => (a.scratch, a.kind)) = some (false, .read) ∧
     o.todo.getLsbD 0 = true ∧ lookTlb s 0 (asidOf s g) (contextOf s g).1 (nth 0#64 o.addrs 0).toNat .read g.supervisor = .miss ∧
     permitted homeEntry.leaf .read g.supervisor = true ∧
     ((pierOf s (pierNo 0)).tlb.find? fun x => x.serves (asidOf s g) (contextOf s g).1 (nth 0#64 o.addrs 0).toNat) = some homeEntry ∧
     homeEntry.deps = [] ∧ (coreOf s 0).tlb.length < 64) ∧
    (let s := walking [] (.ld false 112#7 8#7 4#3)
     let g := groupAt s 0 0
     let o := opAt s
     groupOf s 0 0 = some g ∧ g.ops = [o] ∧ o.id = s.args.n2 ∧ (accessOf o.instr).map (fun a => (a.scratch, a.kind)) = some (false, .read) ∧
     o.todo = 1#32 <<< 0 ∧ o.sent = false ∧ o.inTry = 0#32 ∧ g.stop = none ∧ groupHeld g = false ∧
     lookTlb s 0 (asidOf s g) (contextOf s g).1 (nth 0#64 o.addrs 0).toNat .read g.supervisor = .miss ∧
     let w := walkFill s 0 (asidOf s g) (contextOf s g).1 (nth 0#64 o.addrs 0).toNat .read g.supervisor
     w.1 = .fault 1 0 ∧ resolve w.2 (pierNo 0) (asidOf s g) (contextOf s g).1 (nth 0#64 o.addrs 0).toNat .read g.supervisor = .fault 1 0 ∧
     (look Fn.reset s.fns (contextOf s g).1).frEnabled = true) ∧
    (let s := walking [homeEntry] (.qwait false 112#7 8#7 16#7)
     groupOf s s.args.n0 s.args.n1 = some (groupAt s 0 0) ∧ opOf (groupAt s 0 0) s.args.n2 = some (opAt s)) := by decide +kernel

theorem witness_SwappedAndDrained :
    (let s := walking [homeEntry] (.ld false 112#7 8#7 4#3)
     let g := groupAt s 0 0
     let o := opAt s
     let va := (nth 0#64 o.addrs 0).toNat
     let e := homeEntry
     let w := walkFill s 0 (asidOf s g) (contextOf s g).1 va .read g.supervisor
     let s0 := w.2
     let pa := placeOf s0 e va
     let s1 := (gather s0 (swapAgent 0) (pa / 128) .write).1.getD s0
     groupOf s 0 0 = some g ∧ opOf g s.args.n2 = some o ∧ (accessOf o.instr).map (fun a => (a.kind, a.reg, a.size)) = some (.read, 112, 16) ∧
     o.todo.getLsbD 0 = true ∧ s.dbg.logEn = false ∧ w.1 = .hit e ∧ swapping s0 (e.pa va) = none ∧ mayPerform s0 0 g o 0 = true ∧
     buffered s0 0 (pa / 128) = false ∧ (gather s0 (swapAgent 0) (pa / 128) .write).1 = some s1 ∧ groupOf s1 0 0 = some g ∧ s1.dbg = s.dbg ∧
     tierOf s1 pa = some 0 ∧ hostLine s1 (pa / 128) = false ∧ poisoned s1 (pa / 128) = false) ∧
    (let s := storeBench []
     let e : SbEntry := ⟨5, 1, 0, 0, 0x2000, [1#8, 2#8, 3#8, 4#8], none, [], []⟩
     ((coreOf s 0).sb.find? fun x => x.id == s.args.n1) = some e ∧ s.coherence.drains = [] ∧ entryReady s 0 e = true ∧
     lineOf s (e.addr / 128) = LineRec.atHome ∧ hostLine s (e.addr / 128) = false ∧ ∀ d, d < 2 → tableOf s d = []) := by decide +kernel

/-- Five tables at 0x10000 to 0x14000: virtual page 5 of address space 1 onto frame 9. -/
def tableBench : State :=
  let root := 0xFC0000008
  let next := fun (m : Memory) (t : Nat) => writeNat m t 8 ((t + 0x1000) / 4096 * 65536 + 1)
  let m := writeNat [] root 8 0x10001
  let m := next (next (next (next m 0x10000) 0x11000) 0x12000) 0x13000
  { State.reset with mem := writeNat m 0x14028 8 0x9003F }

theorem witness_TranslationWalk :
    (let s := tableBench
     let va := 0x5678
     let e := fun (t lvl : Nat) => readEntry8 s (t + 8 * (va / 2 ^ (12 + 9 * (lvl - 1)) % 512))
     va < 2 ^ 57 ∧ walkStart (pierOf s 0).walks 1 va = none ∧
     (∀ l ∈ (s.rootTable + 8 * 1) / 128 :: [(0x14000, 1), (0x13000, 2), (0x12000, 3), (0x11000, 4), (0x10000, 5)].map fun y =>
       (y.1 + 8 * (va / 2 ^ (12 + 9 * (y.2 - 1)) % 512)) / 128, canWalk s 0 l = true ∧ poisoned s l = false) ∧ (readEntry8 s (s.rootTable + 8 * 1)).getLsbD 0 = true ∧
     0x10000 = (readEntry8 s (s.rootTable + 8 * 1)).toNat % 2 ^ 52 / 4096 * 4096 ∧
     (∀ x ∈ [(0x10000, 5), (0x11000, 4), (0x12000, 3), (0x13000, 2)], pteV (e x.1 x.2) = true ∧ pteLeaf (e x.1 x.2) = false ∧
       reservedSet (e x.1 x.2) x.2 = false) ∧
     0x11000 = pteFrame (e 0x10000 5) ∧ 0x12000 = pteFrame (e 0x11000 4) ∧ 0x13000 = pteFrame (e 0x12000 3) ∧ 0x14000 = pteFrame (e 0x13000 2) ∧
     (∀ t ∈ [0x14000, 0x13000, 0x12000, 0x11000], tierOf s t = some 0) ∧ pteV (e 0x14000 1) = true ∧ pteLeaf (e 0x14000 1) = true ∧
     reservedSet (e 0x14000 1) 1 = false ∧ frameOutside s (e 0x14000 1) 1 = false ∧ pteContig (e 0x14000 1) = false ∧
     permitted (e 0x14000 1) .read false = true) ∧
    (let s := tableBench
     walkStart (pierOf s 0).walks 2 0 = none ∧ canWalk s 0 ((s.rootTable + 8 * 2) / 128) = true ∧ poisoned s ((s.rootTable + 8 * 2) / 128) = false ∧ (readEntry8 s (s.rootTable + 8 * 2)).getLsbD 0 = false) ∧
    2 ^ 57 ≤ 2 ^ 57 := by decide +kernel

/-! ## Tokens -/

/-- A state with the given token coherence and operands. -/
def tokens (c : Coherence) (a : StepArgs) : State := { State.reset with coherence := c, args := a }

/-- A message of two tokens with the keystone and data for agent 3. -/
def msg (toward : Nat) : TokenMsg := ⟨9, 64, 426, toward, 2, true, true, false, false, []⟩

theorem witness_TokensAreConserved :
    let s := tokens { Coherence.reset with lines := [(64, ownLine)], net := [msg 3] } { n0 := 9 }
    rising s.coherence.lines = true ∧ (∀ x ∈ s.coherence.lines, (x.2.holders.map (·.agent)).Nodup) ∧
    1024 ≤ (holderOf (lineOf s 64) 0).count ∧ 1024 ≤ (lineOf s 65).home ∧ s.coherence.net = [msg 3] ∧ (msg 3).id = s.args.n0 ∧ isHome 3 = false ∧
    mirrorOf s (agentDie 3) 64 = none := by decide +kernel

theorem witness_TokenTransfers :
    (∀ k ∈ [ReqKind.read, .write],
      let q : Req := ⟨3, 64, k, 0, 0, false⟩
      let s := tokens { Coherence.reset with reqs := [q] } { n0 := 64, n1 := 3 }
      reqOf s 3 64 = some q ∧ satisfied s q = false ∧ isHome 3 = false ∧ obstacle s 64 3 (q.kind = .part) = none ∧
      (lineOf s 64).homeKey = true ∧ 2 ≤ (lineOf s 64).home) ∧
    (let s := tokens { Coherence.reset with lines := [(64, ownLine)] } { n0 := 64, n1 := 0, n2 := 426, kind := .write }
     let x := holderOf (lineOf s 64) 0
     x.count ≠ 0 ∧ x.part = none ∧ s.args.kind = .write ∧ commitGathers s 0 64 = false ∧ isEngine 0 = false ∧ sbNeeds s 0 64 = false ∧
     noStoppedReaderB s 0 64 = true) ∧
    (∀ f ∈ [false, true],
      let s := tokens { Coherence.reset with lines := [(64, ownLine)] } { n0 := 0, n1 := 64, flag := f }
      let x := holderOf (lineOf s 64) 0
      x.count ≠ 0 ∧ x.part = none ∧ sbNeeds s 0 64 = false ∧ noStoppedReaderB s 0 64 = true ∧ l1Core 0 = some 0 ∧ buffered s 0 64 = false) ∧
    (∀ a ∈ [3, tlbAgent 0],
      let s := tokens { Coherence.reset with net := [msg a] } { n0 := 9 }
      (s.coherence.net.find? fun x => x.id == s.args.n0) = some (msg a) ∧ isHome a = false ∧ mirrorOf s (agentDie a) 64 = none ∧
      (msg a).isPart = false ∧ (msg a).count ≠ 0 ∧ activeFor s a 64 = false ∧ isTranslation a = decide (a ≠ 3)) ∧
    (let s := tokens { Coherence.reset with net := [msg 442] } { n0 := 9 }
     (s.coherence.net.find? fun x => x.id == s.args.n0) = some (msg 442) ∧ isHome 442 = true ∧ (msg 442).isPart = false ∧ (lineOf s 64).isPart = false ∧
     s.coherence.drains = [] ∧ hostLine s 64 = false ∧ activePart s 64 = none ∧ mirrorOf s (homeDie s (128 * 64)) 64 = none) := by decide +kernel

/-- A waiting persistent request of agent 3, and an active one. -/
def waitingReq : PReq := ⟨64, 3, .write, 0, 0, false, false⟩
/-- The active one. -/
def activeReq : PReq := ⟨64, 3, .write, 0, 1, true, false⟩

theorem witness_PersistentTimeout :
    (∀ f ∈ [0, 1],
      let q : Req := ⟨3, 64, .write, 0, f, false⟩
      let s := tokens { Coherence.reset with reqs := [q] } { n0 := 3, n1 := 64 }
      reqOf s 3 64 = some q ∧ q.persistent = false ∧ satisfied s q = false ∧ (∀ x ∈ s.coherence.reqs, x = q) ∧ s.time.toNat - q.first < 1000 ∧
      (∀ x ∈ s.coherence.reqs, agentDie x.agent = 0 → q.first ≤ x.first) ∧ (tableOf s 0).length < 64) := by decide +kernel

theorem witness_PersistentArb :
    (let s := tokens { Coherence.reset with tables := [(0, [waitingReq])] } { n0 := 0, n1 := 64 }
     activeIn s 0 64 = none ∧ oldestFor s 0 64 = some waitingReq ∧ activeIn s (1 - 0) 64 = none ∧ oldestFor s (1 - 0) 64 = none) := by decide +kernel

theorem witness_PersistentArbHeld :
    (let s := tokens { Coherence.reset with tables := [(0, [waitingReq]), (1, [activeReq])] } { n0 := 0, n1 := 64 }
     activeIn s 0 64 = none ∧ oldestFor s 0 64 ≠ none ∧ dieCount s = 2 ∧ activeIn s (1 - 0) 64 ≠ none) := by decide +kernel

theorem witness_PersistentActivate :
    (let s := tokens Coherence.reset { n0 := 0, n1 := 64, n2 := 3, n3 := 1 }
     mirrorOf s 0 64 = none ∧ activePart s 64 = none ∧ obstacle (setMirror s 0 ⟨64, 3, 1, true⟩) 64 3 false = none ∧ lineOf s 64 = LineRec.atHome ∧
     homeDie s (128 * 64) = 0 ∧ isHome 3 = false) := by decide +kernel

theorem witness_PersistentDeactivate :
    (let s := tokens { Coherence.reset with mirrors := [(0, [⟨64, 3, 1, true⟩])] } { n0 := 0, n1 := 64, n2 := 1 }
     mirrorOf s 0 64 = some ⟨64, 3, 1, true⟩) := by decide +kernel

theorem witness_PersistentReport :
    (let s := tokens { Coherence.reset with tables := [(0, [activeReq])] } { n0 := 3, n1 := 64 }
     ((tableOf s (agentDie 3)).find? fun p => p.line == 64 && p.requester == 3) = some activeReq ∧ activeReq.active = true) := by decide +kernel

/-- A partial line whose tokens are all at home again, with the one accumulator that came back. -/
def partLine : LineRec := { LineRec.atHome with isPart := true, format := 3, recalling := true, parts := [(3, List.replicate 128 1#8)] }

/-- The first line of the host window. -/
def hostNo : Nat := 0x80000000000

theorem witness_HomesAndHost :
    (let s := tokens { Coherence.reset with lines := [(64, partLine)] } { n0 := 64 }
     (lineOf s 64).isPart = true ∧ (lineOf s 64).home = 1024 ∧ activePart s 64 = none ∧ mirrorOf s (homeDie s (128 * 64)) 64 = none ∧
     (lineOf s 64).parts = [(3, List.replicate 128 1#8)] ∧ (lineOf s 64).format = 3 ∧ (List.replicate 128 1#8).length = 128) ∧
    (let s := tokens Coherence.reset { n0 := 64 }
     64 ∉ s.coherence.census ∧ s.args.n1 ≠ 1 ∧ s.args.flag = false) ∧
    (let s := tokens { Coherence.reset with symbols := [(64, 4)] } { n0 := 64, n1 := 1, n2 := 63 }
     64 ∉ s.coherence.census ∧ s.args.n1 = 1 ∧ (lineOf s 64).home = 1024 ∧ hostLine s 64 = false ∧ wrongSymbols s 64 = 2 ^ 2 ∧ 2 ≠ s.args.n2 % 64) ∧
    (let s := tokens Coherence.reset { n0 := 64, flag := true }
     s.args.n1 ≠ 1 ∧ s.args.flag = true) ∧
    (let s := tokens Coherence.reset { n0 := 64, n1 := 1 }
     s.args.n1 = 1 ∧ wrongSymbols s 64 = 0) ∧
    (let s := tokens { Coherence.reset with census := [64], lines := [(64, { LineRec.atHome with home := 1000 })] } { n0 := 64 }
     64 ∈ s.coherence.census ∧ (lineOf s 64).holders = []) ∧
    (let s := tokens Coherence.reset { n0 := 1, n1 := hostNo, bytes := List.replicate 128 7#8 }
     (lineOf s hostNo).hostState = 0 ∧ (lineOf s hostNo).home = 1024 ∧ hostLine s hostNo = true ∧ s.args.bytes.length = 128 ∧
     (tokenOutWait s hostNo (gateway 1)).isNone = true) ∧
    (∀ r ∈ [{ LineRec.atHome with hostState := 2 },
        { LineRec.atHome with home := 0, homeKey := false, hostState := 2, holders := [⟨gateway 1, 1024, true, true, true, none⟩] }],
      let s := tokens { Coherence.reset with lines := [(hostNo, r)] } { n0 := hostNo }
      lineOf s hostNo = r ∧ r.hostState ≠ 0 ∧ hostLine s hostNo = true ∧
      (r.home = 1024 ∨ (r.home ≠ 1024 ∧ (holderOf r (gateway (r.hostState - 1))).count = 1024))) ∧
    (let s := tokens { Coherence.reset with lines := [(64, { LineRec.atHome with hostState := 1 })] } { n0 := 64, bytes := List.replicate 128 7#8 }
     (lineOf s 64).hostState = 1 ∧ hostLine s 64 = false ∧ s.args.bytes.length = 128 ∧ activePart s 64 = none ∧
     mirrorOf s (homeDie s (128 * 64)) 64 = none) := by decide +kernel

end Sys2Proof.Tests
end

