-- ==== Sys2Proof/Tests/WitnessEngines.lean ====
section
/-! SUPPORT.  Witnesses, fourth part: regions, fences, barriers, pipes, the matrix engine and the transfer engine. -/

namespace Sys2Proof.Tests

set_option Elab.async false

open Sys2Proof Sys2Proof.Machine

/-! ## Regions -/

/-- A region of depth `d` whose abort quad is 120, with one register logged. -/
def region (d : Nat) (committing : Bool) (writes : List Wr) : Region :=
  ⟨d, false, 0x1040#64, 120, [(5, ⟨7#32, 12#4⟩)], [], [], writes, 1, committing, none, []⟩

/-- A group whose lane 0 is in a region. -/
def gRegion (r : Region) : Group := { g0 with threads := modNth g0.threads 0 fun th => { th with region := some r } }

theorem witness_TryAndCommit :
    (∀ i ∈ ([.tryLane false 120#7 16#32, .tryGroup false 124#7 16#32, .tstat false 127#7] : List Instr), Ready i b0 g0) ∧
    (∀ i ∈ ([.tryLane false 120#7 16#32, .commit false, .commitRel false 2#3] : List Instr),
      Ready i (bench 1#32 (gRegion (region 3 false []))) (gRegion (region 3 false []))) ∧
    (let g := gRegion (region 3 false [])
     (threadOf g 0).region = some (region 3 false []) ∧ (region 3 false []).depth < 4 ∧ inRegion g 0 = true ∧ lanesOf (bench 1#32 g).iss.lanes = [0] ∧
     ∀ th ∈ g.threads, th.wait ≠ .commit) :=
  ⟨ready_all (by decide +kernel), ready_all (by decide +kernel), by decide +kernel⟩

theorem witness_ExplicitAbort :
    Ready (.abort false 0xFF#32) (bench 1#32 (gRegion (region 4 false []))) (gRegion (region 4 false [])) ∧
    (let r := region 4 false []
     r.isGroup = false ∧ r.quad + 4 ≤ 128 ∧ (∀ e ∈ r.log, e.1 < 128) ∧ (r.log.map (·.1)).Nodup ∧ r.depth ≤ 4 ∧
     (threadOf (gRegion r) 0).region = some r) :=
  ⟨ready_of (by decide +kernel), by decide +kernel⟩

/-- A thread at its commit point with a byte of memory and one of scratchpad buffered. -/
def commitBench : State :=
  let s := coreBench 1#32 (gRegion (region 1 true [⟨false, 0x2003, 9#8⟩, ⟨true, 64, 8#8⟩]))
  { s with args := { n0 := 0, n1 := 0, n2 := 0 } }

theorem witness_CommitIsOneEvent :
    let s := commitBench
    let r := region 1 true [⟨false, 0x2003, 9#8⟩, ⟨true, 64, 8#8⟩]
    let g := gRegion r
    groupOf s 0 0 = some g ∧ (threadOf g 0).region = some r ∧ r.committing = true ∧ r.isGroup = false ∧ g.stop = none ∧
    releaseReady s 0 0 0 (r.rel.getD 0) s.ids = true ∧ replayed g 0 = true ∧ (coreOf s 0).sb = [] ∧
    (∀ w ∈ r.writes, w.scratch = false → mayWrite s (l1Agent 0) (w.addr / 128) = true ∧ noStoppedReaderB s (l1Agent 0) (w.addr / 128) = true) := by decide +kernel

/-! ## Fences, barriers, convergence registers and pipes -/

theorem witness_Fences :
    (∀ i ∈ ([.fence false 0#3, .fence false 3#3] : List Instr), Ready i b0 g0) ∧ regionLanes g0 b0.iss.lanes = 0#32 ∧
    Ready (.fence false 0#3) (bench 1#32 (gRegion (region 1 false []))) (gRegion (region 1 false [])) ∧
    ({ Thread.start 0#64 with wait := .fence 2 } : Thread).wait = .fence 2 :=
  ⟨ready_all (by decide +kernel), by decide +kernel, ready_of (by decide +kernel), rfl⟩

theorem witness_TeamBarriers :
    (∀ i ∈ ([.barSync false 7#3, .barArrive false 127#7 7#3, .barWait false 8#7 7#3, .barInit false 0x2007#32] : List Instr), Ready i b0 g0) ∧
    teamOf b0 g0.team = some probeTeam ∧ probeTeam.cid = b0.iss.cid ∧ 7 < probeTeam.barriers.length ∧
    ((0x2007#32).extractLsb' 0 3).toNat < probeTeam.barriers.length ∧ (nth ⟨0, 0, 0#32⟩ probeTeam.barriers 7).arrived = 0 ∧
    (∀ t, Active b0 t → releaseReady b0 b0.iss.cid b0.iss.slot t 0 b0.ids = true) :=
  ⟨ready_all (by decide +kernel), by decide +kernel, rfl, by decide, by decide, by decide, active_of (by decide +kernel)⟩

/-- A group whose convergence register 7 has been signed by lane 1. -/
def gSigned : Group := { g0 with cv := g0.cv.set 7 { Cv.empty with members := 3#32, signed := 2#32 } }

theorem witness_ConvergenceRegisters :
    (∀ i ∈ ([.cvset false 7#3, .cvsetMask false 8#7 7#3, .cvwait false 7#3, .cvrd false 126#7 7#3] : List Instr),
      Ready i b0 g0 ∧ Ready i (bench 1#32 gSigned) gSigned) ∧
    7 < g0.cv.length ∧ (nth Cv.empty g0.cv 7).signed = 0#32 ∧ (nth Cv.empty gSigned.cv 7).signed ≠ 0#32 :=
  ⟨fun i h => ⟨ready_all (l := [.cvset false 7#3, .cvsetMask false 8#7 7#3, .cvwait false 7#3, .cvrd false 126#7 7#3]) (by decide +kernel) i h,
    ready_all (l := [.cvset false 7#3, .cvsetMask false 8#7 7#3, .cvwait false 7#3, .cvrd false 126#7 7#3]) (by decide +kernel) i h⟩, by decide +kernel⟩

/-- A gang of one kernel whose pipe 0 it feeds itself, with 31 messages put and `gets` taken. -/
def pipeBench (full : List Nat) : State :=
  let s := b0
  { s with
    cores := [(0, { Core.reset with groups := [(0, g0)], full := full })]
    teams := [(1, { probeTeam with gang := 5 })]
    gangs := [(5, ⟨1, [1], [⟨0, 0, 0, 3, 31, 30⟩]⟩)] }

theorem witness_Pipes :
    (Ready (.pipePut false 8#7 0#2) (pipeBench []) g0 ∧ PipesIdle (pipeBench []) ∧
      pipeOf (pipeBench []) g0 0 true = some (5, ⟨0, 0, 0, 3, 31, 30⟩) ∧ kernelRetired (pipeBench []) 5 0 = false ∧
      (∀ t, Active (pipeBench []) t → releaseReady (pipeBench []) 0 0 t 2 (pipeBench []).ids = true) ∧
      (4096 * 3 + 128 * (31 % 32)) / 16 ∉ (coreOf (pipeBench []) 0).full) ∧
    (let full := (List.range 8).map fun k => 1008 + k
     Ready (.pipeGet false 127#7 0#2) (pipeBench full) g0 ∧ PipesIdle (pipeBench full) ∧
      pipeOf (pipeBench full) g0 0 false = some (5, ⟨0, 0, 0, 3, 31, 30⟩) ∧ (4096 * 3 + 128 * (30 % 32)) / 16 ∈ (coreOf (pipeBench full) 0).full) ∧
    g0.ops = [] :=
  ⟨⟨ready_of (by decide +kernel), by unfold PipesIdle; decide +kernel, by decide +kernel, by decide +kernel, active_of (by decide +kernel),
    by decide +kernel⟩, ⟨ready_of (by decide +kernel), by unfold PipesIdle; decide +kernel, by decide +kernel, by decide +kernel⟩, rfl⟩

/-! ## The matrix engine -/

/-- The bench with tile 0 reserved as `resv` says. -/
def tileBench (e : Lanes) (g : Group) (resv : List (Nat × Nat)) : State := let s := bench e g; { s with teams := [(1, { probeTeam with resv := resv })] }

theorem witness_TileReservations :
    (∀ r ∈ ([[], [(0, 0)], [(1, 0)]] : List (List (Nat × Nat))),
      Ready (.mrsv false 127#7 0#4) (tileBench 1#32 g0 r) g0 ∧ Ready (.mrel false 0#4) (tileBench 1#32 g0 r) g0 ∧
      teamOf (tileBench 1#32 g0 r) g0.team = some { probeTeam with resv := r }) ∧ 0 < probeTeam.tiles.length := by
  refine ⟨fun r h => ?_, by decide⟩
  simp only [List.mem_cons, List.not_mem_nil, or_false] at h
  rcases h with rfl | rfl | rfl <;> exact ⟨ready_of (by decide +kernel), ready_of (by decide +kernel), by decide +kernel⟩

/-- Lane 0 with A in registers 0 to 31 under tag `k`, the descriptor `v` in pair 40 and legal metadata in 96 to 103; its convergence register 0 has
the members `m`. -/
def gMatrix (k : BitVec 4) (v m : Word) : Group :=
  let g := benchGroup (((List.range 32).map fun j => (0, j, 0x3C003C00#32, k)) ++ (0, 40, v, 0#4) ::
    (List.range 8).map fun j => (0, 96 + j, 0x44444444#32, 0#4))
  { g with cv := g.cv.set 0 { Cv.empty with members := m } }

/-- What MmaSigns asks of an MMA or MMA.SP of lane 0 on tile 0. -/
theorem witness_MatrixInstructionsEnter :
    (∀ i ∈ ([.mrdF32 false 112#7 7#3 0#4, .mrdS32 false 112#7 7#3 0#4, .mwr false 112#7 7#3 0#4, .mzero false 0#4] : List Instr),
      Ready i (tileBench 1#32 g0 [(0, 0)]) g0) ∧
    ((g0.index, 0) ∈ [(0, 0)] ∧ (pierOf (tileBench 1#32 g0 [(0, 0)]) 0).table.length < 16 ∧ g0.ops = []) ∧
    (∀ x ∈ [(1#32, 13, 2#4, 0x3440000#32, 0x20000#32, false), (3#32, 13, 2#4, 0x3440000#32, 0x20000#32, false),
        (1#32, 8, 6#4, 0x2020000#32, 0x26000#32, true)],
      let g := gMatrix x.2.2.1 x.2.2.2.1 x.1
      let s := tileBench 1#32 g [(0, 0)]
      let lit := x.2.2.2.2.1
      let sp := x.2.2.2.2.2
      readyB (if sp then .mmaSp false 0#7 40#7 0#7 lit else .mma false 0#7 40#7 0#7 lit) s g = true ∧
      g.cv[mmaCv lit]? = some { Cv.empty with members := x.1 } ∧ g.latch = none ∧
      ((lanesOf s.iss.lanes).map (aFormat s.iss 0#7 lit g)).find? (fun c => !(c == 0)) = some x.2.1 ∧
      (∀ t ∈ lanesOf s.iss.lanes, signBound s.iss sp 0#7 0#7 lit g t = none ∧ signMember s.iss (mmaCv lit) lit g t = none ∧
        signTags s.iss sp 0#7 0#7 lit x.2.1 g t = none ∧ descriptorBad (descOf s.iss 40#7 g t) x.2.1 sp (mmaMode lit) = false ∧
        placementBad { probeTeam with resv := [(0, 0)] } (descOf s.iss 40#7 g t) (logicalK x.2.1 sp) (mmaMode lit) = none ∧
        signMeta s.iss sp lit x.2.1 g t = none) ∧
      (g.index, mmaTile lit) ∈ [(0, 0)] ∧ mmaReuse lit = false ∧ (pierOf s 0).table.length < 16) :=
  ⟨ready_all (by decide +kernel), by decide +kernel, by decide +kernel⟩

/-- The table of pier 0 holds the entry that `i` makes, of the group `g` with tile 0. -/
def passBench (g : Group) (i : Instr) : State :=
  let s := after (exec i (tileBench 1#32 g [(0, 0)]))
  { s with args := { n0 := 0 } }

/-- The entry of that table. -/
def entryAt (s : State) : MatEntry := ((pierOf s 0).table.head?).getD ⟨0, .exit true, 0, 0, 0, 0, 0, 0, 0#32, [], 0, 0#32, 0#64, 0, [], [], 0, []⟩

theorem witness_MatrixPassActs :
    (∀ i ∈ ([.mrdF32 false 112#7 7#3 0#4, .mwr false 112#7 7#3 0#4, .mzero false 0#4] : List Instr),
      let s := passBench g0 i
      let e := entryAt s
      pierNo e.cid = 0 ∧ (pierOf s 0).table = [e] ∧ entryHeld s 0 e = false ∧ rising (pierOf s 0).tiles = true ∧ e.instr = i ∧
      (∀ c ∈ s.cores, ∀ k ∈ c.2.groups, ∀ v ∈ k.2.cv, v.pending = false)) ∧
    (let e := entryAt (passBench g0 (.mwr false 112#7 7#3 0#4))
     e.data ≠ [] ∧ (e.data.map (·.1)).Nodup ∧ ∀ d ∈ e.data, d.1 < 32 ∧ d.2.length = 16) ∧
    (let s := passBench g0 (.mrdF32 false 112#7 7#3 0#4)
     let e := entryAt s
     groupOf s e.cid e.slot = some (groupAt s 0 0) ∧ (opOf (groupAt s 0 0) e.op).map (·.todo) = some e.lanes ∧ 112 + 15 < 128) ∧
    (let s := passBench (gMatrix 2#4 0x3440000#32 1#32) (.mma false 0#7 40#7 0#7 0x20000#32)
     let e := entryAt s
     (pierOf s 0).table = [e] ∧ entryHeld s 0 e = false ∧ e.instr = .mma false 0#7 40#7 0#7 0x20000#32) := by decide +kernel

/-! ## The transfer engine -/

/-- Lane 0 with an address 0x2000 in pair 8, a scratchpad offset 4096 in registers 12 and 13 (0), a list offset 0 in 14, and a length in 16. -/
def gCopy (len : Word) : Group := benchGroup [(0, 8, 0x2000#32, 0#4), (0, 12, 4096#32, 0#4), (0, 16, len, 0#4), (0, 18, 0x3000#32, 0#4)]

theorem witness_TransferCommandsIssue :
    (∀ i ∈ ([.copyG2s false 12#7 8#7 16#7, .copyS2g false 8#7 12#7 16#7, .copyG2g false 18#7 8#7 16#7] : List Instr),
      Ready i (bench 1#32 (gCopy 12288#32)) (gCopy 12288#32)) ∧
    (∀ i ∈ ([.gather false 12#7 8#7 14#7 0x20003#32, .scatter false 8#7 12#7 14#7 0x30001#32] : List Instr),
      Ready i (bench 1#32 (gCopy 0#32)) (gCopy 0#32)) ∧
    (LenAllowed 393216 12288 ∧ LenAllowed 4294967280 12288 ∧ 0x2000 % 16 = 0 ∧ 0x3000 % 16 = 0 ∧ SpanAllowed probeTeam 4096 12288 16) ∧
    (fieldOf 0x20003#32 0 13 = 3 ∧ SpanAllowed probeTeam 4096 (3 * (16 * 2 ^ 2)) 16 ∧ SpanAllowed probeTeam 0 (4 * 3) 4) ∧
    (let s := bench 1#32 (gCopy 12288#32)
     (pierOf s (pierNo s.iss.cid)).copies.length < 16 ∧ (pierOf s (pierNo s.iss.cid)).gathers.length < 16 ∧
     (srcPair s.iss (gCopy 12288#32) (lowestLane s.iss.lanes) 8).toNat = 0x2000 ∧ (srcVal s.iss (gCopy 12288#32) 0 12).toNat = 4096) :=
  ⟨ready_all (by decide +kernel), ready_all (by decide +kernel), by unfold LenAllowed SpanAllowed; decide +kernel,
    by unfold SpanAllowed; decide +kernel, by decide +kernel⟩

/-- One command of kind `k` in the copy stream of pier 0: 4,096 bytes between memory at 0x2000 and the scratchpad at 4096. -/
def burstCmd (k : Nat) : XCmd :=
  ⟨7, k, 0, 0, 1, 1#32, 15, if k = 0 then 0x2000 else 4096, if k = 0 then 4096 else 0x2000, 0, 4096, 1, 0, 0, 0, 0, 1, true, [], 0#32, 0#32, []⟩

/-- That command in its stream. -/
def burstBench (k : Nat) : State :=
  let s := bench 1#32 g0
  { s with piers := [(0, { Pier.reset with tlb := [homeEntry], copies := [burstCmd k] })], args := { n0 := 0, n1 := 0 } }

theorem witness_BurstsMoveBytes : ∀ k ∈ [0, 1],
    let s := burstBench k
    let c := burstCmd k
    (pierOf s 0).copies = [c] ∧ (pierOf s 0).gathers = [] ∧ c.cursor = 0 ∧ c.faults = [] ∧ 0 < c.len ∧ c.len ≤ 4096 ∧ c.kind = k ∧
    frozen s c.fn c.q (.copyStream 0) = false ∧ teamOf s c.team = some probeTeam ∧ groupOf s c.cid c.slot = some g0 ∧ g0.ops = [] ∧ g0.replayQ = [] ∧ g0.stop = none ∧
    c.before = (coreOf s c.cid).scratch := by decide +kernel

theorem witness_BurstSpans : AtHand (burstBench 0) 0 1 0 .read true 0x2000 4096 0x2000 ∧ AtHand (burstBench 1) 0 1 0 .write true 0x2000 4096 0x2000 :=
  ⟨at_hand_home rfl rfl (by decide) (by decide), at_hand_home rfl rfl (by decide) (by decide)⟩

end Sys2Proof.Tests
end

