-- ==== Sys2Proof/Tests/WitnessWork.lean ====
section
/-! SUPPORT.  Witnesses, fifth part: rays and builders, launches, placement, pools and the phase table. -/

namespace Sys2Proof.Tests

set_option Elab.async false

open Sys2Proof Sys2Proof.Machine

/-- A state with memory filled by fields (address, bytes, value). -/
def withMem (s : State) (fs : List (Nat × Nat × Nat)) : State := { s with mem := fs.foldl (fun m f => writeNat m f.1 f.2.1 f.2.2) s.mem }

/-! ## Rays and builders -/

/-- A structure descriptor at 0x2000 of one cluster, whose two slots hold the states `p` and `q`. -/
def sceneBench (g : Group) (p q : Nat) : State :=
  withMem (bench 1#32 g) [(0x201C, 4, 1), (0x2038, 4, 0xFF), (0x2040, 8, 0x4000), (0x2048, 4, 1), (0x204C, 4, 2), (0x2050, 8, 0x5000), (0x2058, 4, 0x1FF),
    (0x2064, 1, p), (0x2080, 8, 0x6000), (0x2088, 4, 1), (0x208C, 4, 2), (0x2090, 8, 0x7000), (0x2098, 4, 0x1FE), (0x20A4, 1, q)]

/-- Lane 0 with the descriptor in pair 8, and a NaN as the origin of the ray in register 24. -/
def gScene : Group := benchGroup [(0, 8, 0x2000#32, 0#4), (0, 24, 0x7FC00000#32, 1#4)]

/-- The descriptor is at hand, for reads and for writes, whatever its slots hold. -/
theorem witness_DescriptorAtHand : ∀ x ∈ [(1, 2), (2, 0), (0, 2), (4, 3)], ∀ k ∈ [AccKind.read, .write],
    (srcPair (benchIssue 1#32) gScene 0 8).toNat % 64 = 0 ∧ gScene.ops = [] ∧ gScene.replayQ = [] ∧ asidOf (sceneBench gScene x.1 x.2) gScene = 1 ∧
    atHandB (sceneBench gScene x.1 x.2) 0 1 0 k gScene.supervisor (srcPair (benchIssue 1#32) gScene 0 8).toNat 192 0x2000 = true := by decide +kernel

theorem witness_DescriptorOf : DescriptorAtHand (sceneBench gScene 1 2) gScene 8#7 0 .read 0x2000 :=
  ⟨by decide +kernel, rfl, rfl, at_hand_of (by decide +kernel)⟩

/-- The sceneBench of a pool launch. -/
def poolScene : State := let s := sceneBench gScene 1 2; { s with launches := [(1, { probeLaunch true with kind := .pool })] }

theorem witness_RaysAreAccepted :
    (Ready (.trace false 112#7 8#7 16#7 0#32) (sceneBench gScene 1 2) gScene ∧ Ready (.trace false 112#7 8#7 16#7 1#32) (sceneBench gScene 1 2) gScene ∧
      Ready (.traceEmit false 112#7 8#7 16#7 0#32) poolScene gScene) ∧
    (let s := sceneBench gScene 1 2
     s.iss.lanes = oneLane 0 ∧ (pierOf s 0).rays = [] ∧ readNat s.mem (0x2040 + 36) 1 = 1 ∧ readNat s.mem (0x2080 + 36) 1 = 2 ∧ s.rayCounts.length < 256 ∧
     hitsNothing ((List.range 8).map fun k => srcVal s.iss gScene 0 (16 + k)) = false ∧
     hitsNothing ((List.range 8).map fun k => srcVal s.iss gScene 0 (24 + k)) = true) ∧
    ((srcVal poolScene.iss gScene 0 112).toNat % 4 = 0 ∧ launchOfGroup poolScene gScene = some { probeLaunch true with kind := .pool }) ∧
    (let s := sceneBench gScene 4 3
     Ready (.trace false 112#7 8#7 16#7 0#32) s gScene ∧ readNat s.mem (0x2040 + 36) 1 ≠ 1 ∧ readNat s.mem (0x2040 + 36) 1 ≠ 2) :=
  ⟨⟨ready_of (by decide +kernel), ready_of (by decide +kernel), ready_of (by decide +kernel)⟩, by decide +kernel, by decide +kernel,
    ready_of (by decide +kernel), by decide +kernel⟩

theorem witness_BuilderCommands :
    (∀ i ∈ ([.asbuild false 120#7 8#7 0#1, .asbuildUpdate false 120#7 8#7 0#1, .asrefit false 120#7 8#7 1#1, .asretire false 120#7 8#7 1#1] : List Instr),
      Ready i (sceneBench gScene 0 2) gScene) ∧
    (let s := sceneBench gScene 0 2
     readNat s.mem (0x2040 + 36) 1 = 0 ∧ readNat s.mem (0x2080 + 36) 1 = 2 ∧ checkDescriptor (readBytes s.mem 0x2000 192) 0 = 0 ∧ s.builds = []) ∧
    (let s := sceneBench gScene 4 3
     Ready (.asretire false 120#7 8#7 0#1) s gScene ∧ readNat s.mem (0x2040 + 36) 1 = 4 ∧ readNat s.mem (0x2080 + 36) 1 = 3) :=
  ⟨ready_all (by decide +kernel), by decide +kernel, ready_of (by decide +kernel), by decide +kernel⟩

/-- A ray of lane 0 of generation 0x1FF under way in pier 0, its TRACE the group's unfinished instruction. -/
def rayBench (f : Ray → Ray) : State :=
  let s := after (exec (.trace false 112#7 8#7 16#7 0#32) (sceneBench gScene 1 2))
  let p := pierOf s 0
  let s1 := withMem s [(0x4000, 4, 0), (0x4011, 1, 0xFF), (0x5000, 8, 0x80000000000001FF)]
  { s1 with piers := [(0, { p with rays := p.rays.map f })], args := { n0 := 0, n1 := ((p.rays.head?).map (·.id)).getD 0 } }

/-- The ray of a rayBench. -/
def rayAt (s : State) : Option Ray := rayOf s 0 s.args.n1

theorem witness_RayUnderWay :
    ((rayAt (rayBench id)).map (fun r => (pierNo r.cid, r.faults, r.result, r.accepted, r.parked)) = some (0, [], none, true, false) ∧
      (rayAt (rayBench id)).map (fun r => (r.watch, r.emit, r.lane, r.generation)) = some ([], false, 0, 0x1FF)) ∧
    ((rayAt (rayBench id)).map (·.best) = some none ∧ (rayAt (rayBench id)).map (fun r => frozen (rayBench id) r.fn r.q (.traversal 0)) = some false ∧
      (groupOf (rayBench id) 0 0).isSome = true) ∧
    ((rayAt (rayBench id)).bind fun r => (opOf (groupAt (rayBench id) 0 0) r.op).map (·.instr)) = some (.trace false 112#7 8#7 16#7 0#32) ∧ 112 + 3 < 128 :=
  ⟨by decide +kernel, by decide +kernel, by decide +kernel, by decide⟩

/-- The ray about to visit the node at 0x4000 for the generation `gen`. -/
def nodeBench (gen : Nat) : State := rayBench fun r => { r with work := [.node 0x4000], generation := gen }

/-- The ray with nothing left but a deferred child behind fence 0. -/
def parkBench (gen : Nat) : State :=
  rayBench fun r => { r with parked := true, work := [], deferred := [.fenced 0 0x4000 none], fenceBase := 0x5000, generation := gen }

theorem witness_RaysTraverse :
    ((rayAt (nodeBench 0x1FF)).map (·.work) = some [.node 0x4000] ∧
      (rayAt (nodeBench 0x1FF)).map (fun r => earlierAccess (nodeBench 0x1FF) r.who false 0x4000 128) = some false) ∧
    ((rayAt (nodeBench 0x1FF)).map (fun r => atHandB (nodeBench 0x1FF) 0 r.asid r.fn .read r.supervisor 0x4000 128 0x4000) = some true ∧
      (rayAt (nodeBench 0x1FF)).map (fun r => (visitNode r (nodeBench 0x1FF).free (readBytes (nodeBench 0x1FF).mem 0x4000 128)).isRight) = some true) ∧
    (rayAt (nodeBench 0x1FE)).map (fun r => decide (readNat (nodeBench 0x1FE).mem (0x4000 + 17) 1 ≠ r.generation % 256)) = some true ∧
    (rayAt (rayBench fun r => { r with work := [] })).map (fun r => (r.work, r.deferred)) = some ([], []) :=
  ⟨by decide +kernel, by decide +kernel, by decide +kernel, by decide +kernel⟩

theorem witness_RaysWait :
    (∀ gen ∈ [0x1FF, 0x1FE],
      (rayAt (parkBench gen)).map (fun r => (r.parked, r.work, r.deferred)) = some (true, [], [.fenced 0 0x4000 none]) ∧
      (rayAt (parkBench gen)).map (·.best) = some none) ∧
    (∀ gen ∈ [0x1FF, 0x1FE],
      (rayAt (parkBench gen)).map (fun r => earlierAccess (parkBench gen) r.who false 0x5000 8) = some false ∧
      (rayAt (parkBench gen)).map (fun r => atHandB (parkBench gen) 0 r.asid r.fn .read r.supervisor 0x5000 8 0x5000) = some true) ∧
    readNat (parkBench 0x1FF).mem 0x5000 4 = 0x1FF ∧ (readNat (parkBench 0x1FF).mem 0x5000 8).testBit 63 = true :=
  ⟨by decide +kernel, by decide +kernel, by decide +kernel, by decide +kernel⟩

/-- A build of kind `kind` with planned tasks. -/
def taskBench (kind : Nat) (rewrite : Bool) (rest : List Task) : State :=
  let s := after (exec (.asbuild false 120#7 8#7 0#1) (sceneBench gScene 0 2))
  { s with
    builds := s.builds.map fun b => (b.1, { b.2 with kind := kind, phase := 2, tasks := ⟨1, [(0x4000, List.replicate 128 7#8)], some 0, 0, [], rewrite, false⟩ :: rest })
    args := { n0 := ((s.builds.head?).map (·.1)).getD 0 } }

/-- `NothingEarlier`, evaluated. -/
def nothingEarlierB (s : State) (w : Who) : Bool :=
  (match groupOf s w.cid w.slot with
   | some g => g.ops.all (fun o => decide (o.seq < w.op → o.todo &&& w.lanes = 0#32)) &&
     g.replayQ.all (fun r => decide (r.seq < w.op → r.lanes &&& w.lanes = 0#32)) &&
     (match g.stop with | some st => st.seqs.all fun q => decide (w.op ≤ q) | none => true)
   | none => true) && (coreOf s w.cid).sb.all fun x => !(w.earlierStore x)

theorem nothingEarlier_of {s : State} {w : Who} (h : nothingEarlierB s w = true) : NothingEarlier s w := by
  unfold nothingEarlierB at h
  simp only [Bool.and_eq_true, List.all_eq_true, Bool.not_eq_true'] at h
  refine ⟨fun g hg => ?_, h.2⟩
  have h1 := h.1
  rw [hg] at h1
  simp only [Bool.and_eq_true, List.all_eq_true, decide_eq_true_eq] at h1
  refine ⟨h1.1.1, h1.1.2, fun st hst => ?_⟩
  have h2 := h1.2
  rw [hst] at h2
  simpa using h2

theorem witness_BuildersWork :
    ∀ x ∈ [(0, false, []), (1, true, [⟨2, [(0x4080, [1#8])], none, 0, [1], false, false⟩]), (2, false, [])],
      let s := taskBench x.1 x.2.1 x.2.2
      let id := s.args.n0
      (find? s.builds id).map (fun b => (b.faults, b.phase, b.kind)) = some ([], 2, x.1) ∧
      (find? s.builds id).map (fun b => (frozen s b.fn b.q (.builder 0), retiring s b)) = some (false, false) ∧
      (find? s.builds id).map (fun b => b.tasks) = some (⟨1, [(0x4000, List.replicate 128 7#8)], some 0, 0, [], x.2.1, false⟩ :: x.2.2) ∧
      (∀ y ∈ x.2.2, y.id ≠ 1 ∧ y.needs ≠ []) ∧ 0x4000 % 128 + 128 ≤ 128 ∧
      (find? s.builds id).map (fun b => nothingEarlierB s (b.whoOn id 0)) = some true ∧
      (find? s.builds id).map (fun b => atHandB s (pierNo (128 * 0 + b.cid % 128)) b.asid b.fn .write b.supervisor 0x4000 128 0x4000) = some true ∧
      (find? s.builds id).map (fun b => (opOf (groupAt s b.cid b.slot) b.op).isSome) = some true ∧
      (find? s.builds id).map (fun b => slotAddr b.desc b.target) = some 0x2040 ∧ 0x2040 % 64 = 0 ∧
      (find? s.builds id).map (fun b => atHandB s (pierNo (128 * b.die + b.cid % 128)) b.asid b.fn .write b.supervisor (0x2040 + 28) 10 (0x2040 + 28)) = some true := by
  decide +kernel

/-- A slot that is RETIRING, with `n` rays of its generation left and the ranges `r` to zero. -/
def compactBench (n : Nat) (r : List (Nat × Nat)) : State :=
  let s : State := after (exec (.asretire false 120#7 8#7 1#1) (sceneBench gScene 0 2))
  let s1 := { s with compacts := s.compacts.map fun (c : Nat × Compact) => (c.1, { c.2 with ranges := r }), args := { n0 := ((s.compacts.head?).map Prod.fst).getD 0 } }
  { s1 with rayCounts := s1.compacts.map fun (c : Nat × Compact) => (generationKey c.2.place c.2.target c.2.generation, n) }

theorem witness_Compaction : ∀ x ∈ [(1, [(0x6000, 128)]), (0, [(0x6000, 128)]), (0, [])],
    (let s := compactBench x.1 x.2
     let id := s.args.n0
     (find? s.compacts id).map (fun c => (c.faults.length, c.writes.length, c.fail.length)) = some (0, 0, 0) ∧
     (find? s.compacts id).map (·.ranges) = some x.2 ∧
     (find? s.compacts id).map (fun c => frozen s c.fn c.q (.compactor c.die)) = some false ∧
     (find? s.compacts id).map (fun c => look 0 s.rayCounts (generationKey c.place c.target c.generation)) = some x.1) := by decide +kernel

theorem witness_CompactionWrites : ∀ x ∈ [(1, [(0x6000, 128)]), (0, [(0x6000, 128)]), (0, [])],
    (let s := compactBench x.1 x.2
     let id := s.args.n0
     (find? s.compacts id).map (fun c => slotAddr c.desc c.target) = some 0x2080 ∧ rising s.compacts = true ∧
     (∀ y ∈ [(0x6000, 128), (0x2080 + 28, 9)], (find? s.compacts id).map (fun c => earlierAccess s (c.who id) false y.1 y.2) = some false) ∧
     ∀ y ∈ [(0x6000, 128), (0x2080 + 28, 9)],
       (find? s.compacts id).map (fun c => atHandB s (pierNo (128 * c.die + c.cid % 128)) c.asid c.fn .write c.supervisor y.1 y.2 y.1) = some true) := by decide +kernel

/-! ## Launches by programs -/

/-- A launch record at 0x2000 of a grid of 2 by 3 by 1 teams with code address 0x3008, and the stamp before that code. -/
def recordBench (bad : Nat) : State :=
  withMem (bench 1#32 gScene) [(0x2000, 4, 1), (0x2008, 8, 0x3008), (0x2018, 2, 2), (0x201A, 2, 3), (0x201C, 2, 1), (0x201E, 1, 1), (0x201F, 1, 4),
    (0x2020, 2, 4), (0x2023, 1, bad), (0x3000, 4, 0x4B454E54)]

theorem witness_LaunchAndEmit :
    (Ready (.launch false 120#7 8#7) (recordBench 3) gScene ∧ Ready (.launch false 120#7 8#7) (recordBench 4) gScene) ∧
    (let s := recordBench 3
     let parent := probeLaunch true
     let l := gridLaunch s (readBytes s.mem 0x2000 64) (s.iss.cid / 128)
     s.iss.lanes = 1#32 ∧ gScene.index = 0 ∧ teamOf s gScene.team = some probeTeam ∧ launchOf s probeTeam.launch = some parent ∧ parent.depth ≠ 10 ∧
     (srcPair s.iss gScene 0 8).toNat = 0x2000 ∧ 0x2000 % 64 = 0 ∧ gScene.ops = [] ∧ gScene.replayQ = [] ∧
     atHandB s 0 (asidOf s gScene) (contextOf s gScene).1 .read gScene.supervisor 0x2000 64 0x2000 = true ∧
     readNat s.mem 0x2000 4 = 1 ∧ readNat s.mem (0x2000 + 36) 4 = 0 ∧ gridBad s (readBytes s.mem 0x2000 64) = none ∧
     (readNat s.mem (0x2000 + 8) 8 + 2 ^ 64 - 8) % 2 ^ 64 = 0x3000 ∧
     atHandB s 0 parent.asid parent.fn .execute parent.supervisor 0x3000 8 0x3000 = true ∧ readNat s.mem 0x3000 4 = 0x4B454E54 ∧
     (∀ k ∈ l.kernels, fitsEmpty k 0 = true) ∧ (queueOf s parent.fn parent.q).saved = false ∧ (queueOf s parent.fn parent.q).preempt = none ∧
     (coreOf s s.iss.cid).sb = [] ∧ engineWork s s.iss.cid s.iss.slot 0 s.ids 3 = false ∧ (∀ e ∈ diesOfLaunch s l, listRoom s e true = true)) ∧
    (let s := recordBench 4
     (gridBad s (readBytes s.mem 0x2000 64)).isSome = true) ∧
    (Ready (.emit false 16#7 64#7) poolScene gScene ∧ launchOfGroup poolScene gScene = some { probeLaunch true with kind := .pool } ∧
      ∀ u, Active poolScene u → (srcVal poolScene.iss gScene u 16).toNat % 4 = 0) :=
  ⟨⟨ready_of (by decide +kernel), ready_of (by decide +kernel)⟩, by decide +kernel, by decide +kernel, ready_of (by decide +kernel), by decide +kernel,
    active_of (by decide +kernel)⟩

/-! ## Placement and the end of launches -/

/-- A grid of one remaining team of a kernel, in the list of die 0. -/
def placeBench (k : Kernel) : State :=
  { State.reset with
    launches := [(7, { Launch.blank with kernels := [k], nx := 2, ny := 3, nz := 1, count := 6, units := [(0, 5)] })]
    placers := [(0, { Placer.reset with list := [(7, false)] })]
    args := { n0 := 0 } }

/-- A kernel of two groups of eight granules, and one that fits nowhere. -/
def goodKernel : Kernel := ⟨0x3008#64, 0, 2, 8, 4, 1⟩

theorem witness_GridsArePlaced :
    (let s := placeBench goodKernel
     (placerOf s 0).list = [(7, false)] ∧ (launchOf s 7).map (fun l => (l.kind, l.kernels, find? l.units 0, l.count)) = some (.grid, [goodKernel], some 5, 6) ∧
     (launchOf s 7).map (contextAway s) = some false ∧
     0 ∈ coresOf 0 ∧ fitsOn s 0 goodKernel 0 = some 0 ∧ ∀ e ∈ coresOf 0, ¬ e < 0) ∧
    (let k := { goodKernel with groups := 16 }
     let s := placeBench k
     (placerOf s 0).list = [(7, false)] ∧ ∀ c ∈ coresOf 0, fitsOn s c k 0 = none) ∧
    (let s := { placeBench goodKernel with placers := [], args := { n0 := 0, n1 := 7, n2 := 1 } }
     s.args.flag = false ∧ (launchOf s 7).map (contextAway s) = some false ∧ listRoom s 0 false = true ∧
     (launchOf s 7).map (fun l => (find? l.units 0, l.count)) = some (some 5, 6)) ∧
    (let s := { placeBench goodKernel with placers := [(0, { Placer.reset with list := List.replicate 48 (7, false) })], args := { n0 := 0, n1 := 7, n2 := 1 } }
     listRoom s 0 false = false) := by decide +kernel

/-- A group whose threads have all exited, in a team of the slots `k`. -/
def exitBench (k : List Nat) : State :=
  let g := { g0 with threads := g0.threads.map fun th => { th with exited := true } }
  let s := bench 0#32 g
  { s with
    cores := [(0, { Core.reset with groups := [(0, g), (1, { g0 with index := 1 })] })]
    teams := [(1, { probeTeam with slots := k })]
    launches := [(1, { probeLaunch true with parent := some 9, teams := [] }), (9, { probeLaunch true with parent := none, teams := [] })]
    args := { n0 := 0, n1 := 0 } }

theorem witness_GroupsExit :
    ∀ k ∈ [[0], [0, 1]],
      let s := exitBench k
      let g := groupAt s 0 0
      groupOf s 0 0 = some g ∧ teamOf s g.team = some { probeTeam with slots := k } ∧ probeTeam.cid = 0 ∧ g.exitedWhole = false ∧ liveLanes g = 0#32 ∧
      g.ops = [] ∧ g.replayQ = [] ∧ g.storesOut = [] ∧ g.stop = none ∧ (∀ v ∈ g.cv, v.pending = false) ∧ groupEngines s 0 0 = false ∧ groupError g = none ∧
      (groupOf s 0 1).map (fun x => (x.team, x.exitedWhole)) = some (g.team, false) ∧ (groupOf s 0 1).map liveLanes ≠ some 0#32 := by decide +kernel

theorem witness_LaunchesComplete :
    (let s := { exitBench [0] with args := { n0 := 1 } }
     (launchOf s 1).map (launchIdle s 1) = some true ∧ (launchOf s 1).map (·.parent) = some (some 9) ∧ 9 ≠ s.args.n0 ∧ (launchOf s 9).isSome = true) ∧
    (let s := { exitBench [0] with args := { n0 := 9 }, launches := [(9, { probeLaunch true with teams := [] })] }
     (launchOf s 9).map (launchIdle s 9) = some true ∧ (launchOf s 9).map (·.parent) = some none) := by decide +kernel

/-- A launch whose watchdog has counted since time 0 against `limit` ticks, at time 20. -/
def watchBench (limit : Nat) : State :=
  let s := bench 0#32 g0
  { s with launches := [(1, { probeLaunch true with limit := limit, since := some 0 })], time := 20#64, args := { n0 := 1 } }

theorem witness_Watchdog :
    (let s := watchBench 20
     (launchOf s 1).map (fun l => (l.since, l.used, l.limit)) = some (some 0, 0, 20) ∧ 0 + (s.time.toNat - 0) ≤ 20) ∧
    (let s := watchBench 19
     19 < 0 + (s.time.toNat - 0) ∧ (launchOf s 1).map (fun l => (l.parent, l.teams)) = some (none, [1]) ∧ s.launches.length = 1 ∧
     (teamOf s 1).map (fun t => (t.slots, t.cid)) = some ([0], 0) ∧ groupOf s 0 0 = some g0 ∧ g0.exitedWhole = false ∧ g0.stop = none) := by decide +kernel

/-- Slot 0 stopped by the trap of code 0x11, and the debugger attached or not. -/
def trapBench (attached : Bool) : State :=
  let s := stopGroup (bench 1#32 g0) 0 0 (trapStop 0x11 0 0 0 1#32)
  { s with dbg := { s.dbg with enabled := attached }, args := { n0 := 0, n1 := 0 } }

theorem witness_TrapResolution : ∀ a ∈ [false, true],
    let s := trapBench a
    let g := groupAt s 0 0
    groupOf s 0 0 = some g ∧ g.stop.map (fun st => (st.code, st.resolved)) = some (0x11, false) ∧ 0x11 ≠ 0x0C ∧ attachedTo s g = a ∧
    teamOf s g.team = some probeTeam ∧ (launchOf s probeTeam.launch).map (fun l => (l.parent, l.doomed)) = some (none, none) ∧ (∀ c ∈ s.cores, c.2.sb = []) := by decide +kernel

/-- The same, with a store of the launch that has been left behind on core 0. -/
theorem witness_TrapWithStores :
    let x : SbEntry := ⟨5, 1, noSlot, 0, 0x2000, [1#8], none, [], []⟩
    let s := { modCore (trapBench false) 0 fun c => { c with sb := [x] } with launches := [(1, { probeLaunch true with cores := [0] })] }
    (groupAt s 0 0).stop.map (·.code) = some 0x11 ∧ (launchOf s probeTeam.launch).map (·.cores) = some [0] ∧ (coreOf s 0).sb = [x] ∧ x.slot = noSlot ∧
    (launchOf s probeTeam.launch).map (fun l => (l.parent, l.doomed)) = some (none, none) ∧ attachedTo s (groupAt s 0 0) = false := by decide +kernel

/-! ## Pools and the phase table -/

/-- A pool launch with one FILLING bin and one record in its overflow ring at 0x2000. -/
def poolBench (f : Pool → Pool) (a : StepArgs) (bytes : List Byte) : State :=
  let d : PoolDie := ⟨[(3, ⟨1, 0x40, 5, [leBytes 64 0x500000040], 0⟩)], 0, 1, [], some 0, []⟩
  let s := withMem (bench 0#32 g0) [(0x2000, 8, 0x500000040)]
  { s with
    launches := [(7, { probeLaunch true with kind := .pool, teams := [], pool := some (f ⟨0x2000, 16, 20, 1000, [(0, d)], false, 0, none⟩) })]
    teams := []
    cores := []
    time := 20001#64
    args := { a with bytes := bytes } }

/-- The pool of a poolBench. -/
def poolAt (s : State) : Option Pool := (launchOf s 7).bind (·.pool)

theorem witness_PoolRecordsDeliver :
    (∀ b ∈ [leBytes 64 0x500000040, leBytes 64 0x600000040],
      let s := poolBench id { n0 := 0, n1 := 7, n2 := 0 } b
      s.args.n2 = 0 ∧ (poolAt s).map (·.overflowed) = some false ∧ (launchOf s 7).map (contextAway s) = some false ∧ badRecordByte s.args.bytes = none ∧
      (poolAt s).map (fun p => (binFor s (poolDie p 0) 0 s.args.bytes).isSome) = some true) ∧
    (let s := poolBench id { n0 := 0, n1 := 7, n2 := 0 } (leBytes 64 0x41)
     (badRecordByte s.args.bytes).isSome = true) ∧
    (let s := poolBench (fun p => { p with overflowed := true }) { n0 := 0, n1 := 7, n2 := 0 } (leBytes 64 0x40)
     (poolAt s).map (·.overflowed) = some true) := by decide +kernel

theorem witness_BinAges :
    (let s := poolBench id { n0 := 0, n1 := 7, n2 := 3 } []
     (poolAt s).map (fun p => ((look Bin.free (poolDie p 0).bins 3).state, (look Bin.free (poolDie p 0).bins 3).since, p.age)) = some (1, 0, 1000) ∧
     0 + 1000 ≤ s.time.toNat) ∧
    (let s := poolBench id { n0 := 0, n1 := 7, n2 := 4 } []
     (poolAt s).map (fun p => (look Bin.free (poolDie p 0).bins 4).state) = some 0) := by decide +kernel

theorem witness_OverflowRing :
    let s := poolBench id { n0 := 0, n1 := 7 } []
    (poolAt s).map (fun p => ((poolDie p 0).ringHead, (poolDie p 0).ringTail, (poolDie p 0).faults)) = some (0, 1, []) ∧
    ((launchOf s 7).bind fun l => l.pool.map fun p => ringPart s l p 0) = some (16, 0x2000) ∧ (launchOf s 7).map (contextAway s) = some false ∧ (poolAt s).map (·.overflowed) = some false ∧
    (launchOf s 7).map (fun l => atHandB s (pierNo (128 * 0)) l.asid l.fn .read l.supervisor 0x2000 64 0x2000) = some true ∧
    badRecordByte (readBytes s.mem 0x2000 64) = none ∧ (poolAt s).map (fun p => (binFor s (poolDie p 0) 0 (readBytes s.mem 0x2000 64)).isSome) = some true := by
  decide +kernel

theorem witness_PoolOverflow :
    (let s := poolBench id { n0 := 7, n1 := 0 } []
     (poolAt s).map (fun p => ((poolDie p 0).fullSince, p.limit)) = some (some 0, 20) ∧ 1000 * 20 < s.time.toNat - 0 ∧ s.agenda = [] ∧
     (launchOf s 7).map (·.teams) = some []) ∧
    (let s := { poolBench id { n0 := 7, n1 := 0 } [] with time := 20000#64 }
     s.time.toNat - 0 ≤ 1000 * 20) := by decide +kernel

/-- The phase table of die 0 with a base at 0x40000 and one entry, at index 63, that was launched once. -/
def phaseBench : State :=
  let s := bench 0#32 g0
  { s with
    teams := []
    placers := [(0, { Placer.reset with phaseBase := 0x8000000000040000#64, phases := [(63, ⟨0x3008, 0, 1, true, 1, [(0, 3, 4)]⟩)] })]
    args := { n0 := 0, flag := true } }

theorem witness_PhaseTables :
    ((placerOf State.reset 0).phaseBase.getLsbD 63 = false ∧ State.reset.args.flag = false) ∧
    (let s := phaseBench
     let p := placerOf s 0
     let base := p.phaseBase.toNat % 2 ^ 52 / 2 ^ 18 * 2 ^ 18
     s.args.flag = true ∧ p.phaseBase.getLsbD 63 = true ∧ p.phases = [(63, ⟨0x3008, 0, 1, true, 1, [(0, 3, 4)]⟩)] ∧ base = 0x40000 ∧
     (∀ k, k < 32 → tierOf s (base + 4096 * 63 + 128 * k) = some 0) ∧ s.coherence = Coherence.reset ∧ s.teams = [] ∧
     0 < dieCount s ∧ s.dbg.logEn = false) := by decide +kernel

end Sys2Proof.Tests
end

