-- ==== Sys2Proof/Tests/WitnessQueues.lean ====
section
/-! SUPPORT.  Witnesses, sixth part: queues, their records and entries, functions, interrupts and faults. -/

namespace Sys2Proof.Tests

set_option Elab.async false

open Sys2Proof Sys2Proof.Machine

/-! ## Command records -/

/-- Record 0 of queue 5 of function 0, claimed by core 0, started or not, with `fs` as its fields (offset, bytes, value). -/
def benchRec (started : Bool) (fs : List (Nat × Nat × Nat)) : Rec :=
  ⟨0, 0, started, 0, 2, 0x55, (List.range 64).map (fun k => nth 0#8 (fs.flatMap fun f => if f.1 ≤ k ∧ k < f.1 + f.2.1 then [nth 0#8 (leBytes f.2.1 f.2.2) (k - f.1)] else []) 0),
    none, 0, 0, [], none, none⟩

/-- Queue 5 of function 0, ENABLED and mapped, its ring at 0x10000 and its completion queue 0 at 0x11000. -/
def queueBench (f : Queue → Queue) (a : StepArgs) : State :=
  { bench 0#32 (benchGroup []) with
    cores := []
    teams := []
    launches := []
    queues := [(5, f { Queue.reset with ring := 0x10000#64, state := 1, mapped := true, asid := 1, tail := 1#32 })]
    cqs := [(0, { Cq.reset with base := 0x11000#64, enabled := true, asid := 1 })]
    args := { a with n1 := 5 } }

/-- The state in which record 0 has started. -/
def recBench (fs : List (Nat × Nat × Nat)) (ms : List (Nat × Nat × Nat)) : State :=
  withMem (queueBench (fun x => { x with ticket := 1#32, started := 1#32, recs := [benchRec true fs] }) {}) ms

theorem witness_RecordsStart :
    (let x := queueOf (queueBench id {}) 0 5
     x.mapped = true ∧ x.state = 1 ∧ x.tail ≠ x.ticket) ∧
    (∀ m ∈ [[(0x10000, 1, 0x3F)], [(0x10000, 1, 0x3F), (0x10008, 1, 1)]],
      let s := withMem (queueBench (fun x => { x with ticket := 1#32, recs := [benchRec false []] }) {}) m
      let x := queueOf s 0 5
      recordOf s 0 5 0 = some (benchRec false []) ∧ mayStart s 0 5 0 = true ∧ recordAddr x 0 = 0x10000 ∧
      atHandB s 0 (absAsid s 0 x.asid) 0 .read true 0x10000 64 0x10000 = true ∧ (headOnly (readBytes s.mem 0x10000 64) = false ∨ x.head.toNat = 0)) ∧
    recordBad (withMem (queueBench id {}) []) 0 (benchRec false [(0, 1, 0x3F)]).body = none ∧
    recordBad (withMem (queueBench id {}) []) 0 (benchRec false [(0, 1, 0x3F), (8, 1, 1)]).body = some 8 := by decide +kernel

/-- A gang of two kernels without pipes, described at 0x2000; the first with `g` groups. -/
def gangAt (g : Nat) : List (Nat × Nat × Nat) :=
  [(0x2000, 1, 2), (0x2040, 8, 0x3008), (0x2048, 1, g), (0x2049, 1, 4), (0x2060, 8, 0x4008), (0x2068, 1, 1), (0x2069, 1, 4)]

theorem witness_LaunchCommands :
    (let s := recBench [] []
     commandOf s = some (benchRec true [])) ∧
    (∀ g ∈ [1, 9],
      let s := recBench [(8, 8, 0x2000), (16, 2, 3)] (gangAt g)
      let r := benchRec true [(8, 8, 0x2000), (16, 2, 3)]
      commandOf s = some r ∧ recField r.body 8 8 = 0x2000 ∧ 0x2000 % 64 = 0 ∧ atHandB s (pierNo r.cid) (absAsid s 0 (queueOf s 0 5).asid) 0 .read true 0x2000 192 0x2000 = true ∧
      descriptorBadGang s (readBytes s.mem 0x2000 192) = decide (g = 9)) ∧
    (let s := recBench [(16, 8, 0x2000), (24, 4, 1)] []
     let r := benchRec true [(16, 8, 0x2000), (24, 4, 1)]
     commandOf s = some r ∧ s.args.bytes = [] ∧ recField r.body 24 4 = 1 ∧ recField r.body 16 8 = 0x2000 ∧
     atHandB s (pierNo r.cid) (absAsid s 0 (queueOf s 0 5).asid) 0 .read true 0x2000 64 0x2000 = true) := by decide +kernel

theorem witness_QueueTokens : ∀ m ∈ [4, 5],
    let r := { benchRec true [(8, 8, 0x2000), (16, 8, 5), (24, 4, 7)] with opcode := 0x11 }
    let s := withMem (queueBench (fun x => { x with ticket := 1#32, started := 1#32, recs := [r] }) {}) [(0x2000, 8, m)]
    commandOf s = some r ∧ r.opcode = 0x11 ∧ 0x2000 % 32 = 0 ∧ recField r.body 8 8 = 0x2000 ∧ r.flags.testBit 1 = true ∧ recField r.body 16 8 = 5 ∧ recField r.body 24 4 = 7 ∧
    readNat s.mem 0x2000 8 = m ∧ (∀ k ∈ [AccKind.read, .write],
      atHandB s (pierNo r.cid) (absAsid s 0 (queueOf s 0 5).asid) 0 k true 0x2000 16 0x2000 = true) := by decide +kernel

theorem witness_QueueCopies :
    (∀ x ∈ [(true, none), (false, some (⟨[], [], false⟩ : Preempt))],
      let s := queueBench (fun q => { q with ticket := 1#32, started := 1#32, recs := [benchRec true []], saved := x.1, preempt := x.2 }) {}
      commandOf s = some (benchRec true []) ∧ ((queueOf s 0 5).saved = true ∨ (queueOf s 0 5).preempt.isSome = true)) ∧
    (let s := recBench [] []
     commandOf s = some (benchRec true []) ∧ (queueOf s 0 5).saved = false ∧ (queueOf s 0 5).preempt = none ∧ ∀ p, p < 64 → (pierOf s p).copies.length < 16) ∧
    (let c : XCmd := ⟨0, 0, 0, 0, 0, 1#32, 0, 0, 0, 0, 0, 0, 0, 0, 0, 0, 0, true, [], 0#32, 0#32, []⟩
     let s := { recBench [] [] with piers := (List.range 64).map fun p => (p, { Pier.reset with copies := List.replicate 16 c }) }
     (queueOf s 0 5).saved = false ∧ (queueOf s 0 5).preempt = none ∧ commandOf s = some (benchRec true []) ∧ ∀ p, p < 64 → 16 ≤ (pierOf s p).copies.length) := by decide +kernel

/-- A CONFIG record of the values `va` and `vb`. -/
def configBench (va vb : Nat) : State := recBench [(16, 8, va), (24, 8, vb)] []

theorem witness_ConfigCommands :
    (∀ va ∈ [0x4000, 0],
      let s := configBench va 1
      let at_ := s.rootTable + 8 * ((fnOf s 0).asidBase + 1)
      commandOf s = some (benchRec true [(16, 8, va), (24, 8, 1)]) ∧ recField (benchRec true [(16, 8, va), (24, 8, 1)]).body 16 8 = va ∧
      recField (benchRec true [(16, 8, va), (24, 8, 1)]).body 24 8 = 1 ∧ 1 < (fnOf s 0).asidCount ∧ va % 4096 = 0 ∧ tierOf s va = some 0 ∧
      tierOf s at_ = some 0 ∧ s.args.n0 = 0 ∧ 1 < 2 ^ 14 ∧ (benchRec true [(16, 8, va), (24, 8, 1)]).flags.testBit 1 = true ∧
      freeLineB s (l1Agent 0) (at_ / 128) = true) ∧
    (∀ x ∈ [(0x4001, 0), (3, 0), (256, 0), (2, 1), (0, 4096 + 5)],
      commandOf (configBench x.1 x.2) = some (benchRec true [(16, 8, x.1), (24, 8, x.2)]) ∧
      recField (benchRec true [(16, 8, x.1), (24, 8, x.2)]).body 16 8 = x.1 ∧ recField (benchRec true [(16, 8, x.1), (24, 8, x.2)]).body 24 8 = x.2) ∧
    ((fnOf (configBench 3 0) 0).top = 0 ∧ dieCount (configBench 0 0) = 2) ∧
    (let s0 := configBench 0 (4096 + 5)
     let s := { s0 with
       fns := s0.fns ++ [(1, { Fn.reset with enabled := true })]
       queues := s0.queues ++ [(4096 + 5, { Queue.reset with state := 1, recs := [benchRec true []] })] }
     commandOf s = some (benchRec true [(16, 8, 0), (24, 8, 4096 + 5)]) ∧ (fnOf s 1).enabled = true ∧ (queueOf s 1 5).state = 1 ∧ (queueOf s 1 5).saved = false ∧
     (queueOf s 1 5).recs.any (·.started) = true) ∧
    (let s := { recBench [] [] with queues := [(4096 + 5, { Queue.reset with state := 1, recs := [benchRec true []] })], args := { n0 := 1, n1 := 5 } }
     commandOf s = some (benchRec true []) ∧ s.args.n0 ≠ 0 ∧ (queueOf s 1 5).state = 1) := by decide +kernel

theorem witness_ConfigStepsComplete :
    (∀ x ∈ [(0, 0), (3, 0), (256, 1), (0, 4096 + 5)],
      commandOf (configBench x.1 x.2) = some (benchRec true [(16, 8, x.1), (24, 8, x.2)]) ∧
      recField (benchRec true [(16, 8, x.1), (24, 8, x.2)]).body 16 8 = x.1 ∧ recField (benchRec true [(16, 8, x.1), (24, 8, x.2)]).body 24 8 = x.2) ∧
    (let s := configBench 0 0
     let at_ := s.rootTable + 8 * ((fnOf s 0).asidBase % 256)
     s.args.n0 = 0 ∧ 0 < (fnOf s 0).asidCount ∧ tierOf s at_ = some 0 ∧ freeLineB s (l1Agent 0) (at_ / 128) = true ∧ (fnOf s 0).top ≤ 3 ∧
     dieCount s = 2) ∧
    (let s := { configBench 0 (4096 + 5) with fns := [(0, Fn.resetPf), (1, { Fn.reset with enabled := true })] }
     commandOf s = some (benchRec true [(16, 8, 0), (24, 8, 4096 + 5)]) ∧ (fnOf s 1).enabled = true) := by decide +kernel

/-- Record 0, started, whose completion is to be reported. -/
def reportBench (q : Cq → Cq) : State :=
  let s := queueBench (fun x => { x with ticket := 1#32, started := 1#32, recs := [{ benchRec true [] with flags := 0 }] }) {}
  { s with cqs := [(0, q (cqOf s 0 0))] }

theorem witness_CompletionEntries :
    (∀ tail ∈ [0, 64],
      let s := reportBench fun c => { c with tail := BitVec.ofNat 32 tail, head := BitVec.ofNat 32 tail }
      let x := queueOf s 0 5
      let c := cqOf s 0 x.cq
      commandOf s = some { benchRec true [] with flags := 0 } ∧ c.waiting = [] ∧ (c.tail - c.head).toNat < ringSize c.log2 ∧
      c.base.toNat + 32 * (c.tail.toNat % ringSize c.log2) = 0x11000 ∧ atHandB s 0 (absAsid s 0 c.asid) 0 .write true 0x11000 32 0x11000 = true ∧
      x.doneRecs = [] ∧ x.head.toNat = 0) ∧
    (let s := { reportBench (fun c => { c with waiting := [(List.replicate 32 3#8, false)] }) with args := { n0 := 0, n1 := 0 } }
     let q := cqOf s 0 0
     q.waiting = [(List.replicate 32 3#8, false)] ∧ (q.tail - q.head).toNat < ringSize q.log2 ∧ q.base.toNat + 32 * (q.tail.toNat % ringSize q.log2) = 0x11000 ∧
     (List.replicate 32 3#8).length = 32 ∧ q.irqEn = false ∧ atHandB s 0 (absAsid s 0 q.asid) 0 .write true 0x11000 32 0x11000 = true) ∧
    (∀ x ∈ [(true, 1), (false, 2)],
      let s := { reportBench (fun c => { c with waiting := [(List.replicate 32 3#8, x.1)], irqEn := true, count := x.2 }) with
        fns := [(0, { Fn.resetPf with masked := [] })], args := { n0 := 0, n1 := 0 } }
      let q := cqOf s 0 0
      q.irqEn = true ∧ q.posted = 0 ∧ q.count = x.2 ∧ q.timerOn = false ∧ 1 ≤ q.timer ∧ (fnOf s 0).masked.contains q.vector = false) := by decide +kernel

/-! ## Functions and queues -/

theorem witness_FunctionsAndSriov :
    (let s := { State.reset with fns := [(0, { Fn.resetPf with asidCount := 128 })] }
     fnCfgBad s 1 0x0000000200000180#64 = false ∧ fnCfgBad s 1 0x0000000200000107#64 = true) ∧
    (bench 0#32 (benchGroup [])).trust.life = .operational ∧ State.reset.trust.life ≠ .operational ∧
    (let s := { queueBench id {} with fns := [(1, { Fn.reset with enabled := true })], queues := [(4096 + 5, Queue.reset)], args := { n0 := 1 } }
     s.args.n0 ≠ 0 ∧ (fnOf s s.args.n0).enabled = true) := by decide +kernel

/-- HQ_Q_CFG of a queue with completion queue 0, priority 3, address space 1 and 64 records; and one with a ring that is too large. -/
def goodCfg : Dword := 0x8000030100000000#64

theorem witness_QueuesComeAndGo :
    (∀ n ∈ [0, 0xB],
      let v := goodCfg ||| BitVec.ofNat 64 n
      let s := { queueBench (fun _ => Queue.reset) {} with args := { n1 := 5, val := v } }
      let x := queueOf s 0 5
      s.trust.life = .operational ∧ (fnOf s 0).enabled = true ∧ x.state = 0 ∧
      queueValid s 0 { x with
        cq := (v.extractLsb' 44 12).toNat, priority := (v.extractLsb' 40 2).toNat, asid := (v.extractLsb' 32 8).toNat,
        log2 := (v.extractLsb' 0 4).toNat } = decide (n = 0)) ∧
    ((queueOf (queueBench id {}) 0 5).state = 1 ∧ (queueOf (queueBench id {}) 0 5).recs = [] ∧ (queueOf (recBench [] []) 0 5).recs ≠ []) ∧
    (∀ n ∈ [0xC501000200010000, 0xC500000200010000],
      let v := BitVec.ofNat 64 n
      let s := { queueBench id {} with args := { n1 := 7, val := v } }
      s.trust.life = .operational ∧ (fnOf s 0).enabled = true ∧ (cqOf s 0 7).enabled = false ∧ ((v.extractLsb' 48 8).toNat ≠ 0 ↔ n = 0xC501000200010000) ∧
      (v.extractLsb' 32 16).toNat = 2 ∧ (v.extractLsb' 0 4).toNat ≤ 10 ∧ (v.extractLsb' 16 8).toNat < (fnOf s 0).asidCount) ∧
    (∀ c ∈ [0, 7],
      let s0 := queueBench id {}
      let s := { s0 with cqs := s0.cqs ++ [(7, { Cq.reset with enabled := true })], args := { n1 := c, val := 0x0001000100000000#64 } }
      (cqOf s 0 c).enabled = true ∧ (s.args.val.extractLsb' 48 8).toNat = 1 ∧ (s.args.val.extractLsb' 32 16).toNat = 1 ∧ (cqOf s 0 c).waiting = [] ∧
      cqInUse s 0 c = decide (c = 0)) := by decide +kernel

theorem witness_CompletionInterrupts :
    (let s := { queueBench id {} with args := { n0 := 0, n1 := 0 } }
     (cqOf s 0 0).waiting = [] ∧ (cqOf s 0 0).enabled = true ∧ s.trust.life = .operational ∧ (fnOf s 0).enabled = true ∧ s.args.n2 = 0 ∧ s.args.n3 = 0) ∧
    (∀ m ∈ [[], [3]],
      let s := { queueBench id {} with
        cqs := [(0, { Cq.reset with timerOn := true, irqEn := true, vector := 3 })]
        fns := [(0, { Fn.resetPf with masked := m })]
        args := { n0 := 0, n1 := 0 } }
      (cqOf s 0 0).timerOn = true ∧ (cqOf s 0 0).irqEn = true ∧ (fnOf s 0).masked.contains (cqOf s 0 0).vector = decide (m = [3])) ∧
    (cqOf State.reset 0 0).timerOn = false := by decide +kernel

theorem witness_Notify : ∀ x ∈ [(true, 2), (false, 2), (true, 66)],
    (let s := { queueBench (fun q => { q with mapped := x.1 }) {} with args := { n1 := 5, val := BitVec.ofNat 64 x.2 } }
     let q := queueOf s 0 5
     s.trust.life = .operational ∧ q.state = 1 ∧ (fnOf s 0).enabled = true ∧ q.mapped = x.1 ∧ q.ticket = 0#32 ∧
     s.args.n2 = 0 ∧ s.args.n3 = 0 ∧ (s.args.val.setWidth 32 - q.tail).toNat = x.2 - 1 ∧ 2 ^ (q.log2 + 6) - (q.tail - q.head).toNat = 63) := by decide +kernel

theorem witness_NotifyAndMapping :
    (∀ t ∈ [0, 1],
      let s := queueBench (fun q => { q with tail := BitVec.ofNat 32 t, mapped := false }) { flag := true }
      let q := queueOf s 0 5
      s.trust.life = .operational ∧ (fnOf s 0).enabled = true ∧ s.queues = [(5, q)] ∧ q.preempt = none ∧ q.saved = false ∧ s.args.flag = true ∧
      runnableQueue q = decide (t = 1)) ∧
    (let s := queueBench (fun q => { q with saved := true, mapped := false, ticket := 1#32, state := 3, recs := [benchRec true []] }) {}
     let q := queueOf s 0 5
     s.trust.life = .operational ∧ (fnOf s 0).enabled = true ∧ s.queues = [(5, q)] ∧ q.preempt = none ∧ q.saved = true ∧ q.state ≠ 0 ∧ q.recs ≠ [] ∧
     q.mapped = false) ∧
    (∀ x ∈ [(0, 4100, 0), (2, 5, 0), (8, 5, 4), (0, 5, 2)],
      let s := { queueBench id {} with args := { n1 := x.2.1, n2 := x.1, n3 := x.2.2 } }
      4096 ≤ s.args.n1 ∨ (s.args.n3 ≠ 0 ∧ s.args.n3 ≠ 4 ∧ s.args.n3 ≠ 8) ∨ s.args.n2 % (if s.args.n3 = 0 then 4 else s.args.n3) ≠ 0 ∨
        8 + s.args.n2 ≠ 0 ∧ 8 + s.args.n2 ≠ 8) ∧
    State.reset.trust.life ≠ .operational ∧ State.reset.args.n0 < dieCount State.reset := by decide +kernel

/-- An entry for fault 9 of a launch of queue 5. -/
def benchFault (written : Bool) : Fault_ := ⟨9#32, List.replicate 32 1#8, written, false, false, 5, some 1, 0⟩

/-- The physical function with a fault ring at 0x12000 and the faults `fs`. -/
def faultBench (on : Bool) (fs : List Fault_) (a : StepArgs) : State :=
  { queueBench id {} with
    fns := [(0, { Fn.resetPf with frEnabled := on, frBase := 0x12000#64, frAsid := 1, faults := fs })]
    launches := [(1, { probeLaunch true with parent := none, q := 5 })]
    args := a }

theorem witness_FaultRings :
    (∀ n ∈ [0x4500000100010000, 0x4500000000010000],
      let v := BitVec.ofNat 64 n
      let s := faultBench false [] { val := v }
      (fnOf s 0).frEnabled = false ∧ (fnOf s 0).faults = [] ∧ (v.extractLsb' 0 4).toNat ≤ 10 ∧ (v.extractLsb' 16 8).toNat < (fnOf s 0).asidCount ∧
      ((v.extractLsb' 32 16).toNat ≠ 0 ↔ n = 0x4500000100010000)) ∧
    ((fnOf (faultBench true [benchFault true] {}) 0).frEnabled = true ∧ ∀ x ∈ (fnOf (faultBench true [benchFault true] {}) 0).faults, x.written = true) ∧
    (let s := faultBench true [benchFault false] {}
     let f := fnOf s 0
     f.faults = [benchFault false] ∧ (benchFault false).entry.length = 32 ∧ (f.frTail - f.frHead).toNat < 2 ^ (f.frLog2 + 6) ∧
     f.frBase.toNat + 32 * (f.frTail.toNat % 2 ^ (f.frLog2 + 6)) = 0x12000 ∧ atHandB s 0 (absAsid s 0 f.frAsid) 0 .write true 0x12000 32 0x12000 = true) ∧
    (let c : XCmd := ⟨0, 0, 0, 0, 0, 1#32, 0, 0, 0, 0, 0, 0, 0, 0, 0, 0, 0, true, [9], 0#32, 0#32, []⟩
     let s := { faultBench true [benchFault true] { n1 := 9 } with piers := [(0, { Pier.reset with copies := [c] })] }
     outstandingFault s 0 9 = true ∧ outstandingFault s 0 8 = false ∧ c ∈ (pierOf s 0).copies ∧ c.fn = 0 ∧ 9 ∈ c.faults) ∧
    (let s := faultBench true [benchFault true] { n1 := 9 }
     (fnOf s 0).faults.find? (fun y => y.id.toNat == 9) = some (benchFault true) ∧ (benchFault true).aborted = false ∧ (queueOf s 0 5).saved = false ∧
     (benchFault true).launch = some 1 ∧ launchOf s 1 = some { probeLaunch true with parent := none, q := 5 } ∧ (probeLaunch true).doomed = none ∧
     ∀ c ∈ s.cores, c.2.sb = []) ∧
    (let s := { faultBench true [benchFault true] { n1 := 9 } with queues := [(5, { Queue.reset with saved := true })] }
     (queueOf s 0 (benchFault true).q).saved = true) := by decide +kernel

end Sys2Proof.Tests
end

