-- ==== Sys2Proof/Tests/WitnessModule.lean ====
section
/-! SUPPORT.  Witnesses, seventh part: steps, registers, links, swaps and traces, contexts and the debugger. -/

namespace Sys2Proof.Tests

set_option Elab.async false

open Sys2Proof Sys2Proof.Machine

/-! ## Encodings and steps -/

theorem witness_DecodeEncode :
    (Instr.iaddS32 false 4#7 5#7 6#7).wellFormed = true ∧ encode (.iaddS32 false 4#7 5#7 6#7) = [0x00810286#32] ∧
    (Instr.andB32Lit false 1#7 0#7 1#32).wellFormed = true ∧ encode (.andB32Lit false 1#7 0#7 1#32) = [0x02C04000#32, 1#32] ∧
    decode 0x00810286#32 7#32 = .ok (.iaddS32 false 4#7 5#7 6#7) ∧ decode 0x02C04000#32 1#32 = .ok (.andB32Lit false 1#7 0#7 1#32) := by decide +kernel

/-- A fetch that gave the word `w`, from a check. -/
def gaveWord (w : Word) : Fetched → Bool
  | .word v _ => v = w
  | _ => false

theorem fetched_of {w : Word} {x : Fetched} (h : gaveWord w x = true) : ∃ s, x = .word w s := by
  cases x <;> simp only [gaveWord, decide_eq_true_eq, Bool.false_eq_true] at h
  exact ⟨_, by rw [h]⟩

/-- The group of `bench` at the instruction of one or two words at 0x1004, under a header of class 7 and count 2 at 0x1000, active and alone. -/
def stepBench (w lit : Nat) : State :=
  let g := benchGroup []
  withMem (bench 0#32 { g with threads := g.threads.map fun th => { th with clause := some (0x1000#64, 0x2E001FE0#32) } }) [(0x1000, 4, 0x2E001FE0), (0x1004, 4, w), (0x1008, 4, lit)]

theorem witness_StepRunsDecoded : ∀ x ∈ [(0x00810286, 0), (0x02C04000, 1)],
    (let s2 := prelude_ (passTime (stepBench x.1 x.2))
     let w := BitVec.ofNat 32 x.1
     let g := groupAt s2 0 0
     (s2.platform.powered = true ∧ s2.timers = [] ∧ s2.agenda = [] ∧ s2.trust.life ≠ .selfTest ∧ runningCores s2 = [0] ∧ (coreOf s2 0).second = none ∧
       issueOrder { s2 with free := s2.free + 1 } 0 ((coreOf s2 0).cycle + 1) false = [0]) ∧
     (groupOf s2 0 0 = some g ∧ g.stop = none ∧ g.exitedWhole = false ∧ groupHeld g = false ∧ g.replayQ = [] ∧ chooseLane g = some 0 ∧
       (threadOf g 0).clause = some (0x1000#64, 0x2E001FE0#32) ∧ (threadOf g 0).pc = 0x1004#64) ∧
     (wordStop w = false ∧ wordCount w = x.2 + 1 ∧ opAllocated (wordOp w).toNat = true ∧ headerClass 0x2E001FE0#32 = 7 ∧
       (∀ i ∈ [Instr.iaddS32 false 4#7 5#7 6#7, .andB32Lit false 1#7 0#7 1#32], interlocked g i (sharers g 0) noFlag = false ∧ holdsFlag i = false ∧
         (regionHeld s2 g i).isNone = true) ∧
       opEndsClause (wordOp w).toNat = false ∧ (0x1004 - 0x1000) / 4 + wordCount w - 1 ≤ headerCount 0x2E001FE0#32)) := by decide +kernel

theorem witness_StepFetches : ∀ x ∈ [(0x00810286, 0), (0x02C04000, 1)],
    (let s2 := prelude_ (passTime (stepBench x.1 x.2))
     let s1 : State := { s2 with free := s2.free + 1 }
     (∃ s3, fetchWord s1 0 (groupAt s2 0 0) 0x1004#64 = .word (BitVec.ofNat 32 x.1) s3) ∧
     (match fetchWord s1 0 (groupAt s2 0 0) 0x1004#64 with
      | .word _ s3 => gaveWord (BitVec.ofNat 32 x.2) (fetchWord s3 0 (groupAt s2 0 0) 0x1008#64)
      | _ => false) = true) := by
  intro x hx
  refine ⟨fetched_of ?_, ?_⟩ <;> revert x hx <;> decide +kernel

/-- A module with the step `i` due. -/
def dueBench (on : Bool) (i : Instr) (ts : List Timer) : State :=
  { State.reset with trust := { Trust.reset with life := .operational }, platform := { Platform.reset with powered := on }, agenda := [⟨i, {}⟩], timers := ts }

theorem witness_StepRunsDue :
    (let s := dueBench true .traceStatusClear []
     let s2 := prelude_ (passTime s)
     s.platform.powered = true ∧ s2.timers.find? (fun t => decide (t.at_ ≤ now s2)) = none ∧ s2.agenda = [⟨.traceStatusClear, {}⟩] ∧ runningCores s2 = [] ∧
     s2.trust.life ≠ .selfTest ∧ encode .traceStatusClear = []) ∧
    (let s := dueBench true .traceStatusClear [⟨0, ⟨.eventTick, {}⟩⟩]
     let s2 := prelude_ (passTime s)
     s.platform.powered = true ∧ s2.timers.find? (fun t => decide (t.at_ ≤ now s2)) = some ⟨0, ⟨.eventTick, {}⟩⟩ ∧ encode .eventTick = []) ∧
    ((dueBench false .traceStatusClear []).platform.powered = false ∧ ∀ d ∈ (dueBench false .traceStatusClear []).agenda, d.step ≠ .powerOnReset) ∧
    ((dueBench false .powerOnReset []).platform.powered = false ∧ (dueBench false .powerOnReset []).agenda = [⟨.powerOnReset, {}⟩]) := by decide +kernel

theorem witness_MemoryStaysCanonical :
    let s := dueBench false .traceStatusClear []
    Memory.wf s.mem = true ∧ ∃ t, step s = .next t :=
  ⟨by decide, passTime (dueBench false .traceStatusClear []), rfl⟩

/-! ## Registers, links, swaps and traces -/

/-- The link has trained, and the host writes eight bytes at the offset `o` of BAR 0. -/
def writeBench (o : Nat) : State :=
  { bench 0#32 (benchGroup []) with platform := { Platform.reset with linkUp := true }, args := { n1 := o, n2 := 8, val := 0x8000000000012345#64 } }

theorem witness_RegisterWrites :
    State.reset.platform.linkUp = false ∧
    (∀ o ∈ [0x100000 + 64 * 4095, 0x300000, 0x200010 + 64, 0x400000 + 64, 0x600048 + 16 * 3],
      let s := writeBench o
      s.platform.linkUp = true ∧ (fnOf s 0).enabled = true ∧ s.args.n2 = 8 ∧ s.args.n1 = o ∧ s.trust.life = .operational ∧ 1 < dieCount s ∧
      s.dbg.bps.length = 4) := by decide +kernel

/-- An access from outside at 0x2000 in a life-cycle state. -/
def accessBench (l : Life) (a : StepArgs) : State :=
  { State.reset with
    trust := { Trust.reset with life := l }
    platform := { Platform.reset with ports := [(0, 1), (1, 3), (2, 1)], hdm := [(0, 0x1000000)] }
    args := a }

theorem witness_LinksAndArrivals :
    (∀ x ∈ [(5, 1), (2, 2)],
      let s := accessBench .operational { n0 := x.1, n1 := x.2 }
      let old := look 0 s.platform.ports s.args.n0
      s.args.n0 < portCount s ∧ old ≠ 3 ∧ (s.args.n1 = 2 → old = 1)) ∧
    (let s := accessBench .selfTest { n0 := 5, n1 := 3 }
     s.args.n0 < portCount s ∧ s.trust.life = .selfTest ∧ look 0 s.platform.ports s.args.n0 = 0) ∧
    (∀ x ∈ [(12, 1), (1, 1), (5, 2), (5, 3), (5, 0), (5, 4)],
      let s := accessBench .operational { n0 := x.1, n1 := x.2 }
      let old := look 0 s.platform.ports s.args.n0
      portCount s ≤ s.args.n0 ∨ old = 3 ∨ (s.args.n1 = 2 ∧ old ≠ 1) ∨ (s.args.n1 = 3 ∧ (s.trust.life ≠ .selfTest ∨ old ≠ 0)) ∨ s.args.n1 = 0 ∨
        3 < s.args.n1) ∧
    (∀ k ∈ [0, 1, 2],
      let s := accessBench .operational { n0 := k, n1 := 0x1002078, n2 := 8, bytes := [1#8, 2#8] }
      hdmTarget s s.args.n1 = some 0x2078 ∧ deviceTier s 0x2078 (if k = 1 then 2 else 8) = true ∧ deviceTier s 0x2078 9 = false ∧
      s.trust.life = .operational ∧ freeLineB s (gateway (homeDie s 0x2078)) (0x2078 / 128) = true) ∧
    (let s := { accessBench .operational { n0 := 0, n1 := 0x1002078, n2 := 8 } with
       coherence := { Coherence.reset with lines := [(0x40, { LineRec.atHome with hostState := 1 })] } }
     hdmTarget s s.args.n1 = some 0x2078 ∧ deviceTier s 0x2078 8 = true ∧ s.trust.life = .operational ∧ (lineOf s 0x40).hostState = 1) ∧
    hdmTarget (accessBench .operational { n1 := 0 }) 0 = none ∧
    (accessBench .safe { n0 := 1, n1 := 0x2000 }).trust.life = .safe ∧
    (∀ k ∈ [0, 1, 10],
      let s := accessBench .operational { n0 := 0, n1 := 0x2078, n2 := 8, n3 := k, bytes := List.replicate 8 1#8, flag := true }
      portUp s s.args.n0 = true ∧ s.args.n0 < portCount s ∧ portUp s 1 = false ∧ deviceTier s 0x2078 8 = true ∧ poisoned s 0x40 = false ∧
      freeLineB s (peerGateway 0) 0x40 = true) := by decide +kernel

/-- Two leaf entries at 0x2000 and 0x2080 for the frames `fa` and `fb` of the near tier. -/
def swapBench (fa fb size status line : Nat) : State :=
  withMem { State.reset with
    swaps := [(0, { Swap.reset with
      entryA := 0x2000#64, entryB := 0x2080#64, status := status, line := line, span := 0, addrA := 0x2000, addrB := 0x2080, irqEn := true, vector := 3
      leafA := BitVec.ofNat 64 (0x33F + 65536 * fa), leafB := BitVec.ofNat 64 (0x33F + 65536 * fb) })]
    fns := [(0, { Fn.resetPf with masked := [] })]
    args := { n0 := 0, val := BitVec.ofNat 64 size } } [(0x2000, 8, 0x33F + 65536 * fa), (0x2080, 8, 0x33F + 65536 * fb)]

theorem witness_SwapsStart :
    (∀ x ∈ [(16, 17, 3), (16, 17, 0), (0x2000000, 17, 0), (16, 16, 0)],
      let s := swapBench x.1 x.2.1 x.2.2 0 0
      let s1 := modSwap s 0 fun w => { w with
        irqEn := s.args.val.getLsbD 62, vector := (s.args.val.extractLsb' 56 6).toNat, size := (s.args.val.extractLsb' 0 2).toNat }
      0 < dieCount s ∧ (swapOf s1 0).status ≠ 1 ∧ (swapOf s1 0).size = x.2.2 ∧ freeLineB s (swapAgent 0) (0x2000 / 128) = true ∧ freeLineB s (swapAgent 0) (0x2080 / 128) = true ∧
      badSwapEntry s1 0x2000 0 = decide (x.1 = 0x2000000) ∧ badSwapEntry s1 0x2080 0 = false ∧
      (x.1 ≤ 17 → badSwapFrames s1 0 0 (readEntry8 s 0x2000) (readEntry8 s 0x2080) = decide (x.1 = 16 ∧ x.2.1 = 16))) ∧
    (let s := { State.reset with args := { n0 := 2 } }
     dieCount s ≤ s.args.n0) := by decide +kernel

theorem witness_SwapsExchangeFrames :
    (∀ line ∈ [0, 31],
      let s := swapBench 16 17 0 1 line
      let w := swapOf s 0
      let a := pteFrame w.leafA / 128 + w.line
      let b := pteFrame w.leafB / 128 + w.line
      w.status = 1 ∧ w.line < swapBytes w.span / 128 ∧ a ≠ b ∧ freeLineB s (swapAgent 0) a = true ∧ freeLineB s (swapAgent 0) b = true) ∧
    (let s := swapBench 16 17 0 1 32
     let w := swapOf s 0
     w.status = 1 ∧ swapBytes w.span / 128 ≤ w.line ∧ w.span ≠ 1 ∧ w.addrA + 8 ≤ w.addrB ∧ w.irqEn = true ∧ (fnOf s 0).masked.contains w.vector = false ∧
     freeLineB s (swapAgent 0) (w.addrA / 128) = true ∧ freeLineB s (swapAgent 0) (w.addrB / 128) = true) := by decide +kernel

/-- A core with one group, sampling on every 1,000 ns, and the buffer of die 0. -/
def traceBench (lost : Nat) : State :=
  let s := bench 0#32 (benchGroup [])
  { s with
    queues := [(5, Queue.reset)]
    dbg := { s.dbg with sampleEn := true, interval := 1000, buffers := [(0, { TraceBuf.reset with lost := lost })] } }

theorem witness_Tracing :
    ((traceBench 0).args.n1 < 128 * dieCount (traceBench 0) ∧ find? (traceBench 0).queues (4096 * 0 + 5) = some Queue.reset) ∧
    (let s := traceBench 0
     s.dbg.sampleEn = true ∧ s.dbg.interval ≠ 0 ∧ State.reset.dbg.sampleEn = false ∧ s.cores = [(0, { Core.reset with groups := [(0, benchGroup [])] })] ∧
     (benchGroup []).stop = none ∧ (benchGroup []).exitedWhole = false ∧ (bufOf s 0).lost = 0 ∧ (bufOf s 0).records.length < 2048) ∧
    (0 < (bufOf (traceBench 3) 0).lost ∧ (bufOf (traceBench 3) 0).records.length < 2048) := by decide +kernel

/-! ## Contexts and the debugger -/

/-- Queue 5 whose context stops: `stop` and `ack` are the units still to stop and to acknowledge. -/
def preemptBench (stop ack : List StopUnit) (discard : Bool) (a : StepArgs) : State :=
  { bench 0#32 (benchGroup []) with
    launches := [(1, { probeLaunch true with q := 5 })]
    queues := [(5, { Queue.reset with state := 1, preempt := some ⟨stop, ack, discard⟩ })]
    args := { a with n1 := 5 } }

theorem witness_Preemption :
    (queueOf State.reset 0 0).preempt = none ∧
    (let s := preemptBench [.core 0] [.core 0] false { unit := .core 0 }
     (queueOf s 0 5).preempt = some ⟨[.core 0], [.core 0], false⟩ ∧ 0 ∈ contextSlots s 0 5 0 ∧ groupOf s 0 0 = some (benchGroup []) ∧
     (benchGroup []).exitedWhole = false ∧ (benchGroup []).stop = none) ∧
    (let s := preemptBench [] [.core 0] false { unit := .core 0 }
     s.args.unit ∈ [StopUnit.core 0] ∧ unitStopped s 0 5 (.core 0) = true) ∧
    (let s0 := preemptBench [] [.core 0] false { unit := .core 0 }
     let s := { s0 with cores := s0.cores.map fun (c : Nat × Core) => (c.1, { c.2 with sb := [⟨0, 0, 0, 0, 0x2000, [1#8], none, [], []⟩] }) }
     unitStopped s 0 5 (.core 0) = false) ∧
    (let s := preemptBench [] [] false {}
     (queueOf s 0 5).preempt = some ⟨[], [], false⟩ ∧ ∀ x ∈ s.piers, x.2.copies.length = 0) ∧
    ((queueOf (preemptBench [] [] true {}) 0 5).preempt = some ⟨[], [], true⟩) := by decide +kernel

/-- A saved context of queue 5 with the given teams. -/
def savedBench (ts : List SavedTeam) (flag : Bool) : State :=
  { State.reset with
    queues := [(5, { Queue.reset with state := 1, saved := true })]
    saved := [(5, { Saved.empty with teams := ts, launches := [(0, 7)] })]
    args := { n1 := 5, flag := flag } }

theorem witness_ContextRestore :
    (let s := savedBench [⟨1, probeTeam, [], [], [], [], [], []⟩] false
     (queueOf s 0 5).saved = true ∧ s.args.flag = false ∧ savedLeft s 5 = true ∧ (∀ p ∈ s.placers, (5, true) ∉ p.2.list) ∧
     (∀ d, d < dieCount s → (placerOf s d).list.length < 64)) ∧
    (let s := { savedBench [⟨1, probeTeam, [], [], [], [], [], []⟩] false with placers := [(1, { Placer.reset with list := List.replicate 64 (7, false) })] }
     1 < dieCount s ∧ 64 ≤ (placerOf s 1).list.length ∧ savedLeft s 5 = true ∧ ∀ p ∈ s.placers, (5, true) ∉ p.2.list) ∧
    (let s := savedBench [] true
     (queueOf s 0 5).saved = true ∧ s.args.flag = true ∧ savedLeft s 5 = false ∧ (fnOf s 0).faults = [] ∧
     (look Saved.empty s.saved 5).launches = [(0, 7)]) := by decide +kernel

/-- The debugger attached to function 0, queue 0, or not, with one group alone on core 0. -/
def debugBench (on halt : Bool) (f : Group → Group) (v : Dword) : State :=
  let s := bench 0#32 (f (benchGroup []))
  { s with dbg := { s.dbg with enabled := on, halt := halt }, args := { val := v } }

/-- A group that a halt stopped, its frame all zero. -/
def gHalted : Group := { benchGroup [] with stop := some ⟨4, 0, 0, 0, 0, 0#32, 0xFFFFFFFE#32, [], 0x30000, [], [], [], [], true, false⟩ }

theorem witness_DebugAttach :
    (let s := debugBench false false id 0x8000000000000000#64
     s.dbg.enabled = false ∧ s.trust.debugUnlocked = false ∧ s.args.val.getLsbD 63 = true ∧ s.args.val.getLsbD 62 = false) ∧
    (let s := { debugBench false false id 0x8000000000000000#64 with trust := { Trust.reset with debugUnlocked := true } }
     s.trust.debugUnlocked = true) ∧
    (let s := debugBench true false id 0xC000000000000000#64
     s.dbg.enabled = true ∧ s.args.val.getLsbD 63 = true ∧ s.args.val.getLsbD 62 = true ∧ s.dbg.halt = false) ∧
    (debugBench true true id 0#64).args.val.getLsbD 63 = false := by decide +kernel

theorem witness_Debugging :
    (∀ f ∈ [true, false],
      let s := debugBench true true (fun g => { g with threads := g.threads.map fun th => { th with held := f } }) 0#64
      let g := groupAt s 0 0
      s.dbg.enabled = true ∧ s.dbg.halt = true ∧ s.cores = [(0, { Core.reset with groups := [(0, g)] })] ∧ g.exitedWhole = false ∧
      contextOf s g = (s.dbg.fn, s.dbg.q) ∧ g.stop = none ∧ (∀ u, u < 32 → (threadOf g u).region = none) ∧ (f = true → ∀ u, u < 32 → heldThread g u = true)) ∧
    (let s := debugBench true true (fun _ => gHalted) 0#64
     s.cores = [(0, { Core.reset with groups := [(0, gHalted)] })] ∧ gHalted.exitedWhole = false ∧ contextOf s gHalted = (s.dbg.fn, s.dbg.q) ∧
     readNat s.mem (0x30000 + 24) 4 = 0 ∧ preempting s gHalted = false ∧ haltedAll s = true) ∧
    haltedAll State.reset = false := by decide +kernel

theorem witness_DebuggerStepsComplete :
    (let s := { debugBench false false id 0x8000000500000000#64 with trust := { Trust.reset with debugUnlocked := true } }
     s.dbg.enabled = false ∧ s.trust.debugUnlocked = true ∧ s.args.val.getLsbD 63 = true ∧ s.args.val.getLsbD 62 = false) ∧
    (debugBench true false id 0#64).dbg.enabled = true ∧
    (let s := debugBench true true id 0#64
     let g := groupAt s 0 0
     s.dbg.enabled = true ∧ s.dbg.halt = true ∧ s.cores = [(0, { Core.reset with groups := [(0, g)] })] ∧ g.exitedWhole = false ∧
     contextOf s g = (s.dbg.fn, s.dbg.q) ∧ g.stop = none ∧ ∀ u, u < 32 → (threadOf g u).region = none) ∧
    haltedAll (debugBench true true (fun _ => gHalted) 0#64) = true := by decide +kernel

/-- A group that waits for events, or for granules up to 16. -/
def waitBench (i : Instr) : State :=
  bench 0#32 { benchGroup [] with granules := 8, ops := [⟨1, i, 0#32, 0#32, 0x1004#64, 1#32, 1#32, 0, [], [], 0#32, 0#32, false, false, 0#32, 0, 1⟩] }

theorem witness_TicksAndGrants :
    (0 < 128 * dieCount State.reset ∧ ∀ p ∈ (coreOf State.reset 0).groups, p.2.ops = []) ∧
    (let s := waitBench (.evwait false 10#7)
     let g := groupAt s 0 0
     (coreOf s 0).groups = [(0, g)] ∧ g.ops.map (·.instr) = [.evwait false 10#7] ∧ g.ops.map (·.todo) = [1#32]) ∧
    (let s := waitBench (.reggrow false 10#7 16#5)
     let g := groupAt s 0 0
     (coreOf s s.args.n0).groups = [(0, g)] ∧ g.exitedWhole = false ∧ g.stop = none ∧ g.ops.map (·.instr) = [.reggrow false 10#7 16#5] ∧
     16 - g.granules ≤ 240 - g.granules) := by decide +kernel

end Sys2Proof.Tests
end

