-- ==== Sys2Proof/Tests/WitnessTrust.lean ====
section
/-! SUPPORT.  Witnesses, eighth part: life cycle, firmware, ownership and attestation.  The keys and signatures were computed outside the model, from the
definition of ECDSA P-256; the digests of the messages with them. -/

namespace Sys2Proof.Tests

set_option Elab.async false

open Sys2Proof Sys2Proof.Machine

/-! ## Keys and signatures -/

/-- A public key as 64 bytes, X then Y. -/
def keyOf (v : Nat) : List Byte := beBytes 64 v

/-- A key, and its signature over the message of its theorem. -/
def keyOne : List Byte := keyOf 0x00dfef531ef425a157b5582c15d257a010e2ed1ca2caa5589d6e934e1e7ff02412c628b9ad7561e57458ce6e78d1e0879e15b2ca3cd4834a8f34e23d0bd0aed6
/-- The signature. -/
def sigOne : List Byte := beBytes 64 0x7cf27b188d034f7e8a52380304b51ac3c08969e277f21b35a60b48fc476699787cf27b188d034f7e8a52380304b51ac3c08969e277f21b35a60b48fc47669978

/-- A key, and its signature over the message of its theorem. -/
def keyTwo : List Byte := keyOf 0x34d2494bfbcc36ed75345f9e19ddcaacb9c9af9ce482c3cc866b9d80f5a9018d485ecf1c10ae6fa544ba9932484a5e21348ab1bd45ac619a89adda8f77b7b310
/-- The signature. -/
def sigTwo : List Byte := beBytes 64 0x7cf27b188d034f7e8a52380304b51ac3c08969e277f21b35a60b48fc476699787cf27b188d034f7e8a52380304b51ac3c08969e277f21b35a60b48fc47669978

/-- A key, and its signature over the message of its theorem. -/
def keyThree : List Byte := keyOf 0xab8de140c2a552c2788c87440e935d4f1e15936911a576d5be842b7a159fd4118204664ca3ac9ca32d2defa405708deaf52370822845656ad6a4e70eb4f33f61
/-- The signature. -/
def sigThree : List Byte := beBytes 64 0x7cf27b188d034f7e8a52380304b51ac3c08969e277f21b35a60b48fc476699787cf27b188d034f7e8a52380304b51ac3c08969e277f21b35a60b48fc47669978

/-- A key, and its signature over the message of its theorem. -/
def keyFour : List Byte := keyOf 0x33c3c19c5738681cc8e411980fc0d302152a8c452364c7fa1e7fd539c63ee5548c80395c19e9882dc1aec5ac6e4fbe8221192f9d3bfa3601601b8ac4d7f4f17f
/-- The signature. -/
def sigFour : List Byte := beBytes 64 0x7cf27b188d034f7e8a52380304b51ac3c08969e277f21b35a60b48fc476699787cf27b188d034f7e8a52380304b51ac3c08969e277f21b35a60b48fc47669978

/-- A key, and its signature over the message of its theorem. -/
def keyFive : List Byte := keyOf 0xaf6156af6c4154fa61b0e813dd04d15127ee3a373df4cbd754089fea51955ddb369d76974a2c2b7c6193dc0ccb8d38bcacff8927f46463f338a39a0823d6a301
/-- The signature. -/
def sigFive : List Byte := beBytes 64 0x7cf27b188d034f7e8a52380304b51ac3c08969e277f21b35a60b48fc476699787cf27b188d034f7e8a52380304b51ac3c08969e277f21b35a60b48fc47669978

/-- A key, and its signature over the message of its theorem. -/
def keyNonce : List Byte := keyOf 0xe0bca24e07f454f935d18a77a6e68c070b9b6bff0840d732589b887d5bdbaf81f85d5a4ed67f21e227d564dabcc64c96a825ffda8162b2b73469a3e4258d9572
/-- The signature. -/
def sigNonce : List Byte := beBytes 64 0x7cf27b188d034f7e8a52380304b51ac3c08969e277f21b35a60b48fc476699787cf27b188d034f7e8a52380304b51ac3c08969e277f21b35a60b48fc47669978

/-- A key, and its signature over the message of its theorem. -/
def keyHeader : List Byte := keyOf 0x0bb37964bb205a61b0b691e640fe52ebd07ec469fe0ca2e5355a06034452fbe59c03dd21dbd04b65b796fbb8a3c2b34beaea9ad3dbec2422fb95c7f41b8d6f31
/-- The signature. -/
def sigHeader : List Byte := beBytes 64 0x7cf27b188d034f7e8a52380304b51ac3c08969e277f21b35a60b48fc476699787cf27b188d034f7e8a52380304b51ac3c08969e277f21b35a60b48fc47669978

theorem witness_SignedOne : ecdsaVerify keyOne (sha256 (1#8 :: List.replicate 64 9#8)) sigOne = true := by decide +kernel
theorem witness_SignedTwo : ecdsaVerify keyTwo (sha256 [2#8, 1#8]) sigTwo = true := by decide +kernel
theorem witness_SignedThree : ecdsaVerify keyThree (sha256 [3#8]) sigThree = true := by decide +kernel
theorem witness_SignedFour : ecdsaVerify keyFour (sha256 [4#8]) sigFour = true := by decide +kernel
theorem witness_SignedFive : ecdsaVerify keyFive (sha256 (5#8 :: List.replicate 32 7#8)) sigFive = true := by decide +kernel
theorem witness_SignedNonce : ecdsaVerify keyNonce (sha256 (List.replicate 32 7#8)) sigNonce = true := by decide +kernel

/-- A module in a life-cycle state with the owner keys `k0` and none, whose port answers. -/
def ownedBench (l : Life) (keys : List (Option (List Byte))) (a : StepArgs) : State :=
  { State.reset with
    trust := { Trust.reset with life := l, ownerKeys := keys, nonce := some (List.replicate 32 7#8) }
    time := 20000000#64
    args := a }

theorem owner_signed {l : Life} {k : List Byte} {r : List (Option (List Byte))} {a : StepArgs} {m sig : List Byte} (h : ecdsaVerify k (sha256 m) sig = true) :
    ownerSigned (ownedBench l (some k :: r) a).trust 0 m sig = true := h

/-- The arguments of a signed command. -/
def signed (n1 : Nat) (b sig : List Byte) : StepArgs := { n1 := n1, bytes := b, sig := sig }

theorem witness_OwnerCommands :
    (let s := ownedBench .operational [some keyOne, none, none, none] (signed 0 (List.replicate 64 9#8) sigOne)
     20000000 ≤ s.time.toNat ∧ s.trust.life = .operational ∧ ownerSigned s.trust s.args.n0 (leBytes 1 1 ++ s.args.bytes) s.args.sig = true ∧
     s.trust.ownerKeys[1]? = some none ∧ s.args.bytes.length = 64) ∧
    (let s := ownedBench .operational [some keyTwo, some [], none, none] (signed 1 [] sigTwo)
     20000000 ≤ s.time.toNat ∧ s.trust.life = .operational ∧ ownerSigned s.trust s.args.n0 (leBytes 1 2 ++ leBytes 1 s.args.n1) s.args.sig = true ∧
     2 ≤ (s.trust.ownerKeys.filter Option.isSome).length ∧ s.trust.ownerKeys[s.args.n1]? = some (some [])) ∧
    (let s := ownedBench .operational [some keyThree, none, none, none] (signed 0 [] sigThree)
     20000000 ≤ s.time.toNat ∧ s.trust.life = .operational ∧ ownerSigned s.trust s.args.n0 (leBytes 1 3 ++ []) s.args.sig = true) ∧
    (let s := ownedBench .operational [some keyFour, none, none, none] (signed 0 [] sigFour)
     20000000 ≤ s.time.toNat ∧ s.trust.life = .operational ∧ ownerSigned s.trust s.args.n0 (leBytes 1 4 ++ []) s.args.sig = true ∧ 6 < s.trust.measures.length) ∧
    (let s := ownedBench .operational [some keyFive, none, none, none] (signed 0 (List.replicate 32 7#8) sigFive)
     20000000 ≤ s.time.toNat ∧ s.trust.life = .operational ∧ ownerSigned s.trust s.args.n0 (leBytes 1 5 ++ s.args.bytes) s.args.sig = true ∧
     s.args.bytes.length = 32 ∧ 7 < s.trust.measures.length) ∧
    (∀ l ∈ [Life.unowned, .safe], 20000000 ≤ (ownedBench l [] {}).time.toNat ∧ (ownedBench l [] {}).trust.life ≠ .operational) :=
  ⟨⟨by decide, rfl, owner_signed witness_SignedOne, rfl, rfl⟩, ⟨by decide, rfl, owner_signed witness_SignedTwo, by decide, rfl⟩,
    ⟨by decide, rfl, owner_signed witness_SignedThree⟩, ⟨by decide, rfl, owner_signed witness_SignedFour, by decide⟩,
    ⟨by decide, rfl, owner_signed witness_SignedFive, rfl, by decide⟩, by decide⟩

theorem witness_Ownership :
    (let s := ownedBench .operational [some keyNonce, none, none, none] (signed 0 (List.replicate 32 7#8) sigNonce)
     20000000 ≤ s.time.toNat ∧ s.trust.life = .operational ∧ s.trust.nonce = some s.args.bytes ∧
     ownerSigned s.trust s.args.n0 (s.args.bytes ++ s.trust.serial) s.args.sig = true) ∧
    (let s := ownedBench .releasing [none, none, none, none] {}
     s.trust.life = .releasing ∧ discarding s = false ∧ hostCached s = []) ∧
    (let s := { ownedBench .releasing [none, none, none, none] {} with queues := [(5, { Queue.reset with state := 1, preempt := some ⟨[], [], true⟩ })] }
     s.trust.life = .releasing ∧ discarding s = true) ∧
    (let s := ownedBench .unowned [none, none, none, none] (signed 0 (List.replicate 32 7#8 ++ keyNonce) sigNonce)
     let keys := claimKeys (s.args.bytes.drop 32)
     20000000 ≤ s.time.toNat ∧ s.trust.life = .unowned ∧ s.trust.nonce = some (s.args.bytes.take 32) ∧ keys.length = 1 ∧ (s.args.bytes.drop 32).length % 64 = 0 ∧
     ecdsaVerify (keys.headD []) (sha256 (s.args.bytes.take 32)) s.args.sig = true) ∧
    (let s := ownedBench .operational [] {}
     20000000 ≤ s.time.toNat ∧ s.trust.life ≠ .unowned ∧ s.trust.life ≠ .releasing) :=
  ⟨⟨by decide, rfl, rfl, owner_signed witness_SignedNonce⟩, by decide, by decide, ⟨by decide, rfl, rfl, rfl, rfl, witness_SignedNonce⟩, by decide⟩

/-! ## Firmware -/

/-- The signed part of a header: magic, format 1, SVN 0, 4,096 bytes of payload, and the digest of the payload. -/
def headerPart : List Byte := leBytes 4 0x4B465759 ++ leBytes 4 1 ++ leBytes 4 0 ++ leBytes 4 4096 ++ beBytes 32 0xad7facb2586fc6e966c004d7d1d16b024f5805ff7cb47c7a85dabd8b48892ca7

/-- An image with a payload of zeros, signed by the manufacturer. -/
@[irreducible] def goodImage : List Byte := headerPart ++ sigHeader ++ List.replicate 64 0#8 ++ keyHeader ++ List.replicate 16 0#8 ++ List.replicate 4096 0#8

/-- A module with the digest `mh` of its manufacturer's key, with images in its slots. -/
def bootBench (mh : List Byte) (l : Life) (a b : List Byte) (releasing : Bool) : State :=
  { State.reset with
    trust := { Trust.reset with life := l, makerHash := mh, flash := [⟨a, true⟩, ⟨b, true⟩], releasing := releasing } }

theorem witness_SignedHeader : ecdsaVerify keyHeader (sha256 headerPart) sigHeader = true := by decide +kernel

/-- The padded payload of zeros. -/
@[irreducible] def zeroMessage : List Byte := shaPad (List.replicate 4096 0#8)

/-- The state of SHA-256 after 22, after 44 and after all 65 of its blocks, computed outside the model. -/
def shaStates : List Word × List Word × List Word :=
  ([0xb8eac867#32, 0xf0791300#32, 0x0f2c6c91#32, 0x1a10dcde#32, 0x8f884d6b#32, 0x7ed18f90#32, 0xd0a0d1e2#32, 0xde7e087e#32],
   [0x263c7c1f#32, 0xbdaadf43#32, 0x824d20b0#32, 0x4954edfb#32, 0x140c752b#32, 0x12291a71#32, 0x9919cf3f#32, 0x4abeca4b#32],
   [0xad7facb2#32, 0x586fc6e9#32, 0x66c004d7#32, 0xd1d16b02#32, 0x4f5805ff#32, 0x7cb47c7a#32, 0x85dabd8b#32, 0x48892ca7#32])

theorem sha_blocks_add (a b : Nat) (h : List Word) (m : List Byte) : shaBlocks (a + b) h m = shaBlocks b (shaBlocks a h m) (m.drop (64 * a)) := by
  induction a generalizing h m with
  | zero => simp [shaBlocks]
  | succ a ih => rw [Nat.succ_add, shaBlocks, ih, shaBlocks, List.drop_drop]; congr 2; omega

theorem zero_blocks_1 : shaBlocks 22 shaInit zeroMessage = shaStates.1 := by decide +kernel

theorem zero_blocks_2 : shaBlocks 22 shaStates.1 (zeroMessage.drop (64 * 22)) = shaStates.2.1 := by decide +kernel

theorem zero_blocks_3 : shaBlocks 21 shaStates.2.1 ((zeroMessage.drop (64 * 22)).drop (64 * 22)) = shaStates.2.2 := by decide +kernel

theorem zero_message_length : zeroMessage.length / 64 = 22 + (22 + 21) := by decide +kernel

theorem sha_of {m p : List Byte} {n : Nat} {h : List Word} (hp : shaPad m = p) (hn : p.length / 64 = n) (hh : shaBlocks n shaInit p = h) :
    sha256 m = h.flatMap fun w => beBytes 4 w.toNat := by
  unfold sha256; simp only [hp, hn, hh]

theorem zero_message : shaPad (List.replicate 4096 0#8) = zeroMessage := by unfold zeroMessage; rfl

theorem witness_PayloadDigest : sha256 (List.replicate 4096 0#8) = beBytes 32 0xad7facb2586fc6e966c004d7d1d16b024f5805ff7cb47c7a85dabd8b48892ca7 := by
  rw [sha_of zero_message zero_message_length
    (by rw [sha_blocks_add, sha_blocks_add, zero_blocks_1, zero_blocks_2, zero_blocks_3] : _ = shaStates.2.2)]
  decide +kernel

/-- The header of goodImage. -/
def header256 : List Byte := headerPart ++ sigHeader ++ List.replicate 64 0#8 ++ keyHeader ++ List.replicate 16 0#8

theorem image_eq : goodImage = header256 ++ List.replicate 4096 0#8 := by simp only [goodImage, header256]

theorem header_length : header256.length = 256 := by decide +kernel

theorem image_length : goodImage.length = 4352 := by
  rw [image_eq, List.length_append, List.length_replicate, header_length]

theorem image_payload : (goodImage.drop 256).take 4096 = List.replicate 4096 0#8 := by
  rw [image_eq, List.drop_left' header_length, List.take_of_length_le (Nat.le_of_eq List.length_replicate)]

theorem image_fields :
    (leNat (imageField goodImage 0 4) = 0x4B465759 ∧ leNat (imageField goodImage 4 4) = 1 ∧ leNat (imageField goodImage 8 4) = 0 ∧
      leNat (imageField goodImage 12 4) = 4096 ∧ leNat (imageField goodImage 240 1) = 0 ∧ leNat (imageField goodImage 241 15) = 0) ∧
    goodImage.take 48 = headerPart ∧ imageField goodImage 48 64 = sigHeader ∧ imageField goodImage 176 64 = keyHeader ∧
    imageField goodImage 16 32 = beBytes 32 0xad7facb2586fc6e966c004d7d1d16b024f5805ff7cb47c7a85dabd8b48892ca7 := by decide +kernel

/-- The boot ROM accepts goodImage on a module without owner keys. -/
theorem witness_ImageAccepted (t : Trust) (hm : t.makerHash = sha256 keyHeader) (hb : blown t.svnFuse = 0) (hu : unowned t = true) : verifyImage t goodImage = none := by
  obtain ⟨⟨f0, f4, f8, f12, f240, f241⟩, h48, s48, k176, d16⟩ := image_fields
  simp only [verifyImage, image_length, f0, f4, f8, f12, f240, f241, h48, s48, k176, d16, image_payload, List.replicate_zero, List.append_nil, Nat.sub_self, Nat.reduceSub, witness_PayloadDigest, witness_SignedHeader, hm, hb, hu]
  simp

theorem witness_ResetAndBoot :
    (State.reset.trust.life = .selfTest ∧ State.reset.args.flag = false ∧ { State.reset with args := { flag := true } }.args.flag = true) ∧
    ((bootBench [] .verify [] [] true).trust.life = .verify ∧ (bootBench [] .verify [] [] true).trust.releasing = true) ∧
    (let t := (bootBench [] .verify [] [] false).trust
     t.life = .verify ∧ t.releasing = false ∧ verifyImage t (nth ⟨[], false⟩ t.flash t.active).bytes = some 0x10 ∧
     verifyImage t (nth ⟨[], false⟩ t.flash (1 - t.active)).bytes = some 0x10) := by decide +kernel

/-- The active slot is accepted, or the other after the active one fails. -/
def SlotAccepted (mh b : List Byte) : Prop :=
  (let t := (bootBench mh .verify b [] false).trust
   t.life = .verify ∧ t.releasing = false ∧ verifyImage t (nth ⟨[], false⟩ t.flash t.active).bytes = none) ∧
  (let t := (bootBench mh .verify [] b false).trust
   t.life = .verify ∧ t.releasing = false ∧ verifyImage t (nth ⟨[], false⟩ t.flash t.active).bytes = some 0x10 ∧
   verifyImage t (nth ⟨[], false⟩ t.flash (1 - t.active)).bytes = none)

theorem slot_accepted {mh b : List Byte}
    (h : ∀ t : Trust, t.makerHash = mh → blown t.svnFuse = 0 → unowned t = true → verifyImage t b = none) : SlotAccepted mh b := by
  have e : blown 0#64 = 0 := by decide +kernel
  refine ⟨⟨rfl, rfl, h _ rfl e rfl⟩, rfl, rfl, ?_, h _ rfl e rfl⟩
  show verifyImage _ [] = _
  simp [verifyImage]

theorem witness_SlotAccepted : SlotAccepted (sha256 keyHeader) goodImage := slot_accepted witness_ImageAccepted

theorem witness_FirmwareSlots :
    (∀ o ∈ [2, 5],
      let s := { ownedBench .operational [] { n0 := o, bytes := [1#8, 2#8], flag := true } with
        trust := { Trust.reset with life := .operational, flash := [⟨[], true⟩, ⟨[5#8, 6#8, 7#8], true⟩] } }
      let slot := 1 - s.trust.active
      20000000 ≤ s.time.toNat ∧ s.trust.life ≠ .releasing ∧ s.args.n0 + s.args.bytes.length ≤ 2 ^ 24 ∧ slot < s.trust.flash.length ∧
      (s.args.n0 < (nth ⟨[], false⟩ s.trust.flash slot).bytes.length ↔ o = 2) ∧ (nth ⟨[], false⟩ s.trust.flash slot).complete = true) ∧
    (nth ⟨[], false⟩ (ownedBench .operational [] {}).trust.flash 1).complete = false ∧ (ownedBench .releasing [] {}).trust.life = .releasing := by decide

theorem witness_PowerAndHeat :
    (500 ≤ State.reset.platform.clock ∧ State.reset.platform.clock ≤ 1500) ∧
    (∀ c ∈ [500, 510], { State.reset with platform := { Platform.reset with clock := c } }.platform.clock = c) ∧
    (∀ w ∈ [600, 1800], w % 10 = 0 ∧ 1800 / 3 ≤ w ∧ w ≤ 1800) ∧ (∀ w ∈ [605, 590, 1810], w % 10 ≠ 0 ∨ w < 1800 / 3 ∨ 1800 < w) ∧
    (20000000 ≤ (ownedBench .operational [] {}).time.toNat ∧ ¬ 20000000 ≤ State.reset.time.toNat) ∧
    ({ State.reset with args := { flag := true } }.args.flag = true ∧ State.reset.args.flag = false) ∧
    (State.reset.variant ≠ .k480 ∧ State.reset.trust.life = .selfTest ∧ { State.reset with variant := .k480 }.variant = .k480) ∧
    ((ownedBench .operational [] {}).trust.life ≠ .selfTest ∧ (ownedBench .operational [] {}).trust.life ≠ .fatal) := by decide

theorem witness_Attestation :
    (20000000 ≤ (ownedBench .operational [] {}).time.toNat ∧ (ownedBench .operational [] {}).args.n0 = 0) ∧
    (let s := { State.reset with platform := { Platform.reset with linkUp := true }, args := { n0 := 1 } }
     s.args.n0 ≠ 0 ∧ s.platform.linkUp = true) ∧
    (¬ 20000000 ≤ State.reset.time.toNat ∧ State.reset.platform.linkUp = false) := by decide

end Sys2Proof.Tests
end

