-- ==== Sys2Proof/Tests/Words.lean ====
section
/-! SUPPORT.  For every constructor with an encoding, a word put together from the encoding tables of the spec (opcode and fields of R333, R341 to
R348, as spec/opcode_table.json gives them) and not from the encoder: it decodes to the instruction it stands for. -/

namespace Sys2Proof.Tests

set_option Elab.async false

open Sys2Proof

/-- The words of each row decode to the instruction of that row. -/
def Decodes (rows : List (Word × Word × Instr)) : Prop := ∀ x ∈ rows, decode x.1 x.2.1 = .ok x.2.2

theorem test_IntegerWordsA : Decodes
    [(0x00096500#32, 0x0#32, .movB32 false 37#7 74#7), (0x00294000#32, 0xDEADBEEF#32, .movB32Lit false 37#7 0xDEADBEEF#32),
     (0x80482000#32, 0x0#32, .movB64 true 32#7 64#7), (0x80680000#32, 0xDEADBEEF#32, .movS64Lit true 32#7 0xDEADBEEF#32),
     (0x00896565#32, 0x0#32, .iaddS32 false 37#7 74#7 101#7), (0x00A9655B#32, 0x0#32, .iaddS32Imm false 37#7 74#7 91#7),
     (0x00C96500#32, 0xDEADBEEF#32, .iaddS32Lit false 37#7 74#7 0xDEADBEEF#32), (0x00E96565#32, 0x0#32, .isubS32 false 37#7 74#7 101#7),
     (0x01096565#32, 0x0#32, .imulS32 false 37#7 74#7 101#7), (0x01296500#32, 0xDEADBEEF#32, .imulS32Lit false 37#7 74#7 0xDEADBEEF#32),
     (0x01496565#32, 0x0#32, .imulhiS32 false 37#7 74#7 101#7), (0x01696565#32, 0x0#32, .imulhiN32 false 37#7 74#7 101#7),
     (0x01896565#32, 0x0#32, .imadS32 false 37#7 74#7 101#7), (0x01A96565#32, 0x0#32, .iaddS32Sat false 37#7 74#7 101#7),
     (0x01C96565#32, 0x0#32, .isubS32Sat false 37#7 74#7 101#7)] := by unfold Decodes; decide +kernel

theorem test_IntegerWordsB : Decodes
    [(0x01E96500#32, 0x0#32, .inegS32 false 37#7 74#7), (0x02096565#32, 0x0#32, .iminS32 false 37#7 74#7 101#7),
     (0x02296565#32, 0x0#32, .iminN32 false 37#7 74#7 101#7), (0x02496565#32, 0x0#32, .imaxS32 false 37#7 74#7 101#7),
     (0x02696565#32, 0x0#32, .imaxN32 false 37#7 74#7 101#7), (0x02896500#32, 0x0#32, .iabsS32 false 37#7 74#7),
     (0x02A96565#32, 0x0#32, .andB32 false 37#7 74#7 101#7), (0x02C96500#32, 0xDEADBEEF#32, .andB32Lit false 37#7 74#7 0xDEADBEEF#32),
     (0x02E96565#32, 0x0#32, .orB32 false 37#7 74#7 101#7), (0x03096500#32, 0xDEADBEEF#32, .orB32Lit false 37#7 74#7 0xDEADBEEF#32),
     (0x03296565#32, 0x0#32, .xorB32 false 37#7 74#7 101#7), (0x03496500#32, 0xDEADBEEF#32, .xorB32Lit false 37#7 74#7 0xDEADBEEF#32),
     (0x03696565#32, 0x0#32, .andnB32 false 37#7 74#7 101#7), (0x03896500#32, 0x0#32, .notB32 false 37#7 74#7),
     (0x03A96565#32, 0x0#32, .shlB32 false 37#7 74#7 101#7)] := by unfold Decodes; decide +kernel

theorem test_IntegerWordsC : Decodes
    [(0x03C9655B#32, 0x0#32, .shlB32Imm false 37#7 74#7 91#7), (0x03E96565#32, 0x0#32, .shrN32 false 37#7 74#7 101#7),
     (0x0409655B#32, 0x0#32, .shrN32Imm false 37#7 74#7 91#7), (0x04296565#32, 0x0#32, .shrS32 false 37#7 74#7 101#7),
     (0x0449655B#32, 0x0#32, .shrS32Imm false 37#7 74#7 91#7), (0x04696500#32, 0x805#32, .bfxN32 false 37#7 74#7 0x805#32),
     (0x04896500#32, 0x805#32, .bfxS32 false 37#7 74#7 0x805#32), (0x04A96500#32, 0x805#32, .bfiB32 false 37#7 74#7 0x805#32),
     (0x04C96500#32, 0x0#32, .popcB32 false 37#7 74#7), (0x04E96500#32, 0x0#32, .clzB32 false 37#7 74#7),
     (0x05096500#32, 0x0#32, .brevB32 false 37#7 74#7)] := by unfold Decodes; decide +kernel

theorem test_WideIntegerWordsA : Decodes
    [(0x85282060#32, 0x0#32, .iaddS64 true 32#7 64#7 96#7), (0x85482000#32, 0xDEADBEEF#32, .iaddS64Lit true 32#7 64#7 0xDEADBEEF#32),
     (0x85682060#32, 0x0#32, .isubS64 true 32#7 64#7 96#7), (0x85882060#32, 0x5#32, .leaS32 true 32#7 64#7 96#7 0x5#32),
     (0x85A82060#32, 0x5#32, .leaN32 true 32#7 64#7 96#7 0x5#32), (0x85C8205B#32, 0x0#32, .shlB64 true 32#7 64#7 91#7),
     (0x85E8205B#32, 0x0#32, .shrN64 true 32#7 64#7 91#7), (0x8608205B#32, 0x0#32, .shrS64 true 32#7 64#7 91#7),
     (0x86282060#32, 0x0#32, .imulwS32 true 32#7 64#7 96#7), (0x86482060#32, 0x0#32, .imulwN32 true 32#7 64#7 96#7),
     (0x08496565#32, 0x0#32, .icmpS32 false 2#3 37#7 74#7 101#7), (0x09496565#32, 0x0#32, .icmpN32 false 2#3 37#7 74#7 101#7),
     (0x0A496500#32, 0xDEADBEEF#32, .icmpS32Lit false 2#3 37#7 74#7 0xDEADBEEF#32), (0x0B096565#32, 0x0#32, .selB32 false 37#7 74#7 101#7),
     (0x8B282060#32, 0x0#32, .selB64 true 32#7 64#7 96#7)] := by unfold Decodes; decide +kernel

theorem test_WideIntegerWordsB : Decodes
    [(0x8B482060#32, 0x0#32, .icmpEqB64 true 32#7 64#7 96#7), (0x8B682060#32, 0x0#32, .icmpLtS64 true 32#7 64#7 96#7),
     (0x8B882060#32, 0x0#32, .icmpLtN64 true 32#7 64#7 96#7)] := by unfold Decodes; decide +kernel

theorem test_GroupWordsA : Decodes
    [(0x0C096500#32, 0x0#32, .voteBallot false 37#7 74#7), (0x0C296500#32, 0x0#32, .voteAny false 37#7 74#7),
     (0x0C496500#32, 0x0#32, .voteAll false 37#7 74#7), (0x0C696565#32, 0x0#32, .shflIdx false 37#7 74#7 101#7),
     (0x0C896565#32, 0x0#32, .shflUp false 37#7 74#7 101#7), (0x0CA96565#32, 0x0#32, .shflDown false 37#7 74#7 101#7),
     (0x0CC96565#32, 0x0#32, .shflXor false 37#7 74#7 101#7), (0x0CE9651B#32, 0x0#32, .shflDownImm false 37#7 74#7 27#5),
     (0x0D09651B#32, 0x0#32, .shflXorImm false 37#7 74#7 27#5), (0x0D296500#32, 0x0#32, .matchB32 false 37#7 74#7),
     (0x0D496505#32, 0x0#32, .gred false 37#7 74#7 5#3), (0x0D696500#32, 0x0#32, .reorder false 37#7 74#7),
     (0x0E09400B#32, 0x0#32, .reggrow false 37#7 11#5), (0x0E29400B#32, 0x0#32, .regshrink false 37#7 11#5),
     (0x0E496500#32, 0x0#32, .movxRd false 37#7 74#7)] := by unfold Decodes; decide +kernel

theorem test_GroupWordsB : Decodes
    [(0x0E696500#32, 0x0#32, .movxWr false 37#7 74#7), (0x8E882000#32, 0x0#32, .movxRdB64 true 32#7 64#7),
     (0x0EA96500#32, 0x0#32, .movxWrB64 false 37#7 74#7)] := by unfold Decodes; decide +kernel

theorem test_FloatWordsA : Decodes
    [(0x10696565#32, 0x0#32, .faddF32 false 3#2 37#7 74#7 101#7), (0x10E96565#32, 0x0#32, .fsubF32 false 3#2 37#7 74#7 101#7),
     (0x11696565#32, 0x0#32, .fmulF32 false 3#2 37#7 74#7 101#7), (0x11E96565#32, 0x0#32, .ffmaF32 false 3#2 37#7 74#7 101#7),
     (0x12096565#32, 0x0#32, .fminF32 false 37#7 74#7 101#7), (0x12296565#32, 0x0#32, .fmaxF32 false 37#7 74#7 101#7),
     (0x12496500#32, 0x0#32, .fnegF32 false 37#7 74#7), (0x12696500#32, 0x0#32, .fabsF32 false 37#7 74#7),
     (0x12A96565#32, 0x0#32, .fcmpF32 false 5#4 37#7 74#7 101#7), (0x13496565#32, 0x0#32, .fcmpUnordF32 false 37#7 74#7 101#7),
     (0x13696500#32, 0x0#32, .fclassF32 false 37#7 74#7), (0x13896500#32, 0xDEADBEEF#32, .faddF32Lit false 37#7 74#7 0xDEADBEEF#32),
     (0x13A96500#32, 0xDEADBEEF#32, .fmulF32Lit false 37#7 74#7 0xDEADBEEF#32), (0x14096500#32, 0x0#32, .fgredAddF32 false 37#7 74#7),
     (0x14296500#32, 0x0#32, .fgredMinF32 false 37#7 74#7)] := by unfold Decodes; decide +kernel

theorem test_FloatWordsB : Decodes
    [(0x14496500#32, 0x0#32, .fgredMaxF32 false 37#7 74#7), (0x14E96500#32, 0x0#32, .frintF32 false 3#2 37#7 74#7)] := by unfold Decodes; decide +kernel

theorem test_PackedAndFunctionWords : Decodes
    [(0x19096565#32, 0x0#32, .hadd false 1#1 37#7 74#7 101#7), (0x19296565#32, 0x0#32, .hsub false 1#1 37#7 74#7 101#7),
     (0x19496565#32, 0x0#32, .hmul false 1#1 37#7 74#7 101#7), (0x19696565#32, 0x0#32, .hfma false 1#1 37#7 74#7 101#7),
     (0x19896565#32, 0x0#32, .hmin false 1#1 37#7 74#7 101#7), (0x19A96565#32, 0x0#32, .hmax false 1#1 37#7 74#7 101#7),
     (0x19C96500#32, 0x0#32, .hneg false 1#1 37#7 74#7), (0x19E96500#32, 0x0#32, .habs false 1#1 37#7 74#7),
     (0x1C096503#32, 0x0#32, .rcpF32 false 37#7 74#7 3#2), (0x1C296503#32, 0x0#32, .sqrtF32 false 37#7 74#7 3#2),
     (0x1C496503#32, 0x0#32, .rsqF32 false 37#7 74#7 3#2), (0x1C696503#32, 0x0#32, .exp2F32 false 37#7 74#7 3#2),
     (0x1C896503#32, 0x0#32, .log2F32 false 37#7 74#7 3#2), (0x1CA96503#32, 0x0#32, .sinF32 false 37#7 74#7 3#2),
     (0x1CC96503#32, 0x0#32, .cosF32 false 37#7 74#7 3#2)] := by unfold Decodes; decide +kernel

theorem test_ConversionWords : Decodes
    [(0xA0082000#32, 0x51#32, .cvt true 32#7 64#7 0x51#32), (0xA8682000#32, 0x201#32, .packMx true 3#3 32#7 64#7 0x201#32),
     (0xAA682000#32, 0x201#32, .unpackMx true 3#3 32#7 64#7 0x201#32), (0xA9082060#32, 0x201#32, .packAq4 true 32#7 64#7 96#7 0x201#32),
     (0xAB082060#32, 0x201#32, .unpackAq4 true 32#7 64#7 96#7 0x201#32), (0x2C096509#32, 0x0#32, .tag false 37#7 74#7 9#4),
     (0x2C296500#32, 0x0#32, .rdtag false 37#7 74#7)] := by unfold Decodes; decide +kernel

theorem test_GlobalAccessWords : Decodes
    [(0xB0082003#32, 0x0#32, .ld true 32#7 64#7 3#3), (0xB0282043#32, 0x80#32, .ldLit true 32#7 64#7 1#1 0#3 3#3 0x80#32),
     (0xB0482003#32, 0x0#32, .ldSpec true 32#7 64#7 3#3), (0xB0682043#32, 0x80#32, .ldSpecLit true 32#7 64#7 1#1 0#3 3#3 0x80#32),
     (0xB0882003#32, 0x0#32, .st true 32#7 64#7 3#3), (0xB0A82043#32, 0x80#32, .stLit true 32#7 64#7 1#1 0#3 3#3 0x80#32),
     (0xB0C8204B#32, 0x0#32, .ldFmt true 32#7 64#7 9#4 3#3), (0xB0E82013#32, 0x0#32, .ldAcq true 32#7 64#7 2#4 3#3),
     (0xB1082013#32, 0x0#32, .stRel true 32#7 64#7 2#4 3#3)] := by unfold Decodes; decide +kernel

theorem test_ScratchpadWords : Decodes
    [(0xB2082003#32, 0x0#32, .lds true 32#7 64#7 3#3), (0xB228204B#32, 0x80000080#32, .ldsLit true 32#7 64#7 1#1 1#3 3#3 0x80000080#32),
     (0xB2482003#32, 0x0#32, .ldsWait true 32#7 64#7 3#3), (0xB268204B#32, 0x80000080#32, .ldsWaitLit true 32#7 64#7 1#1 1#3 3#3 0x80000080#32),
     (0xB2882003#32, 0x0#32, .ldsWaitClr true 32#7 64#7 3#3), (0xB2A8204B#32, 0x80000080#32, .ldsWaitClrLit true 32#7 64#7 1#1 1#3 3#3 0x80000080#32),
     (0xB2C82003#32, 0x0#32, .sts true 32#7 64#7 3#3), (0xB2E8204B#32, 0x80000080#32, .stsLit true 32#7 64#7 1#1 1#3 3#3 0x80000080#32),
     (0xB3082003#32, 0x0#32, .stsSet true 32#7 64#7 3#3), (0xB328204B#32, 0x80000080#32, .stsSetLit true 32#7 64#7 1#1 1#3 3#3 0x80000080#32),
     (0xB348204B#32, 0x0#32, .ldsFmt true 32#7 64#7 9#4 3#3), (0xB368204B#32, 0x0#32, .ldsWaitFmt true 32#7 64#7 9#4 3#3)] := by unfold Decodes; decide +kernel

theorem test_HintAndCopyWords : Decodes
    [(0x34002500#32, 0x0#32, .prefetch false 74#7), (0x34202540#32, 0x80#32, .prefetchLit false 74#7 1#1 0#3 0x80#32),
     (0x34402500#32, 0x0#32, .prefetchW false 74#7), (0x34602540#32, 0x80#32, .prefetchWLit false 74#7 1#1 0#3 0x80#32),
     (0x34802500#32, 0x0#32, .evict false 74#7), (0x34C02500#32, 0x0#32, .tlbinvVa false 74#7), (0x34E00000#32, 0x0#32, .tlbinvAll false),
     (0x36096565#32, 0x0#32, .copyG2s false 37#7 74#7 101#7), (0xB6282060#32, 0x0#32, .copyS2g true 32#7 64#7 96#7),
     (0xB6482060#32, 0x0#32, .copyG2g true 32#7 64#7 96#7), (0x36696565#32, 0x4#32, .gather false 37#7 74#7 101#7 0x4#32),
     (0xB6882060#32, 0x4#32, .scatter true 32#7 64#7 96#7 0x4#32), (0x38016565#32, 0x0#32, .modset false 5#3 74#7 101#7),
     (0xB8280005#32, 0x0#32, .modrd true 32#7 5#3)] := by unfold Decodes; decide +kernel

theorem test_AtomicWords : Decodes
    [(0x40A96565#32, 0x0#32, .atom32 false 5#4 37#7 74#7 101#7), (0xC1282060#32, 0x0#32, .atomCasB32 true 32#7 64#7 96#7),
     (0xC2A82060#32, 0x0#32, .atom64 true 5#4 32#7 64#7 96#7), (0xC3282060#32, 0x0#32, .atomCasB64 true 32#7 64#7 96#7),
     (0x44002565#32, 0x0#32, .redAddS32 false 74#7 101#7), (0xC4202060#32, 0x0#32, .redAddS64 true 64#7 96#7),
     (0x44402565#32, 0x0#32, .redAddF32 false 74#7 101#7), (0x44602565#32, 0x0#32, .redAddBf16x2 false 74#7 101#7),
     (0x44A02565#32, 0x0#32, .redAtomic false 5#4 74#7 101#7)] := by unfold Decodes; decide +kernel

theorem test_RegionAndSynchronisationWordsA : Decodes
    [(0xC8080000#32, 0xDEADBEEF#32, .tryLane true 32#7 0xDEADBEEF#32), (0xC8280000#32, 0xDEADBEEF#32, .tryGroup true 32#7 0xDEADBEEF#32),
     (0x48400000#32, 0x0#32, .commit false), (0x48600002#32, 0x0#32, .commitRel false 2#3), (0x48800000#32, 0x55#32, .abort false 0x55#32),
     (0x48A94000#32, 0x0#32, .tstat false 37#7), (0x4A000002#32, 0x0#32, .fence false 2#3), (0x4A200005#32, 0x0#32, .barSync false 5#3),
     (0x4A494005#32, 0x0#32, .barArrive false 37#7 5#3), (0x4A602505#32, 0x0#32, .barWait false 74#7 5#3),
     (0x4A800000#32, 0x2003#32, .barInit false 0x2003#32), (0x4C000005#32, 0x0#32, .cvset false 5#3),
     (0x4C202505#32, 0x0#32, .cvsetMask false 74#7 5#3), (0x4C400005#32, 0x0#32, .cvwait false 5#3), (0xCC680005#32, 0x0#32, .cvrd true 32#7 5#3)] := by unfold Decodes; decide +kernel

theorem test_RegionAndSynchronisationWordsB : Decodes
    [(0x4C802502#32, 0x0#32, .pipePut false 74#7 2#2), (0x4CA94002#32, 0x0#32, .pipeGet false 37#7 2#2),
     (0xCE00A060#32, 0x0#32, .qsig true 2#3 64#7 96#7), (0xCE282060#32, 0x0#32, .qwait true 32#7 64#7 96#7)] := by unfold Decodes; decide +kernel

theorem test_MatrixWords : Decodes
    [(0xD0082000#32, 0x3020000#32, .mma true 32#7 64#7 0#7 0x3020000#32), (0xD0282000#32, 0x3020000#32, .mmaSp true 32#7 64#7 0#7 0x3020000#32),
     (0x5809400B#32, 0x0#32, .mrsv false 37#7 11#4), (0x5820000B#32, 0x0#32, .mrel false 11#4), (0xD848002B#32, 0x0#32, .mrdF32 true 32#7 2#3 11#4),
     (0xD868002B#32, 0x0#32, .mrdS32 true 32#7 2#3 11#4), (0xD880202B#32, 0x0#32, .mwr true 64#7 2#3 11#4), (0x58A0000B#32, 0x0#32, .mzero false 11#4)] := by unfold Decodes; decide +kernel

theorem test_RayWords : Decodes
    [(0xE0082060#32, 0x1#32, .trace true 32#7 64#7 96#7 0x1#32), (0xE0282060#32, 0x1#32, .traceEmit true 32#7 64#7 96#7 0x1#32),
     (0x62096501#32, 0x0#32, .asbuild false 37#7 74#7 1#1), (0x62296501#32, 0x0#32, .asbuildUpdate false 37#7 74#7 1#1),
     (0x62496501#32, 0x0#32, .asrefit false 37#7 74#7 1#1), (0x62696501#32, 0x0#32, .asretire false 37#7 74#7 1#1),
     (0x64096500#32, 0x0#32, .launch false 37#7 74#7), (0xE4202060#32, 0x0#32, .emit true 64#7 96#7)] := by unfold Decodes; decide +kernel

theorem test_ControlWordsA : Decodes
    [(0x70000000#32, 0xDEADBEEF#32, .bra false 0xDEADBEEF#32), (0x70200000#32, 0x0#32, .exit false),
     (0x70402500#32, 0xDEADBEEF#32, .brz false 74#7 0xDEADBEEF#32), (0x70602500#32, 0xDEADBEEF#32, .brnz false 74#7 0xDEADBEEF#32),
     (0xF0880000#32, 0xDEADBEEF#32, .call true 32#7 0xDEADBEEF#32), (0x70A02500#32, 0x0#32, .ret false 74#7),
     (0xF0C82000#32, 0x0#32, .callr true 32#7 64#7), (0x74000000#32, 0x0#32, .yield false), (0x78094015#32, 0x0#32, .rdsys false 37#7 21#7),
     (0x7820005B#32, 0x0#32, .trap false 91#7), (0x78400000#32, 0x0#32, .bkpt false), (0x7A000000#32, 0x0#32, .nopFill false),
     (0x7C096500#32, 0x0#32, .rett false 37#7 74#7), (0xFC282000#32, 0x0#32, .grd true 32#7 64#7), (0x7C496500#32, 0x0#32, .gwr false 37#7 74#7)] := by unfold Decodes; decide +kernel

theorem test_ControlWordsB : Decodes
    [(0x7C694000#32, 0x0#32, .evwait false 37#7)] := by unfold Decodes; decide +kernel

end Sys2Proof.Tests
end

