-- ==== Sys2Proof/Tests/Slice0.lean ====
section
/-! SUPPORT.  The model's own tests: ill-formed instructions are refused, and single steps give what the spec's rules and worked examples say. -/

namespace Sys2Proof.Tests

set_option Elab.async false

open Sys2Proof Sys2Proof.Machine

/-! ## WellFormed (step 4 of R351): one ill-formed term for each check -/

/-- The check refuses every instruction of a list, and the decoder refuses its words. -/
def Refused (l : List Instr) : Prop :=
  ∀ i ∈ l, i.wellFormed = false ∧ decode (nth 0#32 (encode i) 0) (nth 0#32 (encode i) 1) = .illegalEncoding

theorem test_IllFormedRegisters : Refused
    [.movB64 false 33#7 64#7, .movB64 false 32#7 65#7, .ld false 34#7 64#7 4#3, .st false 33#7 64#7 3#3, .atom64 false 0#4 32#7 64#7 97#7,
     .trace false 32#7 65#7 96#7 0#32, .packMx false 0#3 32#7 65#7 0x28#32, .mma false 1#7 40#7 0#7 0x03020000#32] := by unfold Refused; decide +kernel

theorem test_IllFormedLiterals : Refused
    [.bfxN32 false 37#7 74#7 0x5#32, .bfxS32 false 37#7 74#7 0x81F#32, .bfiB32 false 37#7 74#7 0x40805#32, .leaS32 false 37#7 74#7 101#7 8#32,
     .leaN32 false 37#7 74#7 101#7 8#32, .cvt false 4#7 8#7 0x11#32, .cvt false 4#7 8#7 0xF1#32, .cvt false 4#7 8#7 0x1051#32, .packMx false 0#3 32#7 64#7 0x20#32,
     .packAq4 false 37#7 64#7 101#7 37#32,
     .unpackAq4 false 64#7 37#7 101#7 0x80#32] := by unfold Refused; decide +kernel

theorem test_IllFormedAccesses : Refused
    [.ld false 32#7 64#7 5#3, .ldSpec false 32#7 64#7 5#3, .st false 32#7 64#7 5#3, .ldLit false 32#7 64#7 0#1 1#3 2#3 0x80#32,
     .ldSpecLit false 32#7 64#7 1#1 0#3 2#3 0x80000080#32, .stLit false 32#7 64#7 1#1 0#3 2#3 0x80080#32, .ldFmt false 32#7 64#7 0#4 2#3, .ldFmt false 32#7 64#7 15#4 2#3,
     .ldFmt false 32#7 64#7 3#4 1#3, .ldAcq false 32#7 64#7 6#4 2#3, .stRel false 32#7 64#7 2#4 4#3, .lds false 32#7 64#7 5#3, .ldsWait false 32#7 64#7 5#3,
     .ldsWaitClr false 32#7 64#7 5#3, .sts false 32#7 64#7 5#3, .stsSet false 32#7 64#7 5#3] := by unfold Refused; decide +kernel

theorem test_IllFormedForms : Refused
    [.ldsLit false 32#7 64#7 1#1 1#3 2#3 0x80#32, .ldsWaitLit false 32#7 64#7 0#1 1#3 2#3 0x80#32, .ldsWaitClrLit false 32#7 64#7 0#1 1#3 2#3 0x80#32,
     .stsLit false 32#7 64#7 0#1 1#3 2#3 0x80#32, .stsSetLit false 32#7 64#7 0#1 0#3 5#3 0x80#32, .ldsFmt false 32#7 64#7 0#4 2#3, .ldsWaitFmt false 32#7 64#7 15#4 2#3,
     .prefetchLit false 64#7 0#1 1#3 0x80#32, .prefetchWLit false 64#7 1#1 1#3 0x80#32, .gather false 32#7 64#7 96#7 0#32, .scatter false 32#7 64#7 96#7 0x1001#32,
     .commitRel false 6#3, .abort false 0x100#32, .fence false 6#3, .qsig false 6#3 64#7 96#7, .barInit false 0x8#32, .barInit false 0x10103#32] := by
  unfold Refused; decide +kernel

theorem test_IllFormedOperations : Refused
    [.reggrow false 37#7 0#5, .reggrow false 37#7 17#5, .regshrink false 37#7 17#5, .mma false 0#7 40#7 0#7 0x03018000#32, .mma false 0#7 40#7 1#7 0x03000000#32,
     .mma false 0#7 40#7 0#7 0x03020100#32, .mmaSp false 0#7 40#7 0#7 0x13020000#32, .trace false 32#7 64#7 96#7 2#32, .traceEmit false 32#7 64#7 96#7 2#32,
     .rdsys false 32#7 24#7, .rdsys false 32#7 35#7] := by unfold Refused; decide +kernel

/-- A condition or operation outside the range of its row is no word of the row, so that the check has no word to refuse. -/
theorem test_IllFormedOpcodes : ∀ i ∈ ([.packMx false 6#3 32#7 64#7 0x28#32, .unpackMx false 7#3 32#7 64#7 0x28#32, .icmpS32 false 6#3 37#7 74#7 101#7, .icmpN32 false 7#3 37#7 74#7 101#7, .icmpS32Lit false 6#3 37#7 74#7 1#32,
    .fcmpF32 false 3#4 37#7 74#7 101#7, .fcmpF32 false 10#4 37#7 74#7 101#7, .atom32 false 9#4 37#7 74#7 101#7, .atom64 false 9#4 36#7 74#7 100#7,
    .redAtomic false 3#4 74#7 101#7, .redAtomic false 11#4 74#7 101#7] : List Instr), i.wellFormed = false := by decide +kernel

/-- R345: an opcode that no row lists is an illegal opcode, and a table word of it runs into that trap. -/
theorem test_IllegalOpcode : decode 0x7FE00000#32 0#32 = .illegalOpcode ∧ decodeTableWord 32 0x7FE00000 = some (.unallocatedOpcode 0x7FE00000#32) := by decide +kernel

/-! ## Single steps -/

/-- The register of lane 0 after an instruction on a group with the given registers. -/
def result (i : Instr) (regs : List (Nat × Word × BitVec 4)) (v : Nat) : Reg :=
  regOf (groupAt (after (exec i (bench 1#32 (benchGroup (regs.map fun r => (0, r.1, r.2.1, r.2.2)))))) 0 0) 0 v

/-- R367: a sum wraps and its tag is INT32 (12). -/
theorem test_AddWraps : result (.iaddS32 false 4#7 5#7 6#7) [(5, 0xFFFFFFFF#32, 12#4), (6, 3#32, 12#4)] 4 = ⟨2#32, 12#4⟩ := by decide +kernel

/-- R367: the saturating difference stops at the most negative number. -/
theorem test_SubSaturates : (result (.isubS32Sat false 4#7 5#7 6#7) [(5, 0x80000000#32, 12#4), (6, 1#32, 12#4)] 4).val = 0x80000000#32 := by decide +kernel

/-- R367: the widening product is written to a pair, and a source may be its destination. -/
theorem test_WideProduct :
    (result (.imulwN32 false 4#7 4#7 5#7) [(4, 0xFFFFFFFF#32, 12#4), (5, 0xFFFFFFFF#32, 12#4)] 4).val = 1#32 ∧
    (result (.imulwN32 false 4#7 4#7 5#7) [(4, 0xFFFFFFFF#32, 12#4), (5, 0xFFFFFFFF#32, 12#4)] 5).val = 0xFFFFFFFE#32 := by decide +kernel

/-- R368: an arithmetic shift keeps the sign. -/
theorem test_ShiftKeepsSign : (result (.shrS32Imm false 4#7 5#7 31#7) [(5, 0x80000000#32, 12#4)] 4).val = 0xFFFFFFFF#32 := by decide +kernel

/-- R396, R390: one plus half a step of FP32 is a tie, which mode RN rounds to the even neighbour. -/
theorem test_AddRoundsToEven : (result (.faddF32 false 0#2 4#7 5#7 6#7) [(5, 0x3F800000#32, 1#4), (6, 0x33800000#32, 1#4)] 4).val = 0x3F800000#32 := by decide +kernel

/-- R396: infinity minus infinity is the NaN 0x7FC00000. -/
theorem test_InfinityMinusInfinity :
    (result (.fsubF32 false 0#2 4#7 5#7 6#7) [(5, 0x7F800000#32, 1#4), (6, 0x7F800000#32, 1#4)] 4).val = 0x7FC00000#32 := by decide +kernel

/-- R404: the spec's worked conversion of four FP32 values to E4M3: 1.0, 500.0, NaN and minus zero. -/
theorem test_ConvertToE4M3 :
    (result (.cvt false 4#7 8#7 0x51#32) [(8, 0x3F800000#32, 1#4), (9, 0x43FA0000#32, 1#4), (10, 0x7FC00000#32, 1#4), (11, 0x80000000#32, 1#4)] 4).val = 0x807F7F38#32 := by
  decide +kernel

/-- R383: a taken branch goes to the header plus four times its signed literal. -/
theorem test_BranchTarget : ∀ x ∈ [(0xA, 0x1028), (0xFFFFFFFF, 0xFFC)],
    (threadOf (groupAt (after (exec (.brz false 1#7 (BitVec.ofNat 32 x.1)) (bench 1#32 (benchGroup [(0, 1, 0#32, 12#4)])))) 0 0) 0).pc.toNat = x.2 := by decide +kernel

/-- R53: a digest of the SHA-256 standard's first example, which R53's extensions use. -/
theorem test_Sha256 : sha256 [0x61#8, 0x62#8, 0x63#8] =
    beBytes 32 0xBA7816BF8F01CFEA414140DE5DAE2223B00361A396177A9CB410FF61F20015AD := by decide +kernel

/-- The source of the worked example of R364's chapter. -/
def ringSum : List Source :=
  [.section_ .text, .kernel [0x72#8], .team 1, .regs 12, .scratch 8192, .clause ⟨4, 0, 15, false⟩, .instr false 0x3222014A#32 (some (.num 0x80000080)),
   .instr false 0x00810286#32 none, .live [2], .instr true 0x70200000#32 none, .end_]

/-- R357, R361, R362: the worked example's code section: two stamps, one clause with its header, and the safe point of EXIT. -/
theorem test_AssembledClause :
    (match asmLines Asm.start ringSum with
     | .ok a => match textBytes a a.text with
       | .ok b => ((List.range 9).map fun k => leNat ((b.drop (4 * k)).take 4), a.points)
       | .error _ => ([], [])
     | .error _ => ([], [])) =
    ([0x4B454E54, 0x1000, 0x4B454E54, 0x1008, 0x4E0081E0, 0x3222014A, 0x80000080, 0x00810286, 0xF0200000], [(0x20, some 4#128)]) := by decide +kernel

/-- R51: State.reset is in SELF_TEST and the word placed for the next step is fetched by it. -/
theorem test_PlacedWordRuns :
    let s := State.reset.withFetchWord 32 0x00810286
    (match step s with
     | .next t => (coreOf t 0).groups.length
     | _ => 0) = 1 := by decide +kernel

end Sys2Proof.Tests
end

namespace Sys2Proof.Machine

/-! ## Instructions that complete at issue -/

/-- Where no check stops it, an instruction that computes registers over E completes with the writes that its results are in the lanes of E. -/
theorem Ready.completes {i : Instr} {s : State} {g : Group} {n : Nat} {f : Lanes → Group → Nat → List (Nat × Reg)}
    {w : Nat → List (Nat × Reg)} (r : Ready i s g) (hexec : exec i s = computeOver i s f) (hlen : lengthOf i = n)
    (hf : ∀ t, Active s t → f s.iss.lanes g t = w t) (hw : ∀ t, Active s t → ∀ x ∈ w t, x.1 < 128) :
    ∃ h, exec i s = .next (withGroup s h) ∧ OnlyRegs g h ∧ RegsFrom s g h w ∧ PcsPast s g h n := by
  obtain ⟨h, hnext, honly, hregs, hpcs⟩ := computeOver_ready r f fun t ht x hx => hw t ht x (hf t ht ▸ hx)
  refine ⟨h, hexec.trans hnext, honly, fun t v ht hv => ⟨fun ha => ?_, (hregs t v ht hv).2⟩, hlen ▸ hpcs⟩
  rw [(hregs t v ht hv).1 ha, hf t ha]

/-- A register that the group holds is one of the 128 of a lane (R245). -/
theorem Ready.reg_lt {i : Instr} {s : State} {g : Group} (r : Ready i s g) {v : Nat} (hv : v < 8 * g.granules) : v < 128 :=
  Nat.lt_of_lt_of_le hv (Nat.mul_le_mul_left 8 r.granules)

/-- The second register of the pair that an instruction names first is one it names. -/
theorem pair_mem_namedRegs {i : Instr} {d : Nat} {o : Operand} {rest : List Operand} (h : operands i = o :: rest) (hs : o.span = (d, 2)) :
    d + 1 ∈ namedRegs i := by
  simp only [namedRegs, regSpan, h, List.flatMap_cons, hs, List.mem_append, List.mem_map, List.mem_range, Nat.add_left_cancel_iff,
    exists_eq_right, Nat.lt_add_one, true_or]

/-- An instruction that writes one register in each lane of E completes. -/
theorem completes_single {i : Instr} {n : Nat} {d : RegIx} {f : State → Lanes → Group → Nat → List (Nat × Reg)} {w : State → Group → Nat → Reg}
    (hexec : ∀ s, exec i s = computeOver i s (f s)) (hlen : lengthOf i = n)
    (hf : ∀ s g t, Active s t → f s s.iss.lanes g t = [(d.toNat, w s g t)]) : Completes i n fun s g t => [(d.toNat, w s g t)] := by
  intro s g r
  refine r.completes (hexec s) hlen (hf s g) fun t _ x hx => ?_
  rw [List.mem_singleton.mp hx]
  exact d.isLt

/-- The same for a model that writes the register, where its result is the stated one. -/
theorem completes_reg {i : Instr} {n : Nat} {d : RegIx} {v : State → Lanes → Group → Nat → Reg} {w : State → Group → Nat → Reg}
    (hexec : ∀ s, exec i s = computeOver i s fun e g t => [(d.toNat, v s e g t)]) (hlen : lengthOf i = n)
    (hv : ∀ s g t, Active s t → v s s.iss.lanes g t = w s g t) : Completes i n fun s g t => [(d.toNat, w s g t)] :=
  completes_single hexec hlen fun s g t ht => by rw [hv s g t ht]

/-- Two writes, each to a register of a lane. -/
theorem fst_lt_of_two {k j : Nat} {lo hi : Reg} (hk : k < 128) (hj : j < 128) : ∀ x ∈ [(k, lo), (j, hi)], x.1 < 128 :=
  List.forall_mem_cons.mpr ⟨hk, List.forall_mem_cons.mpr ⟨hj, fun _ h => absurd h List.not_mem_nil⟩⟩

/-- The two writes of a pair that the instruction names are to registers of a lane. -/
theorem Ready.pair_lt {i : Instr} {s : State} {g : Group} (r : Ready i s g) {d : RegIx} (hd : d.toNat + 1 ∈ namedRegs i) {lo hi : Reg} :
    ∀ x ∈ [(d.toNat, lo), (d.toNat + 1, hi)], x.1 < 128 :=
  fst_lt_of_two d.isLt (r.reg_lt (r.bound _ hd))

/-- An instruction that writes a pair of registers in each lane of E completes. -/
theorem completes_pair {i : Instr} {n : Nat} {d : RegIx} {lo hi : State → Group → Nat → Reg}
    (hd : d.toNat + 1 ∈ namedRegs i)
    (hexec : ∀ s, exec i s = compute i s fun g t => [(d.toNat, lo s g t), (d.toNat + 1, hi s g t)]) (hlen : lengthOf i = n) :
    Completes i n fun s g t => [(d.toNat, lo s g t), (d.toNat + 1, hi s g t)] :=
  fun s _ r => r.completes (hexec s) hlen (fun _ _ => rfl) fun _ _ => r.pair_lt hd

/-! ### The shapes of the integer instructions -/

/-- Two register sources: the model's operation `k` on words is the stated `f`. -/
theorem binary_of_exec {mk : Bool → RegIx → RegIx → RegIx → Instr} {f k : Word → Word → Word}
    (hexec : ∀ x d a b s, exec (mk x d a b) s = binary (mk x d a b) d a b s k) (hlen : ∀ x d a b, lengthOf (mk x d a b) = 1)
    (hk : ∀ p q, k p q = f p q) : Binary mk f :=
  fun x d a b => completes_reg (hexec x d a b) (hlen x d a b) fun _ _ _ _ => congrArg int32 (hk ..)

/-- One register source. -/
theorem unary_of_exec {mk : Bool → RegIx → RegIx → Instr} {f k : Word → Word} (hexec : ∀ x d a s, exec (mk x d a) s = unary (mk x d a) d a s k)
    (hlen : ∀ x d a, lengthOf (mk x d a) = 1) (hk : ∀ p, k p = f p) : Unary mk f :=
  fun x d a => completes_reg (hexec x d a) (hlen x d a) fun _ _ _ _ => congrArg int32 (hk ..)

/-- A register source and the 7-bit field b. -/
theorem unaryImm_of_exec {mk : Bool → RegIx → RegIx → BitVec 7 → Instr} {f k : Word → BitVec 7 → Word}
    (hexec : ∀ x d a i s, exec (mk x d a i) s = unary (mk x d a i) d a s fun p => k p i) (hlen : ∀ x d a i, lengthOf (mk x d a i) = 1)
    (hk : ∀ p i, k p i = f p i) : UnaryImm mk f :=
  fun x d a i => completes_reg (hexec x d a i) (hlen x d a i) fun _ _ _ _ => congrArg int32 (hk ..)

/-- A register source and a literal. -/
theorem unaryLit_of_exec {mk : Bool → RegIx → RegIx → Word → Instr} {f : Word → Word → Word}
    (hexec : ∀ x d a lit s, exec (mk x d a lit) s = unary (mk x d a lit) d a s fun p => f p lit)
    (hlen : ∀ x d a lit, lengthOf (mk x d a lit) = 2) : UnaryLit mk f :=
  fun x d a lit => completes_reg (hexec x d a lit) (hlen x d a lit) fun _ _ _ _ => rfl

/-- An instruction that computes a 64-bit result into a pair completes. -/
theorem completes_pairWrites {i : Instr} {n : Nat} {d : RegIx} {k f : State → Group → Nat → Dword} {rest : List Operand} {o : Operand}
    (hops : operands i = o :: rest) (ho : o.span = (d.toNat, 2))
    (hexec : ∀ s, exec i s = compute i s fun g t => int64 d (k s g t)) (hlen : lengthOf i = n) (hk : ∀ s g t, k s g t = f s g t) :
    Completes i n fun s g t => pairWrites d (f s g t) := by
  obtain rfl : k = f := funext fun s => funext fun g => funext fun t => hk s g t
  exact completes_pair (pair_mem_namedRegs hops ho) hexec hlen

/-- A 64-bit result from two pairs. -/
theorem binary64_of_exec {mk : Bool → RegIx → RegIx → RegIx → Instr} {f : Dword → Dword → Dword}
    (hops : ∀ x d a b, operands (mk x d a b) = [.dest d.toNat 2 2, .source a.toNat 2 2, .source b.toNat 2 2])
    (hexec : ∀ x d a b s, exec (mk x d a b) s = binary64 (mk x d a b) d a b s f) (hlen : ∀ x d a b, lengthOf (mk x d a b) = 1) :
    Binary64 mk f :=
  fun x d a b => completes_pairWrites (hops x d a b) rfl (hexec x d a b) (hlen x d a b) fun _ _ _ => rfl

/-- A 64-bit result from a pair and the 7-bit field b. -/
theorem unary64Imm_of_exec {mk : Bool → RegIx → RegIx → BitVec 7 → Instr} {f k : Dword → BitVec 7 → Dword}
    (hops : ∀ x d a i, operands (mk x d a i) = [.dest d.toNat 2 2, .source a.toNat 2 2])
    (hexec : ∀ x d a i s, exec (mk x d a i) s = unary64 (mk x d a i) d a s fun p => k p i) (hlen : ∀ x d a i, lengthOf (mk x d a i) = 1)
    (hk : ∀ p i, k p i = f p i) : Unary64Imm mk f :=
  fun x d a i => completes_pairWrites (hops x d a i) rfl (hexec x d a i) (hlen x d a i) fun _ _ _ => hk _ _

/-! ### Integer arithmetic on words -/

/-- The shifts of R368, whose amount may pass the width: left, logical right, and arithmetic right. -/
theorem shiftBits_left {w : Nat} (p : BitVec w) (n : Nat) : shiftBits 0 p n = if w ≤ n then 0#w else p <<< n := by
  simp only [shiftBits, Nat.reduceBEq, Bool.false_and, Bool.false_eq_true, ↓reduceIte, BEq.rfl]

theorem shiftBits_right {w : Nat} (p : BitVec w) (n : Nat) : shiftBits 1 p n = if w ≤ n then 0#w else p >>> n := by
  simp only [shiftBits, Nat.reduceBEq, Bool.false_and, Bool.false_eq_true, ↓reduceIte, BEq.rfl]

theorem shiftBits_arith {w : Nat} (p : BitVec w) (n : Nat) :
    shiftBits 2 p n = if w ≤ n then (if p.toInt < 0 then BitVec.allOnes w else 0#w) else p.sshiftRight n := by
  simp only [shiftBits, BEq.rfl, BitVec.msb_eq_toInt, Bool.true_and, decide_eq_true_eq, Nat.reduceBEq, Bool.false_eq_true, ↓reduceIte]

theorem signExtend_mul_signExtend (p q : Word) : (p.signExtend 64 * q.signExtend 64 : Dword) = BitVec.ofInt 64 (p.toInt * q.toInt) := by
  simp only [BitVec.signExtend, BitVec.ofInt_mul]

theorem setWidth_mul_setWidth (p q : Word) : (p.setWidth 64 * q.setWidth 64 : Dword) = BitVec.ofNat 64 (p.toNat * q.toNat) := by
  rw [BitVec.ofNat_mul, BitVec.ofNat_toNat, BitVec.ofNat_toNat]

/-- The high word of a 64-bit value is its quotient by 2^32. -/
theorem hiWord_ofInt (n : Int) : hiWord (BitVec.ofInt 64 n) = BitVec.ofInt 32 (n / 2 ^ 32) := by
  apply BitVec.eq_of_toNat_eq
  simp only [hiWord, BitVec.toNat_setWidth, BitVec.toNat_ushiftRight, BitVec.toNat_ofInt, Nat.shiftRight_eq_div_pow]
  omega

theorem hiWord_ofNat (n : Nat) : hiWord (BitVec.ofNat 64 n) = BitVec.ofNat 32 (n / 2 ^ 32) := by
  apply BitVec.eq_of_toNat_eq
  simp only [hiWord, BitVec.toNat_setWidth, BitVec.toNat_ushiftRight, BitVec.toNat_ofNat, Nat.shiftRight_eq_div_pow]
  omega

/-- A signed minimum taken with the strict comparison of the second with the first is the one taken with `≤`. -/
theorem ite_slt_eq_min {w : Nat} (p q : BitVec w) : (if q.slt p then q else p) = if p.toInt ≤ q.toInt then p else q := by
  simp only [BitVec.slt_iff_toInt_lt, ← Int.not_le, ite_not]

/-- A signed maximum taken with `<` is the one taken with `≤`: where the numbers are equal, so are the words. -/
theorem ite_slt_eq_max {w : Nat} (p q : BitVec w) : (if p.slt q then q else p) = if p.toInt ≤ q.toInt then q else p := by
  simp only [BitVec.slt_iff_toInt_lt]
  rcases Int.lt_trichotomy p.toInt q.toInt with h | h | h
  · rw [if_pos h, if_pos (Int.le_of_lt h)]
  · rw [BitVec.toInt_inj.mp h, ite_self, ite_self]
  · rw [if_neg (Int.lt_asymm h), if_neg (Int.not_le.mpr h)]

/-- The same for the unsigned minimum. -/
theorem ite_ult_eq_min {w : Nat} (p q : BitVec w) : (if q.ult p then q else p) = if p.toNat ≤ q.toNat then p else q := by
  simp only [BitVec.ult_iff_toNat_lt, ← Nat.not_le, ite_not]

/-- The same for the unsigned maximum. -/
theorem ite_ult_eq_max {w : Nat} (p q : BitVec w) : (if p.ult q then q else p) = if p.toNat ≤ q.toNat then q else p := by
  simp only [BitVec.ult_iff_toNat_lt]
  rcases Nat.lt_trichotomy p.toNat q.toNat with h | h | h
  · rw [if_pos h, if_pos (Nat.le_of_lt h)]
  · rw [BitVec.toNat_inj.mp h, ite_self, ite_self]
  · rw [if_neg (Nat.lt_asymm h), if_neg (Nat.not_le.mpr h)]

/-! ### The integer instructions -/

/-- R367, R368: with two register sources. -/
theorem integerBinary : Claims.IntegerBinary :=
  ⟨binary_of_exec exec_iaddS32 lengthOf_iaddS32 fun _ _ => rfl,
    binary_of_exec exec_isubS32 lengthOf_isubS32 fun _ _ => rfl,
    binary_of_exec exec_imulS32 lengthOf_imulS32 fun _ _ => rfl,
    binary_of_exec exec_imulhiS32 lengthOf_imulhiS32 fun p q => by rw [signExtend_mul_signExtend, hiWord_ofInt],
    binary_of_exec exec_imulhiN32 lengthOf_imulhiN32 fun p q => by rw [setWidth_mul_setWidth, hiWord_ofNat],
    binary_of_exec exec_iaddS32Sat lengthOf_iaddS32Sat fun _ _ => rfl,
    binary_of_exec exec_isubS32Sat lengthOf_isubS32Sat fun _ _ => rfl,
    binary_of_exec exec_iminS32 lengthOf_iminS32 ite_slt_eq_min,
    binary_of_exec exec_imaxS32 lengthOf_imaxS32 ite_slt_eq_max,
    binary_of_exec exec_iminN32 lengthOf_iminN32 ite_ult_eq_min,
    binary_of_exec exec_imaxN32 lengthOf_imaxN32 ite_ult_eq_max,
    binary_of_exec exec_andB32 lengthOf_andB32 fun _ _ => rfl,
    binary_of_exec exec_orB32 lengthOf_orB32 fun _ _ => rfl,
    binary_of_exec exec_xorB32 lengthOf_xorB32 fun _ _ => rfl,
    binary_of_exec exec_andnB32 lengthOf_andnB32 fun _ _ => rfl,
    binary_of_exec exec_shlB32 lengthOf_shlB32 fun p q => shiftBits_left p q.toNat,
    binary_of_exec exec_shrN32 lengthOf_shrN32 fun p q => shiftBits_right p q.toNat,
    binary_of_exec exec_shrS32 lengthOf_shrS32 fun p q => shiftBits_arith p q.toNat⟩

/-- R367, R368: with one register source, an immediate or a literal. -/
theorem integerUnary : Claims.IntegerUnary :=
  ⟨unary_of_exec exec_inegS32 lengthOf_inegS32 fun _ => rfl,
    unary_of_exec exec_iabsS32 lengthOf_iabsS32 fun p => by simp only [BitVec.msb_eq_toInt, decide_eq_true_eq],
    unary_of_exec exec_notB32 lengthOf_notB32 fun _ => rfl,
    unaryImm_of_exec exec_iaddS32Imm lengthOf_iaddS32Imm fun _ _ => rfl,
    unaryImm_of_exec exec_shlB32Imm lengthOf_shlB32Imm fun p i => shiftBits_left p i.toNat,
    unaryImm_of_exec exec_shrN32Imm lengthOf_shrN32Imm fun p i => shiftBits_right p i.toNat,
    unaryImm_of_exec exec_shrS32Imm lengthOf_shrS32Imm fun p i => shiftBits_arith p i.toNat,
    unaryLit_of_exec exec_iaddS32Lit lengthOf_iaddS32Lit,
    unaryLit_of_exec exec_imulS32Lit lengthOf_imulS32Lit,
    unaryLit_of_exec exec_andB32Lit lengthOf_andB32Lit,
    unaryLit_of_exec exec_orB32Lit lengthOf_orB32Lit,
    unaryLit_of_exec exec_xorB32Lit lengthOf_xorB32Lit,
    fun x d a b => completes_reg (exec_imadS32 x d a b) (lengthOf_imadS32 x d a b) fun _ _ _ _ => rfl⟩

/-- R367, R368, R370, R371: with a pair as result. -/
theorem integer64 : Claims.Integer64 :=
  ⟨binary64_of_exec operands_iaddS64 exec_iaddS64 lengthOf_iaddS64,
    binary64_of_exec operands_isubS64 exec_isubS64 lengthOf_isubS64,
    fun x d a lit => completes_pairWrites (operands_iaddS64Lit x d a lit) rfl (exec_iaddS64Lit x d a lit) (lengthOf_iaddS64Lit x d a lit)
      fun _ _ _ => rfl,
    unary64Imm_of_exec operands_shlB64 exec_shlB64 lengthOf_shlB64 fun p i => shiftBits_left p i.toNat,
    unary64Imm_of_exec operands_shrN64 exec_shrN64 lengthOf_shrN64 fun p i => shiftBits_right p i.toNat,
    unary64Imm_of_exec operands_shrS64 exec_shrS64 lengthOf_shrS64 fun p i => shiftBits_arith p i.toNat,
    fun x d a b => completes_pairWrites (operands_imulwS32 x d a b) rfl (exec_imulwS32 x d a b) (lengthOf_imulwS32 x d a b)
      fun _ _ _ => signExtend_mul_signExtend _ _,
    fun x d a b => completes_pairWrites (operands_imulwN32 x d a b) rfl (exec_imulwN32 x d a b) (lengthOf_imulwN32 x d a b)
      fun _ _ _ => setWidth_mul_setWidth _ _,
    fun x d a b lit => completes_pairWrites (operands_leaS32 x d a b lit) rfl (exec_leaS32 x d a b lit) (lengthOf_leaS32 x d a b lit)
      fun _ _ _ => rfl,
    fun x d a b lit => completes_pairWrites (operands_leaN32 x d a b lit) rfl (exec_leaN32 x d a b lit) (lengthOf_leaN32 x d a b lit)
      fun _ _ _ => rfl⟩

/-- Settles O29: each instruction computes registers at issue, and its operation on words is the exact one of the statement. -/
theorem integerArithmetic : Obligations.IntegerArithmetic := ⟨integerBinary, integerUnary, integer64⟩

/-! ### Moves, selects, compares and indexed moves -/

/-- The high word of a sign-extended word is its sign. -/
theorem hiWord_signExtend (v : Word) : hiWord (v.signExtend 64) = if v.toInt < 0 then 0xFFFFFFFF#32 else 0#32 := by
  rw [BitVec.signExtend, hiWord_ofInt]
  have hlo := v.le_toInt
  have hhi := v.toInt_lt
  split
  · rw [show v.toInt / 2 ^ 32 = -1 by omega]; rfl
  · rw [show v.toInt / 2 ^ 32 = 0 by omega]; rfl

/-- SEL.b64 writes the pair that its condition picks. -/
theorem selB64_completes (x : Bool) (d a b : RegIx) : Completes (.selB64 x d a b) 1 fun s g t =>
    if srcVal s.iss g t d.toNat ≠ 0#32 then [(d.toNat, srcReg s.iss g t a.toNat), (d.toNat + 1, srcReg s.iss g t (a.toNat + 1))]
    else [(d.toNat, srcReg s.iss g t b.toNat), (d.toNat + 1, srcReg s.iss g t (b.toNat + 1))] := by
  intro s g r
  have hd := pair_mem_namedRegs (operands_selB64 x d a b) rfl
  refine r.completes (exec_selB64 x d a b s) (lengthOf_selB64 x d a b) (fun t _ => ?_) fun t _ => ?_
  · by_cases h : srcVal s.iss g t d.toNat = 0#32 <;>
      simp only [h, ↓reduceIte, ne_eq, not_true_eq_false, not_false_eq_true]
  · dsimp only
    split
    · exact r.pair_lt hd
    · exact r.pair_lt hd

/-- R250, R367, R373: SEL reads its condition from the group as it stood before the write. -/
theorem moves : Claims.Moves :=
  ⟨fun x d a => completes_reg (exec_movB32 x d a) (lengthOf_movB32 x d a) fun _ _ _ _ => rfl,
    fun x d a => completes_pair (pair_mem_namedRegs (operands_movB64 x d a) rfl) (exec_movB64 x d a) (lengthOf_movB64 x d a),
    fun x d lit => completes_reg (exec_movB32Lit x d lit) (lengthOf_movB32Lit x d lit) fun _ _ _ _ => rfl,
    fun x d lit => completes_pair (pair_mem_namedRegs (operands_movS64Lit x d lit) rfl)
      (fun s => by rw [exec_movS64Lit, execMovS64Lit, hiWord_signExtend]) (lengthOf_movS64Lit x d lit),
    fun x d a b => completes_reg (exec_selB32 x d a b) (lengthOf_selB32 x d a b) fun _ _ _ _ => (ite_not ..).symm,
    selB64_completes,
    fun x d a k => completes_reg (exec_tag x d a k) (lengthOf_tag x d a k) fun _ _ _ _ => rfl,
    fun x d a => completes_reg (exec_rdtag x d a) (lengthOf_rdtag x d a) fun _ _ _ _ => congrArg int32 (BitVec.ofNat_toNat ..).symm⟩

/-- The condition codes of the model compare as R372 says. -/
theorem condition_eq_compares (c : Nat) (p q : Int) : condition c p q = compares c p q := by
  simp only [condition, compares, beq_iff_eq, bne]

/-- R372. -/
theorem integerCompares : Claims.Compares :=
  ⟨fun x c d a b => completes_reg (exec_icmpS32 x c d a b) (lengthOf_icmpS32 x c d a b) fun _ _ _ _ => congrArg truth (condition_eq_compares ..),
    fun x c d a b => completes_reg (exec_icmpN32 x c d a b) (lengthOf_icmpN32 x c d a b) fun _ _ _ _ => congrArg truth (condition_eq_compares ..),
    fun x c d a lit => completes_reg (exec_icmpS32Lit x c d a lit) (lengthOf_icmpS32Lit x c d a lit) fun _ _ _ _ =>
      congrArg truth (condition_eq_compares ..),
    fun x d a b => completes_reg (exec_icmpEqB64 x d a b) (lengthOf_icmpEqB64 x d a b) fun _ _ _ _ => rfl,
    fun x d a b => completes_reg (exec_icmpLtS64 x d a b) (lengthOf_icmpLtS64 x d a b) fun _ _ _ _ => congrArg truth BitVec.slt_eq_decide,
    fun x d a b => completes_reg (exec_icmpLtN64 x d a b) (lengthOf_icmpLtN64 x d a b) fun _ _ _ _ => congrArg truth BitVec.ult_eq_decide⟩

/-- An operand check that no lane fails changes nothing. -/
theorem operandCheck_pass {s : State} {g : Group} {e : Lanes} (code : Nat) (soft : Bool) {bad : Group → Nat → Option Nat}
    (hg : issGroup s = some g) (h : ∀ t ∈ lanesOf e, bad g t = none) : operandCheck code soft bad (s, e) = (s, e) := by
  have hf : (lanesOf e).filter (fun t => (bad g t).isSome) = [] :=
    List.filter_eq_nil_iff.mpr fun t ht => by simp only [h t ht, Option.isSome_none, Bool.false_eq_true, not_false_eq_true]
  unfold operandCheck
  split
  · rfl
  · simp only [hg, hf, List.isEmpty_nil, if_true]

/-- The index that lane t reads for an indexed move. -/
def moveIndex (s : State) (g : Group) (ix : RegIx) (t : Nat) : Nat := (srcVal s.iss g t ix.toNat).toNat

/-- An indexed move whose indices pass the check, with room in the logs, computes registers from registers. -/
theorem indexed_eq_compute {i : Instr} {s : State} {g : Group} (r : Ready i s g) (pair wr : Bool) (ix : RegIx)
    (f : Group → Nat → Nat → List (Nat × Reg)) (hin : ∀ t, Active s t → indexBad pair g (moveIndex s g ix t) = false)
    (hlog : wr = true → indexLogFull pair g s.iss.lanes (moveIndex s g ix) = 0#32) :
    indexed i pair wr ix s f = compute i s fun g t => f g t (moveIndex s g ix t) := by
  have hcheck := operandCheck_pass (s := s) (e := s.iss.lanes) 4 false
    (bad := fun g t => if indexBad pair g (moveIndex s g ix t) then some 0 else none) r.group
    fun t ht => by simp only [hin t ((mem_lanesOf _ t).mp ht), Bool.false_eq_true, ↓reduceIte]
  have hfull : (if wr then indexLogFull pair g s.iss.lanes (moveIndex s g ix) else 0#32) = 0#32 := by
    split
    · exact hlog ‹_›
    · rfl
  have hall : s.iss.lanes &&& ~~~(0#32) = s.iss.lanes := by rw [BitVec.not_zero, BitVec.and_allOnes]
  unfold indexed compute
  rw [issueOn_ready r, issueOn_ready r]
  unfold moveIndex at hcheck hfull
  simp only [hcheck, r.group, hfull, abortLanes_zero, hall, stillThere_ready r]
  rfl

/-- An index below the registers of the group passes the check of R382, and for a pair an even one. -/
theorem indexBad_false {pair : Bool} {g : Group} {k : Nat} (hk : k < 8 * g.granules) (he : pair = true → k % 2 = 0) :
    indexBad pair g k = false := by
  have hlow : decide (regBound g ≤ k) = false := decide_eq_false (Nat.not_le.mpr hk)
  cases pair with
  | false => rw [indexBad, hlow]; rfl
  | true =>
    have heven := he rfl
    have hnext : ¬ regBound g ≤ k + 1 := by unfold regBound; omega
    simp only [indexBad, hlow, heven, Nat.reduceBEq, hnext, decide_false, Bool.or_self, Bool.and_false]

/-- R382: with the check passed and room in the logs, each form computes registers from registers. -/
theorem indexedMoves : Claims.IndexedMoves := by
  refine ⟨fun x d a s g r hin => ?rd, fun x d a s g r ⟨hin, hlog⟩ => ?wr, fun x d a s g r hin => ?rd64, fun x d a s g r ⟨hin, hlog⟩ => ?wr64⟩
  case rd =>
    refine r.completes ((exec_movxRd x d a s).trans (indexed_eq_compute r false false a _ (fun t ht => indexBad_false (hin t ht) nofun) nofun))
      (lengthOf_movxRd x d a) (fun _ _ => rfl) fun t _ y hy => ?_
    rw [List.mem_singleton.mp hy]
    exact d.isLt
  case wr =>
    refine r.completes ((exec_movxWr x d a s).trans
      (indexed_eq_compute r false true d _ (fun t ht => indexBad_false (hin t ht) nofun) fun _ => hlog))
      (lengthOf_movxWr x d a) (fun _ _ => rfl) fun t ht y hy => ?_
    rw [List.mem_singleton.mp hy]
    exact r.reg_lt (hin t ht)
  case rd64 =>
    exact r.completes ((exec_movxRdB64 x d a s).trans
      (indexed_eq_compute r true false a _ (fun t ht => indexBad_false (hin t ht).2 fun _ => (hin t ht).1) nofun))
      (lengthOf_movxRdB64 x d a) (fun _ _ => rfl) fun t _ => r.pair_lt (pair_mem_namedRegs (operands_movxRdB64 x d a) rfl)
  case wr64 =>
    refine r.completes ((exec_movxWrB64 x d a s).trans
      (indexed_eq_compute r true true d _ (fun t ht => indexBad_false (hin t ht).2 fun _ => (hin t ht).1) fun _ => hlog))
      (lengthOf_movxWrB64 x d a) (fun _ _ => rfl) fun t ht => ?_
    obtain ⟨heven, hlow⟩ := hin t ht
    exact fst_lt_of_two (r.reg_lt hlow) (r.reg_lt (by omega))

/-- Settles O31: moves and compares compute registers at issue, and an indexed move does so once its indices pass the check of R382. -/
theorem movesAndCompares : Obligations.MovesAndCompares := ⟨moves, integerCompares, indexedMoves⟩

/-! ### Votes, shuffles, matches and reductions over E -/

/-- VOTE.any, which scans the lanes of E, asks whether one of them has a value that is not 0. -/
theorem anyLane_eq_decide (e : Lanes) (v : Nat → Word) :
    ((lanesOf e).any fun u => !(decide (v u = 0#32))) = decide (∃ u ∈ lanesOf e, v u ≠ 0#32) := by
  rw [Bool.eq_iff_iff]
  simp only [List.any_eq_true, Bool.not_eq_true', decide_eq_false_iff_not, decide_eq_true_eq, ne_eq]

/-- VOTE.all asks whether all of them have. -/
theorem allLanes_eq_decide (e : Lanes) (v : Nat → Word) :
    ((lanesOf e).all fun u => !(decide (v u = 0#32))) = decide (∀ u ∈ lanesOf e, v u ≠ 0#32) := by
  rw [Bool.eq_iff_iff]
  simp only [List.all_eq_true, Bool.not_eq_true', decide_eq_false_iff_not, decide_eq_true_eq, ne_eq]

/-- What the model gives a lane in a shuffle is what R375 says of the exact source lane. -/
theorem shuffled_eq (s : State) (g : Group) (a : RegIx) (t : Nat) (u : Int) :
    shuffled s.iss s.iss.lanes g t a.toNat u = Shuffled s g a t u := by
  have hu : u ≤ 31 ↔ u < 32 := by omega
  simp only [shuffled, Shuffled, Bool.and_eq_true, decide_eq_true_eq, and_assoc, hu]

/-- The exclusive or of a lane number with an operand is exact in a width that holds the number. -/
theorem toNat_ofNat_xor {w t : Nat} (ht : t < 2 ^ w) (v : BitVec w) : (BitVec.ofNat w t ^^^ v).toNat = t ^^^ v.toNat := by
  rw [BitVec.toNat_xor, BitVec.toNat_ofNat, Nat.mod_eq_of_lt ht]

/-- R374 to R376, from the reading of a vote's scan and of the source lane of a shuffle. -/
theorem votesAndShuffles : Claims.VotesAndShuffles :=
  ⟨fun x d a => completes_reg (exec_voteBallot x d a) (lengthOf_voteBallot x d a) fun _ _ _ _ => rfl,
    fun x d a => completes_reg (exec_voteAny x d a) (lengthOf_voteAny x d a) fun _ _ _ _ => congrArg truth (anyLane_eq_decide ..),
    fun x d a => completes_reg (exec_voteAll x d a) (lengthOf_voteAll x d a) fun _ _ _ _ => congrArg truth (allLanes_eq_decide ..),
    fun x d a b => completes_reg (exec_shflIdx x d a b) (lengthOf_shflIdx x d a b) fun _ _ _ _ => shuffled_eq ..,
    fun x d a b => completes_reg (exec_shflUp x d a b) (lengthOf_shflUp x d a b) fun _ _ _ _ => shuffled_eq ..,
    fun x d a b => completes_reg (exec_shflDown x d a b) (lengthOf_shflDown x d a b) fun _ _ _ _ => shuffled_eq ..,
    fun x d a b => completes_reg (exec_shflXor x d a b) (lengthOf_shflXor x d a b) fun _ _ t ht => by
      rw [toNat_ofNat_xor (Nat.lt_trans ht.1 (by decide)), shuffled_eq],
    fun x d a i => completes_reg (exec_shflDownImm x d a i) (lengthOf_shflDownImm x d a i) fun _ _ _ _ => shuffled_eq ..,
    fun x d a i => completes_reg (exec_shflXorImm x d a i) (lengthOf_shflXorImm x d a i) fun _ _ t ht => by
      rw [toNat_ofNat_xor ht.1, shuffled_eq],
    fun x d a => completes_reg (exec_matchB32 x d a) (lengthOf_matchB32 x d a) fun _ _ _ _ => rfl⟩

/-- Where a lane executes, E has a lowest lane. -/
theorem Active.lanesOf_eq_cons {s : State} {t : Nat} (h : Active s t) : ∃ u l, lanesOf s.iss.lanes = u :: l :=
  List.exists_cons_of_ne_nil (List.ne_nil_of_mem ((mem_lanesOf s.iss.lanes t).mpr h))

/-- The operation codes of GRED. -/
theorem gredCode_cases (o : BitVec 3) :
    o = 0#3 ∨ o = 1#3 ∨ o = 2#3 ∨ o = 3#3 ∨ o = 4#3 ∨ o = 5#3 ∨ o = 6#3 ∨ o = 7#3 := by
  revert o
  decide

/-- A fold from the first value is the fold of all values from a left identity. -/
theorem foldl_eq_of_left_id {α : Type} {f k : α → α → α} {e v : α} (hf : ∀ p q, f p q = k p q) (he : k e v = v) (l : List α) :
    l.foldl f v = (v :: l).foldl k e := by
  obtain rfl : f = k := funext fun p => funext (hf p)
  rw [List.foldl_cons, he]

/-- The largest signed word is an identity of the signed minimum. -/
theorem min_identity (v : Word) : (if (0x7FFFFFFF#32).toInt ≤ v.toInt then 0x7FFFFFFF#32 else v) = v :=
  ite_eq_right_iff.mpr fun h => BitVec.toInt_inj.mp (Int.le_antisymm h (Int.le_of_lt_add_one v.toInt_lt))

/-- The largest word is an identity of the unsigned minimum. -/
theorem minUnsigned_identity (v : Word) : (if (0xFFFFFFFF#32).toNat ≤ v.toNat then 0xFFFFFFFF#32 else v) = v :=
  ite_eq_right_iff.mpr fun h => BitVec.toNat_inj.mp (Nat.le_antisymm h (Nat.le_of_lt_succ v.isLt))

/-- GRED, which combines from the first value on, gives the combination of all values from the identity of its operation; the cases of the proof are
the operation codes 0 to 7. -/
theorem foldl_gredOp (o : BitVec 3) (v : Word) (l : List Word) : l.foldl (gredOp o.toNat) v =
    if o = 0#3 then (v :: l).foldl (· + ·) 0#32
    else if o = 1#3 then (v :: l).foldl (fun p q => if p.toInt ≤ q.toInt then p else q) 0x7FFFFFFF#32
    else if o = 2#3 then (v :: l).foldl (fun p q => if p.toInt ≤ q.toInt then q else p) 0x80000000#32
    else if o = 3#3 then (v :: l).foldl (fun p q => if p.toNat ≤ q.toNat then p else q) 0xFFFFFFFF#32
    else if o = 4#3 then (v :: l).foldl (fun p q => if p.toNat ≤ q.toNat then q else p) 0#32
    else if o = 5#3 then (v :: l).foldl (· &&& ·) 0xFFFFFFFF#32
    else if o = 6#3 then (v :: l).foldl (· ||| ·) 0#32
    else (v :: l).foldl (· ^^^ ·) 0#32 := by
  rcases gredCode_cases o with rfl | rfl | rfl | rfl | rfl | rfl | rfl | rfl <;> simp only [BitVec.reduceEq, ↓reduceIte]
  · exact foldl_eq_of_left_id (fun _ _ => rfl) (BitVec.zero_add v) l
  · exact foldl_eq_of_left_id ite_slt_eq_min (min_identity v) l
  · exact foldl_eq_of_left_id (e := 0x80000000#32) (v := v) ite_slt_eq_max (if_pos v.le_toInt) l
  · exact foldl_eq_of_left_id ite_ult_eq_min (minUnsigned_identity v) l
  · exact foldl_eq_of_left_id (e := 0#32) (v := v) ite_ult_eq_max (if_pos v.toNat.zero_le) l
  · exact foldl_eq_of_left_id (fun _ _ => rfl) BitVec.allOnes_and l
  · exact foldl_eq_of_left_id (fun _ _ => rfl) BitVec.zero_or l
  · exact foldl_eq_of_left_id (fun _ _ => rfl) BitVec.zero_xor l

/-- R377: the first value of the fold stands for the identity of the operation. -/
theorem groupReductions : Claims.GroupReductions := fun x d a o =>
  completes_single (exec_gred x d a o) (lengthOf_gred x d a o) fun _ _ _ ht => by
    obtain ⟨u, l, hl⟩ := ht.lanesOf_eq_cons
    simp only [hl, List.map_cons, foldl_gredOp]
    rfl

/-- The exact sum of values does not depend on their order: neither do the tests it makes of them, their smallest exponent, and the sum of the
scaled values. -/
theorem sumVals_perm {p q : List Val} (h : p.Perm q) : sumVals p = sumVals q := by
  have hany (f : Val → Bool) : p.any f = q.any f := h.any_eq
  have hall (f : Val → Bool) : p.all f = q.all f := h.all_eq
  have hfold (f : Int → Val → Int) (b : Int) (hf : ∀ x y z, f (f z x) y = f (f z y) x) : p.foldl f b = q.foldl f b :=
    h.foldl_eq' (fun x _ y _ z => hf x y z) b
  unfold sumVals
  simp only [hany, hall]
  rw [hfold _ _ ?sum, hfold _ _ ?base]
  case base =>
    intro x y z
    cases x with
    | nan | inf _ => rfl
    | fin a m e =>
      cases y with
      | nan | inf _ => rfl
      | fin b n k =>
        show min (min z e) k = min (min z k) e
        omega
  case sum =>
    intro x y z
    cases x with
    | nan | inf _ => rfl
    | fin a m e =>
      cases y with
      | nan | inf _ => rfl
      | fin b n k => exact Int.add_right_comm z _ _

/-- FGRED.min and FGRED.max start from the value of the lowest lane of E. -/
theorem fgredPick_completes {maxi : Bool} {i : Instr} {d a : RegIx} (hexec : ∀ s, exec i s = fgredPick maxi i d a s) (hlen : lengthOf i = 1) :
    Completes i 1 fun s g _ =>
      [(d.toNat, ⟨BitVec.ofNat 32 (((lanesOf s.iss.lanes).map fun u => (srcVal s.iss g u a.toNat).toNat).foldl (fminmaxEnc fp32 maxi)
        (srcVal s.iss g (lowestLane s.iss.lanes) a.toNat).toNat), 1#4⟩)] :=
  completes_single hexec hlen fun _ _ _ ht => by
    obtain ⟨u, l, hl⟩ := ht.lanesOf_eq_cons
    simp only [lowestLane, hl, List.map_cons, List.foldl_cons, List.head?_cons, Option.getD_some]
    rfl

/-- R398. -/
theorem floatGroupReductions : Claims.FloatGroupReductions :=
  ⟨fun x d a => completes_reg (exec_fgredAddF32 x d a) (lengthOf_fgredAddF32 x d a) fun _ _ _ _ => rfl,
    fun x d a => fgredPick_completes (exec_fgredMinF32 x d a) (lengthOf_fgredMinF32 x d a),
    fun x d a => fgredPick_completes (exec_fgredMaxF32 x d a) (lengthOf_fgredMaxF32 x d a),
    fun _ _ => sumVals_perm⟩

/-- Settles O32: the lanes of E that a vote, shuffle, match or reduction reads are those the issue executes, and a fold over them is the stated one. -/
theorem groupInstructions : Obligations.GroupInstructions := ⟨votesAndShuffles, groupReductions, floatGroupReductions⟩

end Sys2Proof.Machine
